-- ==== Sys2Proof/Word.lean ====
section
/-! DEFINITION. The words of the AV-2 (R5 to R8): bytes, registers, and the plainest arithmetic on them. -/

namespace Sys2Proof

/-- One byte. -/
abbrev Byte := BitVec 8
/-- A 16-bit field: a status code (R14), an epoch, a stream tag. -/
abbrev W16 := BitVec 16
/-- A 32-bit Stile register (R374). -/
abbrev W32 := BitVec 32
/-- A 64-bit field: a mask of Delta members, a request ID. -/
abbrev W64 := BitVec 64
/-- The 40-byte body of a Weir or Sluice operation (R234). -/
abbrev OpBody := BitVec 320
/-- A Fen entry, bits [447:0] (R139). -/
abbrev FenEntry := BitVec 448
/-- A presented Fen key (R142). -/
abbrev FenKey := BitVec 192

/-- Sparse data by number: sorted by key, an absent key reads as a default that each table names. -/
abbrev SMap (α : Type) := List (Nat × α)

end Sys2Proof
end

