-- ==== Sys2Proof/Syntax.lean ====
section
/-! DEFINITION. The commands of the block: one constructor of Instr per row of spec/opcode_table.json, with what
arrives from outside as its operands (a frame's bytes, a flit's fields, a register's data, a sensor's reading). -/

namespace Sys2Proof

/-! ## What arrives from outside -/

/-- A frame as its flits carry it over a PHY interface (R42, R45): header, payload, padding and trailer in one list,
byte 0 first.  `inserted` is the flit type of its first flit (R42). -/
structure WireFrame where
  bytes    : List Byte
  inserted : Bool
  deriving DecidableEq, Repr

/-- What the SPI NOR device reports in its SFDP table (R300, R306); its maximum times are in ns. -/
structure Sfdp where
  sizeBytes    : Nat
  erase64k     : Bool
  eraseSuspend : Bool
  programMax   : Nat       -- of a page program
  eraseMax     : Nat       -- of an erase of a 64 KiB block
  deriving DecidableEq, Repr

/-- Where a product takes its requant words (R181): an SRAM vector of one word per output channel or per output element, or a calibrated
point, which takes its words from the first pass or the carried scale and leaves the scale words it used at the addresses named. -/
inductive ReqSrc where
  | channel (addr : Nat)
  | element (addr : Nat)
  | point (pt : Nat) (gout : Nat) (amants : Nat) (aexp : Nat)
  deriving DecidableEq, Repr

/-- What a program has the units of one Rill do (R166, R167).  Addresses are byte addresses of the Rill's own SRAM; a KV plane is one of
R186. -/
inductive RillOp where
  /-- Bytes that come over the Brook's local bus from the Hub pool or the far tier. -/
  | input (addr : Nat) (bytes : List Byte)
  /-- The program's output table is taken from 256 bytes (R182). -/
  | table (addr : Nat)
  /-- One row of a weight tensor's product (R177, R178): int8 activations, their AMANT words, and the row exponent word. -/
  | product (tensor : Nat) (acts amants aexp : Nat) (src : ReqSrc) (out : Nat)
  /-- The scores of a query against the keys of the window (R184). -/
  | scores (plane : Nat) (query amant : Nat) (src : ReqSrc) (out : Nat)
  /-- Attention weights, int16, multiplied by the value scales of the window and requantised to int8 (R185). -/
  | weigh (plane : Nat) (weights oshift : Nat) (out : Nat)
  /-- Attention weights times the values of the window (R185). -/
  | values (plane : Nat) (weights amants gsize : Nat) (src : ReqSrc) (out : Nat)
  /-- A full group of 64 staged int16 values is encoded and written to the step's slot (R187, R188, R194, R195). -/
  | kvWrite (plane : Nat) (staged : Nat)
  deriving DecidableEq, Repr

/-- A double-bit error of a Rill's SRAM (R168): the Rill, the bank, and the address of the 64-bit word.  Which addresses a bank holds the
manual does not say, so both are given. (DESIGN CHOICE, log entry 95) -/
structure SramErr where
  rill : Nat
  bank : Nat
  word : Nat
  deriving DecidableEq, Repr

/-- The severities of R82, least severe first. -/
inductive Sev where
  | pass | hold | redact | refuse
  deriving DecidableEq, Repr

/-- A span that a classifier names: byte offsets of the prompt or answer text, and the marker to put there (R84). -/
structure ClassSpan where
  first  : Nat
  past   : Nat
  marker : W16
  deriving DecidableEq, Repr

/-- What one classifier says of one stream.  Rill microcode is not part of the manual (R167), so it is an operand. -/
structure ClassOut where
  sev    : Sev
  policy : W16
  spans  : List ClassSpan
  deriving DecidableEq, Repr

/-- What a finished Rill program leaves (R167): a verdict per stream; what it had the units of its Rills do, in order, each with the
index of its Rill among the program's; the SRAM words (Rill index, word) in which a bit has flipped (R168); a double-bit SRAM error. -/
structure ProgOut where
  verdicts  : List ClassOut
  ops       : List (Nat × RillOp)
  flips     : List (Nat × Nat)
  sramErr   : Option SramErr
  deriving DecidableEq, Repr

/-- A weight tensor of a classifier object (R176): its shape and its three arrays. -/
structure TensorDesc where
  outputs   : Nat
  reduction : Nat
  gsize     : Nat
  codes     : List Byte
  scales    : List W16
  chans     : List W64
  deriving DecidableEq, Repr

/-- One calibrated point's descriptor (R191): its weight tensor with the channels of an output group, or the E_in that Epbul recorded for a
product of R184 or R185; and the number of output groups. -/
structure PointDesc where
  groups : Nat
  tensor : Option (Nat × Nat)
  eIn    : Int
  deriving DecidableEq, Repr

/-- What a classifier object holds (R176, R191, R195); the manual gives the object no byte layout. (DESIGN CHOICE, log entry 9) -/
structure ClassDesc where
  manIdx  : Nat
  tensors : List TensorDesc
  points  : List PointDesc
  kbases  : List (Int × Int)
  deriving DecidableEq, Repr

/-- A Fen entry set of a Bale: entry index within its banks, and the entry (R141); the manual gives no byte layout. (DESIGN CHOICE, log entry 9) -/
structure FenSetDesc where
  manIdx  : Nat
  entries : List (Nat × FenEntry)
  deriving DecidableEq, Repr

/-- A Bale image as the content port reads it (R276): two header copies, the shards in order, and the objects whose
inner layout the manual does not give. (DESIGN CHOICE, log entry 9) -/
structure BaleImage where
  hdrA    : List Byte
  hdrB    : List Byte
  shards  : List (List Byte)
  classes : List ClassDesc
  fens    : List FenSetDesc
  deriving DecidableEq, Repr

/-- The sensor readings that one evaluation of R296 and R298 uses. -/
structure ThermalObs where
  temps     : List (Nat × Int)     -- Plot, in units of 0.25 °C
  badCurr   : List Nat             -- Plots whose current estimator is faulty
  up        : Bool                 -- this evaluation is on a 100 µs boundary
  down      : Bool                 -- this evaluation is on a 10 ms boundary
  fixed     : Nat                  -- single-bit errors of the Hayward's SRAM corrected since the last one (R168, R291)
  deriving DecidableEq, Repr

/-- The readings from which R293 forms the power estimate. -/
structure PowerObs where
  plotMA  : List (Nat × Nat)       -- Plot, mA
  railMV  : List (Nat × Nat)       -- Heath, core rail mV
  sramMA  : Nat
  sramMV  : Nat
  flashMV : Nat
  deriving DecidableEq, Repr

/-- How a flash command ended (R305 to R307, R315). -/
inductive FlashRes where
  | good
  | railLow              -- the flash rail fell below 88 % while a page program ran
  deriving DecidableEq, Repr

/-- An instruction of the JTAG TAP (R349, R354, R368). -/
inductive JtagOp where
  | idcode
  | bypass
  | keyWrite (slot : Fin 8) (key : BitVec 768)
  | advanceProvisioned
  | other (ir : Nat)
  deriving DecidableEq, Repr

/-- The words a mailbox command is started with: CTAG of MBX_CMD and the parameter registers from PARAM0 (R376). -/
structure MbxArgs where
  ctag : W16
  par  : List W32
  deriving DecidableEq, Repr

/-- A class-2 flit from the fabric (R360). -/
structure DataFlit where
  som    : Bool
  eom    : Bool
  poison : Bool
  eng    : BitVec 6
  dfb    : BitVec 4
  body   : List Byte
  deriving DecidableEq, Repr

/-- A fabric flit that is discarded on its own: one that R362 rejects, or a class-0 or class-1 message, which is one flit, with POISON (R360). -/
inductive BadFlit where
  | reservedClass                      -- reserved FCLASS
  | reservedKind (fclass : BitVec 2)   -- reserved FKIND of a class
  | noSom (fclass : BitVec 2)          -- no SOM while no message of the class is open
  | poisoned (fclass : BitVec 2)       -- POISON on an Op, Pass or Tokens flit
  deriving DecidableEq, Repr

/-- How a DMA transfer ended: every write acknowledged, with the bytes that it copied; a write failed (R239); a content-port status
(R367); or an uncorrectable read (R273). -/
inductive DmaRes where
  | good (data : List Byte)
  | writeFailed
  | contentFailed
  | readFailed
  | sramFailed (bank word : Nat)   -- a double-bit error in the source Rill's SRAM (R168)
  deriving DecidableEq, Repr

/-- Which request timed out (R65): a memory-port tag, a content-port tag, or a fabric request. -/
inductive ReqTag where
  | memory (port : Fin 8) (tag : BitVec 11)
  | content (tag : BitVec 9)
  | link (tag : BitVec 10)
  deriving DecidableEq, Repr

/-- One block of measurements asked for by GET_MEASUREMENTS (R321). -/
abbrev MeasIndex := Fin 8

/-! ## The commands -/

/-- The commands of the AV-2, in the order of the table. (DESIGN CHOICE, log entries 1, 79) -/
inductive Instr where
  | porNRelease (sfdp : Sfdp)
  | warmNReset (sfdp : Sfdp)
  | farWipeComplete
  | haywardFirmwareStart
  | partitionTimeout
  | lnkLockRise (p : Fin 64)
  | lnkLockFall (p : Fin 64)
  | fecUncorrectable (p : Fin 64)
  | helloRepeat (p : Fin 64)
  | trainingTimeout (p : Fin 64)
  | retrainTimeout (p : Fin 64)
  | failedPortReset (p : Fin 64)
  | hello (p : Fin 64) (f : WireFrame)
  | dataFrame (p : Fin 64) (f : WireFrame)
  | strayBodyFlit (p : Fin 64)
  | ack (p : Fin 64) (f : WireFrame)
  | nak (p : Fin 64) (f : WireFrame)
  | credit (p : Fin 64) (f : WireFrame)
  | replayTimer (p : Fin 64)
  | episodeTimeout (p : Fin 64)
  | linkFrameSend (p : Fin 64) (cls : BitVec 2)
  | fencedHandover (p : Fin 64)
  | fencedRouteRelease (m : Fin 64)
  | class0ReserveRelease (e : Fin 80)
  | poolAllocate
  | admission (p : Fin 64)
  | intakeLaneRead (c : Fin 32768)
  | mergeWave (c : Fin 32768)
  | fenSearch (pl : Fin 16)
  | fenFirstMatchResult
  | fenCountResult
  | rillDispatch (rills : List (Fin 128))
  | rillProgramComplete (prog : Nat) (out : ProgOut)
  | fabricTokens (fb : Fin 16) (tenant : BitVec 6) (lport : BitVec 6) (stag : W16) (ids : List (BitVec 19))
  | hedgeStep (c : Fin 32768)
  | outflowToken (c : Fin 32768)
  | firstStageStep (c : Fin 32768)
  | deepTick (t : Fin 64)
  | deepPassStart (t : Fin 64) (k : Fin 5)
  | deepPassOverrun (t : Fin 64) (k : Fin 5)
  | streamDeadline (c : Fin 32768)
  | calibFlush
  | fenBankOp (b : Fin 64)
  | fenOpComplete (b : Fin 64)
  | fenScrub
  | heathCurrentStretch (n : Fin 128) (mA : Nat)
  | stretchRelease (n : Fin 128)
  | throttleStepTick (obs : ThermalObs)
  | powerEstimate (obs : PowerObs)
  | thermalTrip (site : Fin 160)
  | tripClear
  | powerGrantChange (w : BitVec 7)
  | sagEntry
  | sagExit
  | brookLockLost (b : Fin 36)
  | plotSupplyFault (pl : Fin 160)
  | rillPowerDown (n : Fin 160)
  | rillPowerUp (n : Fin 128)
  | watchdogExpiry
  | haywardSramError
  | flashCommandComplete (r : FlashRes)
  | flashTimeout
  | logProgram
  | signal (fb : Fin 16) (tenant : BitVec 6) (op : OpBody)
  | wait (fb : Fin 16) (tenant : BitVec 6) (op : OpBody)
  | decrement (fb : Fin 16) (tenant : BitVec 6) (op : OpBody)
  | read (fb : Fin 16) (tenant : BitVec 6) (op : OpBody)
  | set (fb : Fin 16) (tenant : BitVec 6) (op : OpBody)
  | bind (fb : Fin 16) (tenant : BitVec 6) (op : OpBody)
  | remoteSignal (fb : Fin 16) (tenant : BitVec 6) (op : OpBody)
  | resignal (fb : Fin 16) (tenant : BitVec 6) (op : OpBody)
  | sluiceArrive (fb : Fin 16) (tenant : BitVec 6) (op : OpBody)
  | sluiceWait (fb : Fin 16) (tenant : BitVec 6) (op : OpBody)
  | linkSignal (p : Fin 64)
  | linkAck (p : Fin 64)
  | linkArrive (p : Fin 64)
  | linkReject (p : Fin 64)
  | waiterDeadline
  | sluiceArrivalDeadline (sl : Fin 256)
  | visibilityHoldRelease (fb : Fin 16)
  | tagQuarantineExpiry
  | completionTimeout (t : ReqTag)
  | weirDselWrite (data : W32)
  | dmaTransferComplete (ch : Fin 16) (r : DmaRes)
  | moveSourceFree (obj : Nat)
  | objectReload (obj : Nat) (img : BaleImage) (unread : List Nat)
  | memoryReadResponse (mp : Fin 8) (tag : BitVec 11) (last : Bool) (err : Bool)
  | memoryWriteResponse (mp : Fin 8) (tag : BitVec 11) (err : Bool)
  | contentCompletion (tag : BitVec 9) (last : Bool) (status : BitVec 3)
  | contentWriteAck (tag : BitVec 9)
  | baleLoadEnd
  | setEpochSwitch
  | fabricPass (fb : Fin 16) (tenant : BitVec 6) (eng : BitVec 6) (csf : W16) (fence : Bool) (payload : List Byte)
  | fabricData (fb : Fin 16) (fl : DataFlit)
  | fabricFhcrcFail (fb : Fin 16)
  | fabricCreditReturn (fb : Fin 16) (cls : BitVec 2) (cnt : Byte)
  | fabricCreditTimeout (fb : Fin 16)
  | fabricPortResetTimer (fb : Fin 16)
  | mctpMessage (msg : List Byte)
  | setEndpointId (eid : Byte)
  | getEndpointId
  | getEndpointUuid
  | getMctpVersionSupport
  | getMessageTypeSupport
  | getVersion
  | getCapabilities
  | negotiateAlgorithms (offersP384 : Bool) (offersSha384 : Bool)
  | getDigests
  | getCertificate (slot : Fin 8) (off : Nat) (len : Nat)
  | challenge (slot : Fin 8) (nonce : BitVec 256)
  | getMeasurements (idx : MeasIndex) (signed : Bool) (nonce : BitVec 256)
  | setEventReceiver (enable : Bool) (receiver : Byte)
  | pldmSensorRead (sensor : W16)
  | platformEventRetry
  | pldmFirmwareUpdate (comp : W16) (trailer : List Byte) (descs : List Byte) (bodyLen : Nat)
  | requestFirmwareData (off : Nat) (data : List Byte)
  | activateFirmware (selfContained : Bool)
  | objQuery (a : MbxArgs)
  | objMove (a : MbxArgs)
  | slowGrant (a : MbxArgs)
  | slowRelease (a : MbxArgs)
  | baleLoad (a : MbxArgs) (img : BaleImage)
  | baleCommit (a : MbxArgs)
  | baleAbort (a : MbxArgs)
  | baleStatus (a : MbxArgs)
  | fenRead (a : MbxArgs)
  | fenInvalidate (a : MbxArgs)
  | fenWrite (a : MbxArgs)
  | fenInsert (a : MbxArgs)
  | fenMask (a : MbxArgs)
  | calibRead (a : MbxArgs)
  | calibClear (a : MbxArgs)
  | tenantReset (a : MbxArgs)
  | deltaSet (a : MbxArgs)
  | portReset (a : MbxArgs)
  | cfgRead (a : MbxArgs)
  | bankWrite (a : MbxArgs) (image : List Byte)
  | bankStatus (a : MbxArgs)
  | lcRequest (a : MbxArgs) (buf : List Byte)
  | keyProgram (a : MbxArgs) (buf : List Byte)
  | unknownCommand (opc : Byte) (a : MbxArgs)
  | telCounterRead (off : Nat)
  | genTimeloRead
  | logFselWrite (data : W32)
  | logFetchComplete
  | registerWrite (off : Nat) (data : W32)
  | porNAssert
  | partitionReady (shares : List (BitVec 6))
  | brookLockRegained (b : Fin 36)
  | fuseProgramComplete
  | jtagAccess (op : JtagOp)
  | fabricUnknownOperation (fb : Fin 16) (tenant : BitVec 6) (opc : Byte) (op : OpBody)
  | fabricReservedFlit (fb : Fin 16) (bad : BadFlit)
  | portResetRelease (fabric : Bool) (n : Nat)
  deriving DecidableEq, Repr

end Sys2Proof
end

