-- ==== Sys2Proof/Decode.lean ====
section
/-! DEFINITION. The command that a word spells by the bits of the opcode table.  The table gives no row any bits, so there is
nothing to read: the answer is none for every word. -/

namespace Sys2Proof

/-- The command of a table word: none, because spec/opcode_table.json gives no row bits. (DESIGN CHOICE, log entry 1) -/
def decodeTableWord (_nbits _w : Nat) : Option Instr := none

end Sys2Proof
end

