-- ==== Sys2Proof/Config.lean ====
section
/-! DEFINITION. What the manual leaves open: free values and the primitives of other standards that it only names.
Each is a constant without a body, so a claim holds whatever it is. -/

namespace Sys2Proof.Config

/-- A value the manual leaves open, drawn with the state's counter `free` (log entry 4). -/
opaque freeWord : Nat → W64
/-- SHA-384, which the manual names and does not define (R278, R301). (DESIGN CHOICE, log entry 8) -/
opaque sha384 : List Byte → BitVec 384
/-- ECDSA P-384 verification: key, digest, r, s (R278, R302, R351). (DESIGN CHOICE, log entry 8) -/
opaque ecdsaVerify : BitVec 768 → BitVec 384 → BitVec 384 → BitVec 384 → Bool
/-- The SPDM signature of the device identity key over a transcript (R321, R348). (DESIGN CHOICE, log entry 8) -/
opaque spdmSign : List Byte → BitVec 768
/-- SHA-384 of the boot ROM (measurement 1 of R321). (DESIGN CHOICE, log entry 8) -/
opaque romDigest : BitVec 384
/-- The bytes of a management message, whose formats are those of the DMTF standards that the manual names (R320 to R323): its MCTP message
type, its code, its data and its signature. (DESIGN CHOICE, log entry 8) -/
opaque mctpBytes : Byte → Nat → List Byte → Option (BitVec 768) → List Byte
/-- The endpoint UUID (R320). (DESIGN CHOICE, log entry 8) -/
opaque endpointUuid : BitVec 128

end Sys2Proof.Config
end

