-- ==== Sys2Proof/Machine/State.lean ====
section
/-! DEFINITION. The state of the AV-2 block as plain data.  A field's default value is its value in State.reset: the
engine with por_n asserted (R370), before R325 has run.  Tables of many like parts are SMaps; a part that is not listed
is as the table's default says.  The model's own fields (`pending`, `out`, `free`) say so. -/

namespace Sys2Proof.Machine

/-- The reasons a step faults.  The spec stops the block nowhere, so no meaning raises one. -/
inductive Fault where
  /-- The engine is lost for good.  Raised by no meaning; safe. -/
  | engineLost
  deriving DecidableEq, Repr

/-- The reasons a step is refused. -/
inductive Refusal where
  /-- No meaning for the command yet.  Raised only by an arm of exec; safe. -/
  | notModelled (mnemonic : String)
  /-- A JTAG instruction of the full set whose effect the manual does not give (R349, R354).
  Raised by JTAG_ACCESS only, in Blank or Returned; safe: the machine stops. -/
  | jtagInstructionNotGiven
  deriving DecidableEq, Repr

/-! ## Links -/

/-- The states of a link port (R44). -/
inductive PortState where
  | down | training | up | retrain | failed
  deriving DecidableEq, Repr

/-- The roles of a link port (R51, R332). -/
inductive Role where
  | off | client | peer | opened
  deriving DecidableEq, Repr

/-- One count for each traffic class. -/
structure Cr4 where
  c0 : Nat := 0
  c1 : Nat := 0
  c2 : Nat := 0
  c3 : Nat := 0
  deriving DecidableEq, Repr

/-- Who gave a frame to a link port, for the report of R61. -/
inductive Origin where
  | none
  | transit
  | stream (ctx : Nat)
  | signal (ltag : Nat)
  | arrive (sluice : Nat) (gen : W16)
  | reply
  | agent (fb : Nat)
  | mgmt
  deriving DecidableEq, Repr

/-- The class-0 buffer of the Hub pool that a flit holds, by the region it was taken from (R69). -/
inductive C0Buf where
  | none | reserve | shared
  deriving DecidableEq, Repr

/-- A Data frame inside the engine (R45): header fields that the engine acts on, and the payload. -/
structure Frame where
  cls     : BitVec 2 := 0
  sos     : Bool := false
  eos     : Bool := false
  fence   : Bool := false
  src     : BitVec 6 := 0
  dst     : BitVec 6 := 0
  tenant  : BitVec 6 := 0
  c1kind  : BitVec 2 := 0
  epoch   : W16 := 0
  csf     : W16 := 0
  payload : List Byte := []
  stomp   : Bool := false
  origin  : Origin := .none
  bufs    : Nat := 0                   -- Hub pool buffers it holds while it waits for its egress (R70)
  c0      : C0Buf := .none             -- the class-0 buffer that a fenced class-0 frame holds meanwhile
  deriving DecidableEq, Repr

/-- A frame of the replay buffer (R57, R58). -/
structure SentFrame where
  seq    : BitVec 12
  frame  : Frame
  sentAt : Nat
  pend   : Bool := false               -- to be resent (R58)
  spent  : Bool := true                -- its credit stands (R387)
  deriving DecidableEq, Repr

/-- The sender's side of a replay episode (R58, R59). -/
structure TxEpisode where
  oldest  : BitVec 12
  start   : Nat
  replays : Nat
  deriving DecidableEq, Repr

/-- A frame on its way into the Hub pool by the standard lane of an inward Ford (R23, R70): `ford` of its flits stand in the Ford,
those before them are in the `bufs` buffers granted to it, those after them are still in the port's receive buffer. -/
structure RxItem where
  frame  : Frame
  no     : Nat := 0                    -- acceptance number on its port, for R62
  arr    : Nat := 0                    -- arrived2 of a class-2 frame (R245)
  pass   : Bool := false               -- it does not end here, or is class 2: once stored it goes on to its egress
  flits  : Nat := 0                    -- flits that it has at its port
  ford   : Nat := 0
  bufs   : Nat := 0
  stored : Bool := false
  deriving DecidableEq, Repr

/-- One link port (R44, R53 to R62).  After reset it is Down. -/
structure Port where
  state     : PortState := .down
  since     : Nat := 0                 -- when the state was entered, for the bounds of R44 and R341
  lock      : Bool := false            -- lnkNN_lock as last sampled
  phyRst    : Bool := true             -- lnkNN_phy_rst_n asserted (R357)
  pulseAt   : Option Nat := none       -- start of a 1 µs port-reset pulse (R357)
  txCred    : Cr4 := {}                -- sending credits (R54)
  c0Out     : Nat := 0                 -- class-0 flits outstanding toward the partner (R54)
  rxGrant   : Cr4 := {}                -- credits that the partner holds (R53, R55)
  owe       : Cr4 := {}                -- credits to return (R55)
  ackOwed   : Bool := false            -- an acknowledgement waits for a Data frame (R57)
  nextTx    : BitVec 12 := 0           -- next SEQ to send (R46, R60)
  nextRx    : BitVec 12 := 0           -- next SEQ expected (R57, R60)
  replay    : List SentFrame := []     -- sent and unacknowledged, oldest first (R57)
  txq       : List Frame := []         -- queued and not yet sent, oldest first
  rxEp      : Bool := false            -- a replay episode runs at the receiver (R58)
  txEp      : Option TxEpisode := none -- a replay episode runs at the sender (R59)
  lastHello : Nat := 0                 -- when the last Hello was sent (R386)
  offered   : List Byte := []          -- payload of the last Hello refused in Training (R54, R340)
  partner   : BitVec 6 := 0            -- HMEMBER of the partner (R379)
  partnered : Bool := false            -- a 24-byte Hello has been taken on this port
  rxq       : List RxItem := []        -- frames that go through the Hub pool, in order of arrival
  rxFenced  : List (Nat × Nat × Frame) := []  -- fenced class-0 frames waiting for R62: acceptance number, arrived2
  hubOps    : List (Nat × Frame) := [] -- Weir-layer operations in the class-0 lane to the Hub that it has not taken: arrived2 at arrival, frame
  accNo     : Nat := 0                 -- frames accepted, numbering them for R62
  arrived2  : Nat := 0                 -- class-2 frames accepted, numbering arrivals for R245
  deriving DecidableEq, Repr

/-! ## Fabric ports -/

/-- A fabric flit queued toward the fabric (R360), with the link port and arrival number of a class-2 frame (R245). -/
structure FbFlit where
  fclass : BitVec 2
  fkind  : BitVec 2
  som    : Bool := true
  eom    : Bool := true
  poison : Bool := false
  fence  : Bool := false
  tenant : BitVec 6 := 0
  csf    : W16 := 0
  eng    : BitVec 6 := 0
  lport  : BitVec 6 := 0
  body   : List Byte := []
  bufs   : Nat := 0                    -- Hub pool buffers freed when it leaves
  fromPort : Option (Nat × Nat) := none
  deriving DecidableEq, Repr

/-- A class-2 message from the fabric that is still open (R361, R362). -/
structure OpenMsg where
  eng  : BitVec 6
  dfb  : BitVec 4
  body : List Byte
  poison : Bool := false
  kept : Nat := 0                      -- flits that have not left the port, their credit not returned (R70)
  sent : Nat := 0                      -- bytes of the body whose flits have cut through to the link (R52)
  deriving DecidableEq, Repr

/-- A COMPLETE that waits for a visibility hold (R245): the holds (link port, arrival number) and the flit. -/
structure HeldComplete where
  holds : List (Nat × Nat)
  flit  : FbFlit
  deriving DecidableEq, Repr

/-- One fabric port (R359 to R363).  After reset its reset is asserted. -/
structure FbPort where
  active   : Bool := false
  held     : Bool := false
  inReset  : Bool := true
  heldAt   : Nat := 0
  lastRst  : Nat := 0                  -- last reset by the timer of R363 in this held period; 0 while none
  relAt    : Nat := 0                  -- when the reset was released
  pulseAt  : Option Nat := none        -- start of a 1 µs reset pulse
  idleLogged : Bool := false
  txCred   : Cr4 := {}
  owe1     : Nat := 0                  -- class-1 credits withheld while an Eddy waits for a buffer (R101)
  got0     : Nat := 0                  -- class-0 credits returned since the release
  c0Out    : Nat := 0
  q0       : List FbFlit := []
  q1       : List FbFlit := []
  q2       : List FbFlit := []
  open2    : Option OpenMsg := none
  rxw      : List RxItem := []         -- class-2 messages that wait for their egress (R70), and behind them signals and arrivals (R243)
  heldC    : List HeldComplete := []
  deriving DecidableEq, Repr

/-! ## Weirs and Sluices -/

/-- The last signaller of a Weir or Sluice (R254): WEIR_DLAST0 and WEIR_DLAST1. -/
structure LastSig where
  kind   : BitVec 2 := 0
  eng    : BitVec 6 := 0
  agent  : W16 := 0
  sigseq : W32 := 0
  deriving DecidableEq, Repr

/-- A waiter of a Weir or Sluice (R231, R237): its agent, tag and fabric port, its N, and its deadline. -/
structure Waiter where
  agent    : W16
  tag      : W16
  fb       : Nat
  tenant   : BitVec 6
  n        : W32
  opc      : Byte
  deadline : Nat
  deriving DecidableEq, Repr

/-- A Weir (R236, R245, R250). -/
structure Weir where
  val   : W32 := 0
  queue : List Waiter := []
  bound : Option Nat := none           -- the stream context it is bound to
  holds : List (Nat × Nat) := []       -- visibility holds (R245)
  last  : LastSig := {}
  deriving DecidableEq, Repr

/-- The record of one Sluice generation (R240): the participant mask once known, and the arrived set. -/
structure GenRec where
  mask    : Option W64 := none
  arrived : W64 := 0
  deriving DecidableEq, Repr

/-- A Sluice (R240). -/
structure Sluice where
  gen     : W16 := 0
  cur     : GenRec := {}
  nxt     : GenRec := {}
  arrival : Option Waiter := none      -- the local arrival of G, while in progress
  before  : List Waiter := []          -- the SLUICE_WAITs that came before the local arrival
  waiters : List Waiter := []          -- the others
  holds   : List (Nat × Nat) := []
  last    : LastSig := {}
  deriving DecidableEq, Repr

/-- The incoming window for a member (R248). -/
structure InWin where
  high : W32 := 0
  rec' : BitVec 1024 := 0              -- bit j: High − j has been applied
  deriving DecidableEq, Repr

/-- A link tag (R246): free, awaiting LINK_ACK, or quarantined since a time (R65). -/
inductive LinkTag where
  | free
  | used (agent tag : W16) (fb : Nat) (tenant : BitVec 6) (opc : Byte) (obj : BitVec 14) (dst : BitVec 6)
      (sigseq : W32) (deadline : Nat)
  | quarantined (since : Nat) (dst : BitVec 6)
  deriving DecidableEq, Repr

/-! ## Streams -/

/-- A token of a prompt (R128): its ID, whether byte fallback made it, and its first byte's offset. -/
structure TokRec where
  id  : Nat
  fb  : Bool
  off : Nat
  deriving DecidableEq, Repr

/-- A unit of prompt text (R120): its bytes and whether it is valid; its class is computed. -/
structure TextUnit where
  bytes : List Byte
  valid : Bool
  deriving DecidableEq, Repr

/-- A closed pre-token chunk (R122): its offset in the prompt text and its units. -/
structure Chunk where
  off   : Nat
  units : List TextUnit
  deriving DecidableEq, Repr

/-- A span of text that a source wants redacted (R82, R84): byte offsets, marker and policy. -/
structure Span where
  first  : Nat
  past   : Nat
  marker : W16
  policy : W16
  deriving DecidableEq, Repr

/-- Prompt bytes of one frame that wait for the intake lane: how many, whether they arrived within the contract (R98), and the pool
buffers that are freed when they are read (R108). -/
structure Seg where
  len    : Nat
  within : Bool
  bufs   : Nat
  deriving DecidableEq, Repr

/-- The states of an Eddy byte (R99); a freed byte is no longer in the Eddy. -/
inductive EddyState where
  | written | held | released
  deriving DecidableEq, Repr

/-- A byte of answer text in the Eddy: the answer token whose verdict it takes (R134), its state, and its place. -/
structure EddyByte where
  byte : Byte
  tok  : Nat
  st   : EddyState
  at'  : Nat                           -- where it stands in the answer text (R131); a marker's bytes stand for their whole span
  past : Nat                           -- and the byte after it
  deriving DecidableEq, Repr

/-- The Hedge state of a stream (R210). -/
structure Hedge where
  slot  : Nat := 0
  state : Nat := 0
  stack : List Byte := []              -- top of the stack first
  pos   : Nat := 0
  deriving DecidableEq, Repr

/-- The hold-back state machine of an outflow lane (R132): bytes held, bytes still needed, range of the next. -/
structure HoldBack where
  bytes : List Byte := []
  need  : Nat := 0
  lo    : Nat := 0
  hi    : Nat := 0
  deriving DecidableEq, Repr

/-- A verdict as recorded for a duplicate (R105, R106): VKIND, flags and POLICY. -/
structure CachedVerdict where
  vkind  : BitVec 4 := 0
  trunc  : Bool := false
  ooc    : Bool := false
  capped : Bool := false
  policy : W16 := 0
  deriving DecidableEq, Repr

/-- A verdict record (R87). -/
structure VRecord where
  vkind   : BitVec 4 := 0
  stage   : BitVec 4 := 0
  trunc   : Bool := false
  dup     : Bool := false
  ooc     : Bool := false
  capped  : Bool := false
  last    : Bool := false
  status  : W16 := 0
  stag    : W16 := 0
  tenant  : BitVec 6 := 0
  vocab   : BitVec 4 := 0
  reqid   : W64 := 0
  spanStart : Nat := 0
  spanEnd : Nat := 0
  policy  : W16 := 0
  retry   : W16 := 0
  marker  : W16 := 0
  deriving DecidableEq, Repr

/-- A place where a duplicate of a stream receives its records (R106). -/
structure DupJoin where
  port : Nat
  stag : W16
  src  : BitVec 6                      -- SRCENG of its SOS frame
  deriving DecidableEq, Repr

/-- A stream context (R72, R103).  `inUse` is false for a free context. -/
structure Stream where
  inUse    : Bool := false
  port     : Nat := 0
  stag     : W16 := 0
  tenant   : Nat := 0
  src      : BitVec 6 := 0             -- SRCENG of the SOS, for R345
  reqid    : W64 := 0
  vocab    : Nat := 0
  gen      : Bool := false
  grammar  : Nat := 0
  setEpoch : W16 := 0                  -- R287
  tab      : Bool := false             -- the set table in force at admission (R287)
  vocabObj : Nat := 0
  gramObj  : Option Nat := none
  fbport   : Nat := 0
  inlane   : Nat := 0
  outlane  : Nat := 0
  policy   : W16 := 0
  maskN    : W16 := 0                  -- captured n-gram bank mask (R151)
  maskH    : W16 := 0                  -- captured hashed bank mask (R151)
  passNo   : Nat := 0                  -- deep pass of the stream (R94)
  -- prompt
  textLen  : Nat := 0                  -- prompt bytes kept so far
  buf      : List Byte := []           -- prompt bytes not yet read by the intake lane
  bufOff   : Nat := 0                  -- offset of the first byte of buf
  segs     : List Seg := []            -- the end of buf that the lane has not read yet, oldest first
  promptBufs : Nat := 0                -- Hub pool buffers that hold prompt text not yet read
  promptEnd : Bool := false            -- EOS arrived, or the prompt was closed by its limit
  clientEos : Bool := false            -- the client's EOS frame has arrived
  endAt    : Nat := 0                  -- when the prompt ended, for R92
  trunc    : Bool := false
  ooc      : Bool := false
  waited   : Bool := false             -- its work has waited for a demand move, so R92 and R93 do not bind it (R274)
  openChunk : List TextUnit := []
  openOff  : Nat := 0
  chunks   : List Chunk := []
  intakeDone : Bool := false           -- every chunk has closed
  tokens   : List TokRec := []
  issued   : Nat := 0                  -- tokens whose n-gram searches were issued (R144)
  issuedH  : Nat := 0                  -- tokens whose hashed searches were issued
  weights  : List Nat := []            -- sum of WEIGHTs of matches ending at each token (R148)
  sketch   : SMap Nat := []            -- R81
  nextWin  : Nat := 0                  -- next window to close (R80)
  selected : Nat := 0
  capped   : Bool := false
  outstanding : Nat := 0               -- prompt programs dispatched or queued and not finished
  finalQueued : Bool := false
  spans    : List Span := []
  worst    : Sev := .pass
  worstPolicy : W16 := 0
  verdictDone : Bool := false          -- the prompt verdict has been recorded (R78)
  maskDue  : Bool := false             -- the position-0 mask waits for the tables of a far-tier grammar, and the token IDs behind it (R222, R228)
  fwdIds   : Nat := 0                  -- prompt token IDs forwarded to the fabric
  pending  : List VRecord := []        -- prompt verdict records sent, for later duplicates (R106)
  -- answer
  ansIds   : List Nat := []            -- token IDs waiting for the Hedge step or the outflow lane
  ansAt    : List Nat := []            -- arrival times of tokens without a first-stage verdict, for R93
  gramRead : Bool := false             -- the tables that the next Hedge step needs have been read (R228)
  hedged   : Nat := 0                  -- leading IDs of ansIds already stepped by the Hedge
  hedge    : Hedge := {}
  hb       : HoldBack := {}
  textEnded : Bool := false            -- EOSTOK has been taken (R133), or the text is full (R90)
  ansTrunc : Bool := false             -- the text reached 4 GiB − 1 bytes (R90)
  eddy     : List EddyByte := []       -- text not yet cleared, oldest first
  eddyOff  : Nat := 0                  -- the byte up to which the answer text is cleared
  ansLen   : Nat := 0                  -- bytes of answer text written to the Eddy (R131)
  eddyBufs : Nat := 0                  -- Hub pool buffers that eddy holds
  wantBuf  : Nat := 0                  -- buffers that the Eddy asks for, having seen Empty (R101)
  backBufs : Nat := 0                  -- Hub pool buffers of the token IDs that wait for the outflow lane (R109)
  backWant : Nat := 0                  -- buffers that those IDs ask for
  outToks  : Nat := 0                  -- answer tokens the outflow lane has taken
  stepping : Option Nat := none        -- the answer token whose first-stage step runs
  stepped  : Nat := 0                  -- answer tokens whose first-stage verdict is recorded
  blockAck : Bool := true              -- the carried block's write-back is acknowledged (R197)
  deepHold : Bool := false             -- a deep overrun holds new text (R96)
  dups     : List DupJoin := []
  deadline : Option Nat := none        -- absolute; none while suspended (R104)
  deriving DecidableEq, Repr

/-- A class-1 SOS frame between check 1 and check 6 of R72: the frame, and the outcome of check 4. -/
structure Adm where
  frame   : Frame
  port    : Nat
  bufs    : Nat := 0                   -- Hub pool buffers that hold the frame
  vocabObj : Nat := 0                  -- the vocabulary that check 2 found (R110, R287)
  gramObj : Option Nat := none         -- the grammar that check 2 found
  routed  : Bool := false              -- check 4 has passed
  fbport  : Nat := 0
  inlane  : Nat := 0
  outlane : Nat := 0
  policy  : W16 := 0
  deriving DecidableEq, Repr

/-- A request-ID cache entry (R105). -/
structure ReqEntry where
  tenant : Nat
  reqid  : W64
  port   : Nat
  stag   : W16
  ctx    : Nat
  ended  : Option Nat := none          -- when the stream's last record was sent
  verdict : CachedVerdict := {}
  deriving DecidableEq, Repr

/-- A tenant's token bucket (R98, R333): thousandths of a byte, and when they were counted. -/
structure Bucket where
  level : Nat := 0
  at'   : Nat := 0
  deriving DecidableEq, Repr

/-! ## Fen -/

/-- An entry as the bank stores it (R139): its bits and one parity bit for each 32-bit word. -/
structure FenCell where
  bits : FenEntry := 0
  par  : BitVec 14 := 0
  deriving DecidableEq, Repr

/-- A bank operation (R157). -/
inductive BankOp where
  | read (e : Nat)
  | invalidate (e : Nat)
  | write (e : Nat) (x : FenEntry)
  | insert (e : Nat) (x : FenEntry)
  deriving DecidableEq, Repr

/-- A bank operation carried out and waiting for its shadow records (R158). -/
structure BankDone where
  op     : BankOp
  status : W16
  data   : FenEntry
  waits  : Nat                         -- shadow writes not yet acknowledged
  fromHost : Bool
  deriving DecidableEq, Repr

/-- A search in a pipeline's queue (R155): a header lookup of a port's SOS, or a token of a stream. -/
inductive Search where
  | header (port : Nat) (tenant : Nat) (key : FenKey) (mask : W16)
  | count (ctx : Nat) (tok : Nat) (hashed : Bool) (key : FenKey) (mask : W16)
  deriving DecidableEq, Repr

/-- What a first-match search returns (R146): a Hit with the action, physical index and priority of the winner, Miss or Error. -/
inductive FirstResult where
  | hit (action : W32) (index prio : Nat)
  | miss
  | error
  deriving DecidableEq, Repr

/-- A search result on its way to the Hub. -/
inductive FenResult where
  | first (port : Nat) (r : FirstResult)
  | count (ctx : Nat) (tok : Nat) (hits : List (Nat × W32)) (err : Bool)   -- match length and action
  deriving DecidableEq, Repr

/-! ## Objects, sets and Bales -/

/-- One entry of a vocabulary's token table with its bytes (R112). -/
structure TokEnt where
  bytes : List Byte
  emit  : Bool
  deriving DecidableEq, Repr

/-- One slot of the pair index (R117). -/
structure PairSlot where
  left   : Nat
  right  : Nat
  result : Nat
  rank   : Nat
  deriving DecidableEq, Repr

/-- A loaded vocabulary (R111 to R118). -/
structure Vocab where
  ntok   : Nat := 0
  eostok : Nat := 0
  tokens : List TokEnt := []
  base   : List Nat := []
  fallback : List Nat := []
  ranges : List (Nat × Nat × Nat) := []
  matrix : List W16 := []
  pairs  : List PairSlot := []
  deriving DecidableEq, Repr

/-- A transition of a grammar (R215). -/
structure Trans where
  cls  : Nat
  next : Nat
  pop  : List Byte
  push : List Byte
  deriving DecidableEq, Repr

/-- A state of a grammar (R214) with its own transitions and refinement tokens. -/
structure GState where
  maskid : Nat
  accept : Bool
  trans  : List Trans
  refs   : List Nat
  deriving DecidableEq, Repr

/-- A loaded grammar (R212 to R218). -/
structure Grammar where
  vslot  : Nat := 0
  vntok  : Nat := 0
  start  : Nat := 0
  cmap   : List Nat := []
  states : List GState := []
  masks  : List (List Byte) := []
  deriving DecidableEq, Repr

/-- A carried block or a calibration seed (R196): for each point, AEXP and an AMANT for each output group. -/
structure Carried where
  pos    : W32 := 0xFFFFFFFF#32
  points : List (Nat × List Nat) := []
  deriving DecidableEq, Repr

/-- A marker of a classifier set (R282). -/
structure Marker where
  markid : W16
  vslot  : Nat
  text   : List Byte
  tokens : List Nat
  deriving DecidableEq, Repr

/-- A classifier-set record (R282), its index fields resolved to object IDs. -/
structure SetRec where
  tenant   : Nat := 0
  minRills : Nat := 0
  thresh   : Nat := 0
  cap      : Nat := 0
  capref   : Bool := false
  fscap    : Nat := 0
  passstr  : Nat := 0
  markers  : List Marker := []
  win      : Nat := 0
  sum      : Nat := 0
  fst      : Nat := 0
  deep     : Nat := 0
  seed     : Nat := 0
  obj      : Nat := 0
  deriving DecidableEq, Repr

/-- What an object holds.  Movable objects are never written (R264), so the content goes with the object. (DESIGN CHOICE, log entry 9) -/
inductive Content where
  | empty
  | vocab (v : Vocab)
  | grammar (g : Grammar)
  | classifier (role : Nat) (d : ClassDesc)
  | seed (c : Carried)
  | setRec (r : SetRec)
  | fenSet (ktype : Nat) (banks : List Nat) (entries : List (Nat × FenEntry))
  | estTable (cls : Nat)               -- the estimate table of a classifier, whose records `ests` holds (R204)
  deriving DecidableEq, Repr

/-- The kinds of object (R270). -/
inductive ObjKind where
  | vocabulary | grammar | classifier | seed | setRecord | fenSet | kvCache | pinned
  deriving DecidableEq, Repr

/-- STATE of the object record (R270). -/
inductive ObjState where
  | home | moving | lost | free
  deriving DecidableEq, Repr

/-- TIER of the object record (R270). -/
inductive Tier where
  | near | far | slow | fen
  deriving DecidableEq, Repr

/-- A home: tier, Rill or Hub pool, and the address in the tier.  For the slow tier `rill` is the number of the slow region. -/
structure Home where
  tier : Tier := .far
  rill : Nat := 0
  pool : Bool := false
  loc  : W64 := 0
  deriving DecidableEq, Repr

/-- A move in progress (R271): the destination and, once the home has switched, the source still to be freed. -/
structure Move where
  dest     : Home
  fromHost : Bool                      -- an OBJ_MOVE command waits for it
  demand   : Bool := false
  deriving DecidableEq, Repr

/-- An entry of the object table (R263, R270). -/
structure Obj where
  state : ObjState := .free
  kind  : ObjKind := .pinned
  home  : Home := {}
  owner : Nat := 0
  size  : Nat := 0
  pref  : Home := {}                   -- the home the manifest names (R281)
  content : Content := .empty
  move  : Option Move := none
  oldHomes : List Home := []           -- sources of finished moves, oldest first, until MOVE_SOURCE_FREE (R271)
  crc   : Option W64 := none           -- the CRC-64 taken on the way into the slow tier (R272)
  bale  : W64 × W32 := (0, 0)          -- BALEID and BALESEQ of the Bale that carried it
  off   : Nat := 0                     -- where it stands in that Bale's payload
  deriving DecidableEq, Repr

/-- A Bale of a set (R277), with the header copy's digest for measurement 5 (R321). -/
structure BaleRef where
  baleid  : W64
  baleseq : W32
  hdr     : List Byte
  base    : Nat := 0
  deriving DecidableEq, Repr

/-- A set table (R284): slots to objects. -/
structure SetTab where
  vocabs : SMap Nat := []              -- slot to object ID + 1
  grams  : SMap Nat := []
  recs   : SMap SetRec := []           -- by tenant; minRills 0 where none
  fens   : SMap Nat := []              -- 4 × tenant + KTYPE to object ID + 1
  bales  : List BaleRef := []
  masks  : SMap W16 := []              -- bank-mask table copy, by 4 × tenant + KTYPE (R150)
  deriving DecidableEq, Repr

/-- Where a Bale load stands (R284, R285, BALE_STATUS of R378). -/
inductive LoadState where
  | idle | loading | loaded | failed
  deriving DecidableEq, Repr

/-- The Bale loader (R284 to R286). -/
structure Load where
  state   : LoadState := .idle
  status  : W16 := 0
  failed  : List Nat := []             -- failed-shard indices
  image   : Option BaleImage := none   -- the image while it loads, and until its commit or abort
  base    : Nat := 0
  present : Nat := 0                   -- present mask of 66 bits
  missing : List Nat := []             -- shards whose content reads failed
  asked   : List Nat := []             -- shards whose reads were issued (R283)
  stageAt  : Nat := 0                  -- where the staging area starts in the object heap
  stageLen : Nat := 0                  -- bytes of the staging area while the load runs
  staged   : Bool := false             -- the read of the staging area has been issued
  moving   : List Nat := []            -- objects on their way from staging to their homes (R284)
  arrived  : List Nat := []            -- those that have come there, wherever they are now (R289)
  tables   : List (Nat × Nat × Nat) := []  -- classifier, address and bytes: room held for the estimate tables of the set (R208, R279)
  ending   : Option (W16 × List Nat) := none   -- the load has failed, and ends once its moves have (R289)
  banks   : List Nat := []             -- Fen banks of the shadow build
  commit  : Bool := false              -- BALE_COMMIT waits for its batch boundary
  deferred : Bool := false             -- that commit waits for the end of sag (R288)
  deriving DecidableEq, Repr

/-! ## Rills and calibration -/

/-- What a Rill program runs for (R76, R77). -/
inductive Job where
  | window (ctx : Nat) (j : Nat) (final : Bool)
  | summary (ctx : Nat)
  | firstStage (ctx : Nat) (pos : Nat) (car : Option Carried)   -- the carried block as the step read it (R197); none once the read failed (R209)
  | deep (tenant : Nat) (k : Nat) (snaps : List (Nat × Nat)) (startAt : Nat) (late : Bool)  -- stream, tokens in its snapshot
  deriving DecidableEq, Repr

/-- A program in flight (R39): its job and the Rills it runs on. -/
structure Prog where
  job   : Job
  rills : List Nat
  obj   : Nat                          -- the classifier object that it runs
  tenant : Nat
  kvCtx : Nat := 0                     -- the stream context whose KV cache a first-stage step reads
  deriving DecidableEq, Repr

/-- A point record (R204); every counter saturates at its width. -/
structure PointRec where
  nout   : Nat := 0
  nclip  : Nat := 0
  nbias  : Nat := 0
  wb0    : Nat := 0
  wb1    : Nat := 0
  wb2    : Nat := 0
  wb3    : Nat := 0
  wb4    : Nat := 0
  nhigh  : Nat := 0
  nlow   : Nat := 0
  nclamp : Nat := 0
  nref   : Nat := 0
  est    : List Int := []
  deriving DecidableEq, Repr

/-- A Rill's counter block for a tenant and classifier (R206), and the present words of its last step (R207). -/
structure CounterBlock where
  rill   : Nat
  obj    : Nat
  points : List PointRec
  words  : List (Nat × List Nat)
  deriving DecidableEq, Repr

/-! ## Power -/

/-- The states of a Plot (R30). -/
inductive PlotState where
  | on | stretched | gated
  deriving DecidableEq, Repr

/-- A Plot (R22, R30, R33): its state, divider, stretch, and whether a supply fault keeps it Gated (R40). -/
structure Plot where
  st      : PlotState := .gated
  div     : Nat := 1
  stretch : Bool := false              -- a current-limit stretch is in force (R294)
  follows : Bool := false              -- it runs stretched because another Rill of its program does (R39)
  resid   : Bool := false              -- residency flag (R33)
  below   : Nat := 0                   -- since when the estimate has been below 0.32 A, + 1; 0 while it is not
  usedAt  : Nat := 0                   -- when a program was last dispatched to the Rill (R295)
  faulted : Bool := false
  deriving DecidableEq, Repr

/-- A Heath's throttle (R295, R296). -/
structure Heath where
  thermal : Nat := 0
  step    : Nat := 0
  deriving DecidableEq, Repr

/-! ## Flash and log -/

/-- A flash command (R306, R307). -/
inductive FlashCmd where
  | eraseBank (addr : Nat)
  | pageBank (addr : Nat) (data : List Byte)
  | verifyBank
  | trailer (addr : Nat) (data : List Byte)
  | eraseLog (half : Nat)
  | slotLog (addr : Nat) (data : List Byte)
  | headerLog (half : Nat) (data : List Byte)
  | window
  deriving DecidableEq, Repr

/-- Where a bank write stands (R305). -/
inductive BankStage where
  | erase (block : Nat)
  | page (n : Nat)
  | verify
  | trailer
  deriving DecidableEq, Repr

/-- A management message that came in a class-3 frame (R320): its port, its sender and tenant, and one MCTP packet. -/
structure MgmtIn where
  port   : Nat
  src    : BitVec 6
  tenant : BitVec 6
  packet : List Byte
  deriving DecidableEq, Repr

/-- Transmission units (R320): of the management bus, and of class-3 frames. -/
def busUnit : Nat := 64
def linkUnit : Nat := 4096

/-- A bank write in progress (R303 to R306): its body as far as it has come, its trailer, and the body's length. -/
structure BankWrite where
  pair    : Bool                       -- firmware pair; else configuration
  body    : List Byte
  trailer : List Byte
  len     : Nat
  target  : Bool                       -- bank B
  seq     : W32                        -- the SEQ it will be given (R304)
  stage   : BankStage
  pldm    : Bool                       -- from PLDM; else from the mailbox
  via     : Option MgmtIn := none      -- the class-3 frame that asked for the update; none for the bus
  want    : Bool := false              -- a piece of the body has been asked for and has not come (R323)
  deriving DecidableEq, Repr

/-- A log record (R316). -/
structure LogRec where
  lseq  : W32 := 0
  time  : W64 := 0
  boot  : W16 := 0
  sev   : Nat := 0
  srck  : Nat := 0
  srcid : W16 := 0
  code  : W16 := 0
  args  : List W32 := []
  written : Bool := true               -- programmed to flash; an unwritten record waits (R319)
  deriving DecidableEq, Repr

/-- The event log (R316 to R319). -/
structure Log where
  ring    : SMap LogRec := []          -- ring slot to record
  newPos  : Nat := 0
  any     : Bool := false              -- some record has been created
  nextSeq : W32 := 1                   -- LSEQ of the next record
  boot    : W16 := 1
  drops   : W32 := 0
  actHalf : Nat := 0
  hseq    : W32 := 0
  nextSlot : Nat := 1
  otherErased : Bool := false          -- the erase of the other half has finished
  starting : Bool := false             -- no half has a good header: half 0 is being started (R317)
  deriving DecidableEq, Repr

/-! ## Configuration, fuses and management -/

/-- A route entry (R332). -/
structure RouteEnt where
  pri    : Option Nat := none          -- PRI, where PRIV is 1 and names a port that R332 allows
  alt    : Option Nat := none
  priRaw : Nat := 0                    -- PRI and ALT as they stand in the record, for the read-back of R330
  altRaw : Nat := 0
  deriving DecidableEq, Repr

/-- A tenant entry as applied (R333, R335). -/
structure TenCfg where
  en       : Bool := false
  ctxq     : Nat := 0
  weirs    : Nat := 0
  sluices  : Nat := 0
  kvq      : Nat := 0
  rate     : Nat := 1
  burst    : Nat := 4
  reqlim   : Nat := 1024
  deadline : Nat := 50
  deriving DecidableEq, Repr

/-- A Fen bank entry as applied (R138, R334). -/
structure BankCfg where
  owner  : Nat := 0
  used   : Bool := false
  shared : Bool := false
  ktype  : Nat := 1                    -- a clamp of 0 gives 1 (R12, R334)
  deriving DecidableEq, Repr

/-- The configuration record as applied (R331); the defaults are those of its Default column. -/
structure Cfg where
  nten     : Nat := 0
  memberid : BitVec 6 := 0
  managed  : Bool := false
  i3c      : Bool := false
  busaddr  : Byte := 0x4C
  epid     : Byte := 0x08
  deltaid  : W32 := 0
  fargib   : Nat := 16
  objmib   : Nat := 8
  pcapw    : Nat := 75
  memtmo   : Nat := 1000
  contmo   : Nat := 1000
  fabtmo   : Nat := 1000
  fben     : W16 := 0
  role     : SMap Role := []
  route    : SMap RouteEnt := []
  ten      : SMap TenCfg := []
  bank     : SMap BankCfg := []
  idlen    : Nat := 0
  idchain  : List Byte := []
  deriving DecidableEq, Repr

/-- The fuses (R348 to R350): lifecycle, stepping, unique ID, keys, revoked bits, floors.  They survive every reset. -/
structure Fuses where
  lcGroups : List (List Bool) := List.replicate 4 [false, false, false]   -- the three redundant groups of each state after Blank (R348)
  step    : BitVec 4 := 0
  uid     : W64 := 0
  keys    : SMap (BitVec 768) := []
  keyset  : Byte := 0
  keyrev  : Byte := 0
  floor1  : Nat := 0
  floor2  : Nat := 0
  deriving DecidableEq, Repr

/-- A fuse program that runs (R349 to R352). -/
inductive FuseOp where
  | advance (target : Nat)
  | floors (f1 f2 : Nat)
  | revoke (slot : Nat)
  | key (slot : Nat) (k : BitVec 768)
  deriving DecidableEq, Repr

/-- How far R325 has come. -/
inductive BootPhase where
  | held                               -- por_n asserted, or the engine held in reset (R40, R370)
  | recordChosen                       -- step 6 done, waiting for the partition and the pair
  | running                            -- step 10 done
  deriving DecidableEq, Repr

/-- The boot state (R325, R328, R329, R310). -/
structure Boot where
  phase    : BootPhase := .held
  porLow   : Bool := true              -- por_n is asserted (R370)
  warm     : Bool := false             -- this reset sequence is one of warm_n (R327)
  recordAt : Nat := 0                  -- when step 6 finished, for R328
  partSeen : Bool := false             -- the ports have reported the partition
  farWiped : Bool := false             -- step 7 done, or skipped
  partGib  : Nat := 0
  farBad   : Bool := false             -- far tier unusable (R328)
  fenced   : Bool := false
  defCfg   : Bool := false
  cfgBank  : Bool := false
  pairBank : Bool := false
  fwVer    : W32 := 0
  mcVer    : W32 := 0
  baleFmts : List W16 := []            -- BALEFMT of the running Hayward descriptor (R312)
  imgDig   : BitVec 384 := 0
  mcDig    : BitVec 384 := 0
  cfgDig   : BitVec 384 := 0
  passed   : List (Bool × Nat) := []   -- pairs passed over: the bank, and the check that failed (R310)
  wiping   : Bool := true
  hwrdy    : Bool := false
  tapFull  : Bool := false             -- the TAP offers its full set (R354)
  supplyHeld : Bool := false           -- a supply fault of Plots 144–159 holds the engine in reset (R40)
  sfdp     : Sfdp := { sizeBytes := 0, erase64k := false, eraseSuspend := false, programMax := 0, eraseMax := 0 }
  deriving DecidableEq, Repr

/-- The Hayward and its sensors (R291 to R299, R313). -/
structure Hay where
  dogAt     : Nat := 0                 -- when firmware last serviced the watchdog
  restarts  : List Nat := []           -- times of recent restarts (R292)
  heaths    : SMap Heath := []
  powerStep : Nat := 0
  power     : Nat := 0                 -- estimate in µW
  mA        : SMap Nat := []           -- Plot current estimates
  temps     : SMap Int := []           -- Plot temperatures, 0.25 °C units
  rails     : SMap Nat := []           -- rail readings: Heath core rails 0–7, 8 flash, 9 SRAM (mV)
  faulty    : List Nat := []           -- faulty thermal sites (R298)
  badCurr   : List Nat := []           -- Plots whose current estimator is faulty (R298)
  tripped   : Bool := false            -- a trip forces step 6 (R297)
  hotAt     : SMap Nat := []           -- since when each site has been at or above 110 °C, + 1; 0 while it is not (R297)
  coolAt    : Nat := 0                 -- since when every site has been below 100 °C, + 1; 0 while one is not (R297)
  steady    : SMap (Nat × Nat) := []   -- of each site: since when its reading has stood, + 1, and its Plot's current then + 1, or 0 once that has changed (R298)
  gateSt    : W16 := 0                 -- status of the last gate command to a Heath (R32, R33)
  firmRun   : Bool := true             -- the core runs; false while it restarts (R292)
  tripLog   : List Nat := []           -- trips to be logged when the core next runs (R297)
  lowAt     : SMap Nat := []           -- since when a monitored rail has been below 92 %, + 1 (R313)
  okAt      : Nat := 0                 -- since when every monitored rail has been at or above 95 %, + 1; 0 while one is not (R313)
  sag       : Bool := false
  sagAt     : Nat := 0
  grant     : BitVec 7 := 0            -- pg_grant_w
  ack       : Bool := false            -- pg_ack
  capOkAt   : Nat := 0                 -- since when the estimate is at or below the cap, + 1; 0 while it is above
  powerUps  : List Nat := []           -- Rill power-ups deferred (R40, R371)
  deriving DecidableEq, Repr

/-- A management message that the engine sends (R320 to R323). -/
inductive MgmtOut where
  | control (cmd : Byte) (code : Byte) (data : List Byte)
  | spdm (code : Byte) (data : List Byte) (sig : Option (BitVec 768))
  | pldm (kind : Byte) (code : W16) (data : List Byte)
  | event (lseq : W32)
  deriving DecidableEq, Repr

/-- The management endpoint (R320 to R323). -/
structure Mgmt where
  eid      : Byte := 0x08
  eidSet   : Bool := false
  verDone  : Bool := false
  capDone  : Bool := false
  algDone  : Bool := false
  receiver : Option Byte := none       -- SetEventReceiver (R322)
  events   : List (W32 × Nat × Bool) := []  -- LSEQ, when sent, sent again
  inbox    : List MgmtIn := []         -- class-3 frames delivered to the endpoint
  via      : Option MgmtIn := none     -- the frame that brought the last message; none where it came over the bus
  tid      : Byte := 0                 -- the PLDM terminus ID (PLDM type 0, R311)
  deriving DecidableEq, Repr

/-! ## Memory requests -/

/-- Who waits for a memory or content request (R65, R365). -/
inductive Issuer where
  | shadow (bank : Nat)
  | block (ctx : Nat)
  | kv (ctx : Nat)
  | gram (ctx : Nat)                   -- the tables of a stream's grammar (R228)
  | weights (prog obj : Nat)           -- a running classifier's weights (R107)
  | stage                              -- the Bale loader's staging area
  | shard (i : Nat)
  | dma (ch : Nat)
  | nobody                             -- the stream that waited has ended
  deriving DecidableEq, Repr

/-- A tag of a memory or content port (R65). -/
inductive TagState where
  | free
  | used (who : Issuer) (deadline : Nat)
  | quarantined (since : Nat)
  deriving DecidableEq, Repr

/-- A DMA descriptor as the Hayward queues it (R275). -/
structure Dma where
  obj    : Option Nat                  -- the object it moves
  srcsp  : Nat
  dstsp  : Nat
  srill  : Nat := 0
  drill  : Nat := 0
  src    : Nat := 0
  dst    : Nat := 0
  tenant : Nat
  sigen  : Bool
  weir   : Nat
  count  : W32
  len    : Nat
  dtag   : W16
  fromHost : Bool
  more   : Nat := 0                    -- bytes of the move that later descriptors copy (R275)
  copied : List Byte := []             -- what earlier descriptors of the move have copied
  started : Bool := false              -- its requests have been issued
  flushed : Bool := false              -- the flushing read after its last content-port write has been issued (R239)
  status : W16 := 0                    -- what a failed request of it left
  badWrite : Bool := false             -- that request was a write, or the flushing read
  deriving DecidableEq, Repr

/-! ## The Stile -/

/-- A mailbox command that runs after its doorbell (R377, R378). -/
inductive Running where
  | move (obj : Nat)
  | fenOp (bank : Nat)
  | calibClear (tenant : Nat) (role : Nat)
  | portReset (fabric : Bool) (n : Nat)
  | fuse                               -- a fuse program, or a request that waits for the end of sag state
  | plain
  deriving DecidableEq, Repr

/-- The mailbox registers (R376). -/
structure Mbx where
  opc    : Byte := 0
  ctag   : W16 := 0
  param  : SMap W32 := []
  busy   : Bool := false
  done   : Bool := false
  ovr    : Bool := false
  err    : W16 := 0
  rtag   : W16 := 0
  result : SMap W32 := []
  wflag  : W32 := 0
  hflag  : W32 := 0
  running : Option Running := none
  deriving DecidableEq, Repr

/-- The GEN registers that hold state of their own (R375). -/
structure Gen where
  intstat : BitVec 4 := 0
  inten   : BitVec 4 := 4              -- the enable bit of TRIP always reads 1
  timeHi  : W32 := 0
  deriving DecidableEq, Repr

/-- The detail window of the WEIR region (R253, R254). -/
structure Detail where
  obj   : BitVec 14 := 0
  slu   : Bool := false
  dval  : W32 := 0
  nwait : Nat := 0
  shown : List (W16 × W16 × W32 × Nat) := []   -- AGENT, TAG, N, µs left
  last  : LastSig := {}
  deriving DecidableEq, Repr

/-- The registers of the LOG region (R380). -/
structure LogWin where
  block   : BitVec 5 := 0
  half    : Bool := false
  ready   : Bool := false
  fetching : Bool := false
  held    : List Host.Cell := []       -- the bytes that the fetch has read, by offset in the window; unlisted reads 0xFF
  deriving DecidableEq, Repr

/-- What the block has put on its ports, in order.  The model's own record of its output pins. -/
inductive Output where
  | link (p : Nat) (bytes : List Byte) (inserted : Bool)
  | fabric (fb : Nat) (flit : FbFlit)
  | fabricCredit (fb : Nat) (cls : BitVec 2) (cnt : Nat)
  | memory (mp : Nat) (tag : Nat) (wr : Bool) (addr : Nat) (len : Nat)    -- first port-local granule, and granules (R364)
  | content (tag : Nat) (wr : Bool) (addr : Nat) (len : Nat)              -- both in units of 64 bytes (R366)
  | buffer (addr : Nat) (data : List Byte)
  | mgmt (unit : Nat) (m : MgmtOut)    -- over the management bus, in packets of at most `unit` bytes
  | jtag (v : W32)
  | stile (v : W32)
  deriving DecidableEq, Repr

/-- A class-0 flit that waits, in a class-0 buffer or for one (R68): egress 0–63 a link port, 64–79 a fabric port, 80 the Hub itself,
which needs no buffer, 81 a fenced flit, which is queued at its egress once it has one; `ingress` is the port of arrival, numbered the same
way. -/
structure Reserve where
  egress  : Nat
  ingress : Nat
  frame  : Frame
  flit   : FbFlit
  no     : Nat := 0                    -- acceptance number on its link port, for R62
  arr    : Nat := 0                    -- arrived2 at its arrival (R245)
  inFord : Bool := false               -- it stands in the class-0 lane of its inward Ford (R24)
  buf    : C0Buf := .none              -- the buffer that has been granted to it
  deriving DecidableEq, Repr

/-- The Delta view (R342). -/
structure View where
  epoch   : W16 := 0
  members : W64 := 0
  join    : SMap W16 := []
  susp    : W64 := 0
  hboot   : SMap Nat := []             -- HBOOT + 1 of each member's previous Hello; 0 where none
  removed : W64 := 0                   -- members that a DELTA_SET has removed and none has listed again (R355)
  deriving DecidableEq, Repr

/-! ## The state -/

/-- The state of the block. -/
structure State where
  /-- The commands that wait, first in, first out (the model's own queue). -/
  pending  : List Instr := []
  /-- What the block has put on its ports (the model's own record). -/
  out      : List Output := []
  /-- How many free values have been drawn (the model's own). -/
  free     : Nat := 0
  /-- Nanoseconds since por_n was released (R291). -/
  now      : Nat := 0
  boot     : Boot := {}
  fuses    : Fuses := {}
  fuseOp   : Option FuseOp := none
  fuseWait : Option FuseOp := none     -- an accepted request that waits for the end of sag state (R314, R352)
  chal     : W64 := 0
  cfg      : Cfg := {}
  view     : View := {}
  -- links
  ports    : SMap Port := []
  c0wait   : List Reserve := []
  routeHold : SMap (List Frame) := []  -- fenced frames toward each member that wait for a route change (R244)
  discards : List (Nat × Nat × W16) := []   -- refused streams discarded up to EOS: port, tenant, STAG (R73)
  -- fabric
  fbs      : SMap FbPort := []
  -- Hub pool
  poolUsed : Nat := 0                  -- shared buffers granted
  poolRes  : Nat := 0                  -- class-0 reserve buffers granted
  rotPtr   : Nat := 0                  -- rotating pointer (R70)
  -- Weirs, Sluices, remote signals
  weirs    : SMap Weir := []
  sluices  : SMap Sluice := []
  outCtr   : SMap W32 := []            -- next SIGSEQ − 1 of each destination (R246)
  inWin    : SMap InWin := []
  linkTags : SMap LinkTag := []
  -- streams
  adms     : List Adm := []
  streams  : SMap Stream := []
  reqs     : List ReqEntry := []       -- request-ID cache, oldest first
  buckets  : SMap Bucket := []
  laneTurn : SMap Nat := []            -- the context from which each group of an intake lane goes on round-robin, by 2 × lane + group (R108)
  tickAt   : SMap Nat := []            -- last deep-stage tick + 1, by tenant (R94)
  passAt   : SMap Nat := []            -- tick + 1 at which a pass last started, by 5 × tenant + pass (R94)
  -- Fen
  fen      : SMap FenCell := []        -- by 8,192 × bank + index
  bankQ    : SMap (List (BankOp × Bool)) := []
  bankHeld : SMap (List (BankOp × Bool)) := []   -- operations that their issuer holds while the bank's queue of 16 is full (R158)
  bankDone : SMap (List BankDone) := []
  opOrphans : SMap Nat := []           -- host operations of each bank whose command a restart has aborted (R158, R383)
  suspect  : List Nat := []
  scrubPos : SMap Nat := []            -- each bank's place in the pass
  scrubQ   : List (Nat × Nat) := []
  fenQ     : SMap (List Search) := []
  fenRes   : List (Nat × FenResult) := []   -- search results in the Fords from the Fen Brooks to the Hub, each with its pipeline
  opLog    : SMap (List BankOp) := []  -- operations since the bank's Bale load, for R164
  -- objects and sets
  objs     : SMap Obj := []
  tabA     : SetTab := {}
  tabB     : SetTab := {}
  actB     : Bool := false             -- table B is active
  setAct   : Bool := false
  setEpoch : W16 := 0
  load     : Load := {}
  ests     : SMap (List PointRec) := []   -- estimate tables by classifier object ID (R204)
  blocks   : SMap Carried := []        -- carried blocks by stream context (R196)
  slow     : SMap (Nat × Nat) := []    -- slow regions: base, length + 1
  far      : List Host.Cell := []      -- bytes of the far partition: the Fen shadow (R161); unlisted bytes read as farInit says
  kv       : SMap (List Host.Cell) := []  -- bytes of each KV cache by stream context, offsets of R186
  memTags  : SMap TagState := []       -- by 2,048 × port + tag
  conTags  : SMap TagState := []
  memRest  : SMap (Nat × Nat) := []    -- what a memory tag's transfer has left on its port: next port-local granule, granules (R364)
  conRest  : SMap (Nat × Nat) := []    -- what a content tag's transfer has left: next address, bytes (R366)
  dmaQ     : SMap (List Dma) := []
  dmaWait  : List Dma := []            -- descriptors that the Hayward holds while every queue is full (R275)
  dmaTag   : W16 := 0                  -- DTAG of the next descriptor
  dmaDone  : SMap (W16 × W16) := []    -- the last completion of each channel: DTAG and status (R275)
  -- Rills and power
  progs    : SMap (List Prog) := []    -- by program number; at most one each
  progNo   : Nat := 0
  jobs     : List Job := []            -- work that has no Rills yet
  disp     : SMap (List Prog) := []    -- dispatch queue of each compute Brook (R20, R39)
  sram     : SMap (List Host.Cell) := []   -- bytes of each Rill's SRAM (R166)
  flips    : List (Nat × Nat) := []    -- SRAM words with a flipped bit: Rill, word (R168)
  counters : List CounterBlock := []
  mask     : List Nat := []            -- Rills whose dispatch-mask bit is set
  draining : List Nat := []            -- Rills that leave service (R34)
  locks    : List Nat := []            -- Brooks whose clock generators are locked and enabled
  plots    : SMap Plot := []
  -- Hayward
  hay      : Hay := {}
  flash    : List Host.Cell := []      -- bytes of the SPI NOR device; unlisted reads 0xFF
  flashCmd : Option FlashCmd := none
  flashSusp : Option FlashCmd := none
  flashAt  : Nat := 0                  -- when the running command was started, or resumed (R306)
  spoilt   : List (Bool × Bool) := []  -- banks (pair or configuration, B) whose write began and has not finished: invalid (R306)
  bankWr   : Option BankWrite := none
  bankSt   : Nat := 0                  -- BANK_STATUS: 0 idle, 3 done (R378)
  bankErr  : W16 := 0
  bankTgt  : Bool := false
  log      : Log := {}
  mgmt     : Mgmt := {}
  -- Stile
  gen      : Gen := {}
  mbx      : Mbx := {}
  det      : Detail := {}
  logWin   : LogWin := {}
  tel      : SMap W32 := []            -- TEL counters by Stile offset (R379)
  tally    : SMap Nat := []            -- counts that the manual asks for and R379 has no counter for, by 1,024 × kind + part
  deriving DecidableEq, Repr

/-- The machine right after reset: every field at its default. (DESIGN CHOICE, log entry 7) -/
def State.reset : State := {}

end Sys2Proof.Machine
end

