-- ==== Sys2Proof/Machine/Bits.lean ====
section
/-! DEFINITION. Bit fields, byte order, sparse tables, byte memory and serial-number arithmetic: the helpers that every
other operation uses. -/

namespace Sys2Proof.Machine

/-! ## Sparse tables -/

/-- The part of number `k`, or the default `d` where none is listed. -/
def smGet {α : Type} (d : α) : SMap α → Nat → α
  | [], _ => d
  | (k', v) :: r, k => if k = k' then v else smGet d r k

/-- Puts `v` at `k`, keeping the keys rising. -/
def smIns {α : Type} (k : Nat) (v : α) : SMap α → SMap α
  | [] => [(k, v)]
  | (k', v') :: r =>
    if k < k' then (k, v) :: (k', v') :: r
    else if k = k' then (k, v) :: r
    else (k', v') :: smIns k v r

/-- The table without an entry for `k`. -/
def smDel {α : Type} (k : Nat) : SMap α → SMap α
  | [] => []
  | (k', v') :: r => if k = k' then smDel k r else (k', v') :: smDel k r

/-- Sets part `k` to `v`; a part equal to the default is not listed. -/
def smSet {α : Type} [DecidableEq α] (d : α) (m : SMap α) (k : Nat) (v : α) : SMap α :=
  if v = d then smDel k m else smIns k v m

/-- A table with every part passed through a function; parts that become the default are dropped. -/
def smMap {α : Type} [DecidableEq α] (d : α) (f : α → α) : SMap α → SMap α
  | [] => []
  | (k, v) :: r => smSet d (smMap d f r) k (f v)

/-- The keys rise strictly from `lo` and no entry equals the default: the one canonical form of a table. -/
def smWfFrom {α : Type} [DecidableEq α] (d : α) (lo : Nat) : SMap α → Bool
  | [] => true
  | (k, v) :: r => decide (lo ≤ k) && decide (v ≠ d) && smWfFrom d (k + 1) r

/-- The canonical form of a table. -/
def smWf {α : Type} [DecidableEq α] (d : α) (m : SMap α) : Bool := smWfFrom d 0 m

/-! ## Byte memory -/

/-- The byte at an address; an unlisted address reads as `d`. (DESIGN CHOICE, log entry 10) -/
def memGet (d : Byte) (m : List Host.Cell) (a : Nat) : Byte := smGet d m a

/-- Stores one byte, keeping the canonical form. -/
def memSet (d : Byte) (m : List Host.Cell) (a : Nat) (b : Byte) : List Host.Cell := smSet d m a b

/-- `n` bytes from an address upward. (DESIGN CHOICE, log entry 10) -/
def memRead (d : Byte) (m : List Host.Cell) (a : Nat) : Nat → List Byte
  | 0 => []
  | n + 1 => memGet d m a :: memRead d m (a + 1) n

/-- Stores bytes from an address upward. -/
def memWrite (d : Byte) (m : List Host.Cell) (a : Nat) : List Byte → List Host.Cell
  | [] => m
  | b :: r => memWrite d (memSet d m a b) (a + 1) r

/-- Every address from `a` to `a + n − 1` back to the default. -/
def memClear (m : List Host.Cell) (a n : Nat) : List Host.Cell :=
  m.filter fun c => c.1 < a || a + n ≤ c.1

/-- Stores bytes from an address upward in a memory whose unlisted byte at `a` reads as `d a`. -/
def memWriteAt (d : Nat → Byte) (m : List Host.Cell) (a : Nat) : List Byte → List Host.Cell
  | [] => m
  | b :: r => memWriteAt d (memSet (d a) m a b) (a + 1) r

/-- `n` bytes of such a memory from an address upward. -/
def memReadAt (d : Nat → Byte) (m : List Host.Cell) (a : Nat) : Nat → List Byte
  | 0 => []
  | n + 1 => memGet (d a) m a :: memReadAt d m (a + 1) n

/-- The canonical form of such a memory: addresses rise from `lo`, and no listed byte is what it reads as when it is not listed. -/
def memWfAt (d : Nat → Byte) (lo : Nat) : List Host.Cell → Bool
  | [] => true
  | (k, v) :: r => decide (lo ≤ k) && decide (v ≠ d k) && memWfAt d (k + 1) r

/-- The canonical form of a byte memory whose unlisted addresses read as `d`. -/
def memWf (d : Byte) (m : List Host.Cell) : Bool := smWf d m

/-! ## Fields and bytes -/

/-- `len` bits of `x` from bit `lo` upward (R7). -/
def bitsOf (x lo len : Nat) : Nat := x / 2 ^ lo % 2 ^ len

/-- A field of a bit vector as a number. -/
def fld {n : Nat} (x : BitVec n) (lo len : Nat) : Nat := bitsOf x.toNat lo len

/-- Bit `i` of a bit vector. -/
def bitAt {n : Nat} (x : BitVec n) (i : Nat) : Bool := x.getLsbD i

/-- A value placed at bit `lo`. -/
def at' (v lo : Nat) : Nat := v * 2 ^ lo

/-- One bit as a number. -/
def b2n (b : Bool) : Nat := if b then 1 else 0

/-- The bytes of a list as one number, byte 0 least significant (R8). -/
def leNat : List Byte → Nat
  | [] => 0
  | b :: r => b.toNat + 256 * leNat r

/-- A number as `n` little-endian bytes (R8). -/
def leBytes : Nat → Nat → List Byte
  | 0, _ => []
  | n + 1, x => BitVec.ofNat 8 x :: leBytes n (x / 256)

/-- The bytes of a list as one number, byte 0 most significant (the signatures of R277 and R301). -/
def beNat (l : List Byte) : Nat := leNat l.reverse

/-- A little-endian field of `n` bytes at offset `o`. -/
def leAt (l : List Byte) (o n : Nat) : Nat := leNat ((l.drop o).take n)

/-- `n` bytes at offset `o`. -/
def slice (l : List Byte) (o n : Nat) : List Byte := (l.drop o).take n

/-- Whether every byte is zero. -/
def allZero (l : List Byte) : Bool := l.all (· = 0)

/-- `n` zero bytes. -/
def zeros (n : Nat) : List Byte := List.replicate n 0

/-- Zero bytes up to a whole multiple of `n`. -/
def padTo (n : Nat) (l : List Byte) : List Byte := l ++ zeros ((n - l.length % n) % n)

/-- The list cut into pieces of `n`, with fuel. -/
def chunksFuel {α : Type} (n : Nat) : Nat → List α → List (List α)
  | 0, _ => []
  | f + 1, l => if l.isEmpty then [] else l.take n :: chunksFuel n f (l.drop n)

/-- The list cut into pieces of `n`. -/
def chunksOf {α : Type} (n : Nat) (l : List α) : List (List α) := chunksFuel n l.length l

/-- a divided by b, rounded up. -/
def ceilDiv (a b : Nat) : Nat := (a + b - 1) / b

/-! ## Ranges and sequence numbers -/

/-- The nearest legal value (R12). -/
def clamp (lo hi x : Nat) : Nat := max lo (min hi x)

/-- a is newer than b in n-bit serial-number arithmetic (R384). -/
def newer {n : Nat} (a b : BitVec n) : Bool :=
  decide (1 ≤ (a - b).toNat) && decide ((a - b).toNat ≤ 2 ^ (n - 1) - 1)

/-- a is older than b in n-bit serial-number arithmetic (R384). -/
def older {n : Nat} (a b : BitVec n) : Bool := newer b a

/-- A 32-bit counter plus a number, saturating (R379). -/
def sat32 (x : W32) (n : Nat) : W32 := BitVec.ofNat 32 (min (x.toNat + n) 0xFFFFFFFF)

/-- The first of the `n` numbers from `k` on that the test passes. -/
def firstFrom (p : Nat → Bool) : Nat → Nat → Option Nat
  | 0, _ => none
  | n + 1, k => if p k then some k else firstFrom p n (k + 1)

/-- The first number below `n` that the test passes. -/
def firstNat (n : Nat) (p : Nat → Bool) : Option Nat := firstFrom p n 0

/-- Sets one element of a list. -/
def updAt {α : Type} (l : List α) (i : Nat) (f : α → α) : List α := l.modify i f

/-! ## The lifecycle fuses (R348) -/

/-- Most of the redundant groups read as programmed (R348). -/
def majority (l : List Bool) : Bool := decide (l.length < 2 * l.count true)

/-- The number of the last state in a list of fuse groups that reads as programmed, counted from `n`; `d` when none does. -/
def senseLc : Nat → Nat → List (List Bool) → Nat
  | _, d, [] => d
  | n, d, g :: r => senseLc (n + 1) (if majority g then n + 1 else d) r

/-- The lifecycle state: 0 Blank, 1 Provisioned, 2 Deployed, 3 Returned, 4 Retired (R348). -/
def Fuses.lc (f : Fuses) : Nat := senseLc 0 0 f.lcGroups

/-- The fuse groups with those of every state up to `n` programmed. -/
def lcFuses (n : Nat) : List (List Bool) := (List.range 4).map fun i => List.replicate 3 (decide (i < n))

end Sys2Proof.Machine
end

