-- ==== Sys2Proof/Machine/Codes.lean ====
section
/-! DEFINITION. Status and event codes (R381), their severities (R385), and the source kinds of the log (R316). -/

namespace Sys2Proof.Machine

/-! Link group -/
def stPortFailed : W16 := 0x0110
def stProtocol : W16 := 0x0111
def stRetrain : W16 := 0x0112
def stTraining : W16 := 0x0113
def stOverrun : W16 := 0x0114
def stNoRoute : W16 := 0x0115
def stFabricIdle : W16 := 0x0116
def stFabricActive : W16 := 0x0117
/-! Stream group -/
def stSTimeout : W16 := 0x0201
def stSBusy : W16 := 0x0202
def stSOwnerLost : W16 := 0x0203
def stSDuplicate : W16 := 0x0206
def stPeerLost : W16 := 0x0207
def stNotAdmitted : W16 := 0x0210
def stCannotScreen : W16 := 0x0211
def stStagInUse : W16 := 0x0212
def stSNoRoute : W16 := 0x0213
def stDenied : W16 := 0x0214
def stFenError : W16 := 0x0215
def stVocabAbsent : W16 := 0x0216
def stGrammarAbsent : W16 := 0x0217
def stTokenRange : W16 := 0x0218
def stRillFault : W16 := 0x0219
def stTooFewRills : W16 := 0x021A
def stFabricPortIdle : W16 := 0x021B
def stLifecycle : W16 := 0x021C
def stBadPreamble : W16 := 0x021D
/-! Weir and Sluice group -/
def stWTimeout : W16 := 0x0301
def stWBusy : W16 := 0x0302
def stWOwnerLost : W16 := 0x0303
def stMemberLeft : W16 := 0x0304
def stUnderflow : W16 := 0x0305
def stWDuplicate : W16 := 0x0306
def stNotOwner : W16 := 0x0310
def stWeirOverflow : W16 := 0x0311
def stBadGeneration : W16 := 0x0312
def stMaskMismatch : W16 := 0x0313
def stStale : W16 := 0x0314
def stNoStream : W16 := 0x0315
def stBadOperation : W16 := 0x0316
def stArrivalRejected : W16 := 0x0317
def stNotCurrent : W16 := 0x0318
/-! Memory group -/
def stMTimeout : W16 := 0x0401
def stMBusy : W16 := 0x0402
def stOutOfRange : W16 := 0x0410
def stNoSpace : W16 := 0x0411
def stMoveForbidden : W16 := 0x0412
def stObjectMoving : W16 := 0x0413
def stUncorrectable : W16 := 0x0414
def stContentError : W16 := 0x0415
def stRegionConflict : W16 := 0x0416
def stFenBankFull : W16 := 0x0417
def stIllegalEntry : W16 := 0x0418
def stBankLoading : W16 := 0x0419
def stPartitionAbsent : W16 := 0x041A
def stRillNotInMask : W16 := 0x041B
def stWriteFailed : W16 := 0x041C
/-! Bale group -/
def stBBusy : W16 := 0x0502
def stNoGoodHeader : W16 := 0x0510
def stFormatRefused : W16 := 0x0511
def stNotNewer : W16 := 0x0512
def stShardsLost : W16 := 0x0513
def stObjectInvalid : W16 := 0x0514
def stDoesNotFit : W16 := 0x0515
def stOutOfIds : W16 := 0x0516
def stBTooFewRills : W16 := 0x0517
def stNoFenBanks : W16 := 0x0518
def stNothingToCommit : W16 := 0x0519
def stBadPadding : W16 := 0x051A
def stAborted : W16 := 0x051B
/-! Hayward group -/
def stHBusy : W16 := 0x0602
def stNotGateable : W16 := 0x0610
def stPlotResident : W16 := 0x0611
def stImageCheck : W16 := 0x0612
def stFlashTimeout : W16 := 0x0613
def stPairIncompatible : W16 := 0x0614
def stSignature : W16 := 0x0615
def stRequestRefused : W16 := 0x0616
def stSlotWritten : W16 := 0x0617
def stNotAvailable : W16 := 0x0618
def stUnknownCommand : W16 := 0x0619
def stCommandAborted : W16 := 0x061A
def evStep : W16 := 0x0680
def evTrip : W16 := 0x0681
def evSagEntry : W16 := 0x0682
def evSagExit : W16 := 0x0683
def evDropped : W16 := 0x0684
def evWatchdog : W16 := 0x0685
def evLockLost : W16 := 0x0686
def evSupply : W16 := 0x0687
def evSensor : W16 := 0x0688
def evFenRepair : W16 := 0x0689
def evMemberRestart : W16 := 0x068A
def evDelta : W16 := 0x068B
def evBoot : W16 := 0x068C
def evDeepOverrun : W16 := 0x068D
def evCountersLost : W16 := 0x068E
def evGrant : W16 := 0x068F
/-! Configuration and Hedge groups -/
def stMaskRefused : W16 := 0x0710
def stDeltaRefused : W16 := 0x0711
def stBankIllegal : W16 := 0x0712
def stRouteInvalid : W16 := 0x0713
def stDefaultRecord : W16 := 0x0714
def stGrammarOverflow : W16 := 0x0809
def stMaskViolation : W16 := 0x0810
def stEmptyMask : W16 := 0x0811

/-! Source kinds of the log (R316) -/
def skHayward : Nat := 0
def skHeath : Nat := 1
def skPlot : Nat := 2
def skLink : Nat := 3
def skFabric : Nat := 4
def skBank : Nat := 5
def skRill : Nat := 6
def skMemory : Nat := 7
def skBale : Nat := 8
def skFlash : Nat := 9
def skTenant : Nat := 10
def skMember : Nat := 11

/-- The group of a code: its high byte (R14). -/
def codeGroup (c : W16) : Nat := fld c 8 8

/-- SEV of a record, fixed by its CODE (R385).  `fatal` is the case that the table names for Watchdog restart and for
Supply fault. -/
def severity (c : W16) (fatal : Bool) : Nat :=
  if c = stFenError ∨ c = stRillFault ∨ c = stUncorrectable ∨ c = stPartitionAbsent ∨ c = stWriteFailed ∨
      c = stFlashTimeout ∨ c = stPairIncompatible ∨ c = evTrip ∨ c = evLockLost then 3
  else if c = evWatchdog ∨ c = evSupply then (if fatal then 4 else 3)
  else if c = evStep ∨ c = evDelta ∨ c = evBoot then 0
  else if c = evSagExit ∨ c = evFenRepair ∨ c = evMemberRestart ∨ c = evGrant then 1
  else if codeGroup c = 2 ∨ codeGroup c = 3 ∨ codeGroup c = 8 then 1
  else 2

end Sys2Proof.Machine
end

