-- ==== Sys2Proof/Machine/Operands.lean ====
section
/-! DEFINITION. Every layout of the manual that a command carries or that the engine sends: link frames (R45, R46),
Hello (R339), operation bodies (R234), the request preamble (R85), verdict and mask records (R87, R223), fabric flits
(R360), Fen entries, keys and actions (R139, R143, R145), log records (R316), object records (R270). -/

namespace Sys2Proof.Machine

/-! ## Link frames -/

/-- The kinds of a frame (R45). -/
def kData : Nat := 0
def kAck : Nat := 1
def kNak : Nat := 2
def kCredit : Nat := 3
def kHello : Nat := 4

/-- A frame header as received (R45). -/
structure Hdr where
  cls    : Nat
  kind   : Nat
  ackv   : Bool
  crcls  : Nat
  crcnt  : Nat
  res1   : Nat
  ackseq : BitVec 12
  len    : Nat
  sos    : Bool
  eos    : Bool
  fence  : Bool
  src    : BitVec 6
  dst    : BitVec 6
  tenant : BitVec 6
  c1kind : BitVec 2
  res2   : Nat
  epoch  : W16
  csf    : W16
  hcrc   : BitVec 16
  deriving DecidableEq, Repr

/-- Reads the 16 header bytes (R45). (DEDUCED, log entry 12) -/
def parseHdr (l : List Byte) : Hdr :=
  let x := leNat (l.take 16)
  { cls := bitsOf x 0 2, kind := bitsOf x 2 3, ackv := bitsOf x 5 1 = 1, crcls := bitsOf x 6 2, crcnt := bitsOf x 8 8,
    res1 := bitsOf x 16 12, ackseq := BitVec.ofNat 12 (bitsOf x 28 12), len := bitsOf x 40 13,
    sos := bitsOf x 53 1 = 1, eos := bitsOf x 54 1 = 1, fence := bitsOf x 55 1 = 1,
    src := BitVec.ofNat 6 (bitsOf x 56 6), dst := BitVec.ofNat 6 (bitsOf x 62 6),
    tenant := BitVec.ofNat 6 (bitsOf x 68 6), c1kind := BitVec.ofNat 2 (bitsOf x 74 2), res2 := bitsOf x 76 4,
    epoch := BitVec.ofNat 16 (bitsOf x 80 16), csf := BitVec.ofNat 16 (bitsOf x 96 16),
    hcrc := BitVec.ofNat 16 (bitsOf x 112 16) }

/-- HCRC covers header bytes 0 to 13 (R45). (DEDUCED, log entry 12) -/
def hcrcGood (l : List Byte) : Bool := decide (16 ≤ l.length) && decide (crc16 (l.take 14) = (parseHdr l).hcrc)

/-- Flits of a frame with a payload of LEN bytes. -/
def flitsFor (len : Nat) : Nat := ceilDiv (24 + len) 64

/-- The flits that arrived match LEN (R48, R52). -/
def lengthGood (l : List Byte) : Bool := decide (l.length = 64 * flitsFor (parseHdr l).len)

/-- FCRC covers header, payload, padding and trailer bytes 0 to 3 (R46). (DEDUCED, log entry 12) -/
def fcrcGood (l : List Byte) : Bool :=
  lengthGood l && decide (crc32c (l.take (l.length - 4)) = BitVec.ofNat 32 (leAt l (l.length - 4) 4))

/-- SEQ of the trailer (R46). -/
def seqOf (l : List Byte) : BitVec 12 := BitVec.ofNat 12 (bitsOf (leAt l (l.length - 8) 4) 0 12)

/-- STOMP of the trailer (R46). -/
def stompOf (l : List Byte) : Bool := decide (bitsOf (leAt l (l.length - 8) 4) 12 1 = 1)

/-- The frame that a good wire frame carries. -/
def frameOf (l : List Byte) (o : Origin) : Frame :=
  let h := parseHdr l
  { cls := BitVec.ofNat 2 h.cls, sos := h.sos, eos := h.eos, fence := h.fence, src := h.src, dst := h.dst,
    tenant := h.tenant, c1kind := h.c1kind, epoch := h.epoch, csf := h.csf, payload := slice l 16 h.len,
    stomp := stompOf l, origin := o }

/-- Header bytes 0 to 13 as one number (R45). -/
def hdrNum (f : Frame) (kind : Nat) (ackv : Bool) (crcls crcnt : Nat) (ackseq : BitVec 12) : Nat :=
  at' f.cls.toNat 0 + at' kind 2 + at' (b2n ackv) 5 + at' crcls 6 + at' crcnt 8 + at' ackseq.toNat 28 +
  at' f.payload.length 40 + at' (b2n f.sos) 53 + at' (b2n f.eos) 54 + at' (b2n f.fence) 55 + at' f.src.toNat 56 +
  at' f.dst.toNat 62 + at' f.tenant.toNat 68 + at' f.c1kind.toNat 74 + at' f.epoch.toNat 80 + at' f.csf.toNat 96

/-- The bytes of a frame on the wire: header with HCRC, payload, padding, trailer with FCRC (R45, R46). -/
def encodeFrame (f : Frame) (kind : Nat) (ackv : Bool) (crcls crcnt : Nat) (ackseq seq : BitVec 12) : List Byte :=
  let h := leBytes 14 (hdrNum f kind ackv crcls crcnt ackseq)
  let head := h ++ leBytes 2 (crc16 h).toNat
  let pad := zeros (64 * flitsFor f.payload.length - 24 - f.payload.length)
  let body := head ++ f.payload ++ pad ++ leBytes 4 (seq.toNat + at' (b2n f.stomp) 12)
  body ++ leBytes 4 (crc32c body).toNat

/-- Flits of a frame. -/
def frameFlits (f : Frame) : Nat := flitsFor f.payload.length

/-! ## Hello -/

/-- A Hello payload as received (R54, R339). -/
structure HelloP where
  cred   : Cr4
  long   : Bool
  delta  : W32
  member : BitVec 6
  peer   : Bool
  hup    : Bool
  resv   : Bool
  epoch  : W16
  boot   : W16
  deriving DecidableEq, Repr

/-- Reads a Hello payload; none unless it is 8 or 24 bytes long (R339). -/
def parseHello (l : List Byte) : Option HelloP :=
  if l.length = 8 ∨ l.length = 24 then
    some { cred := { c0 := leAt l 0 2, c1 := leAt l 2 2, c2 := leAt l 4 2, c3 := leAt l 6 2 },
           long := l.length = 24, delta := BitVec.ofNat 32 (leAt l 8 4), member := BitVec.ofNat 6 (leAt l 12 1),
           peer := bitsOf (leAt l 13 1) 0 1 = 1, hup := bitsOf (leAt l 13 1) 1 1 = 1,
           resv := bitsOf (leAt l 12 1) 6 2 ≠ 0 || bitsOf (leAt l 13 1) 2 6 ≠ 0 || leAt l 18 6 ≠ 0,
           epoch := BitVec.ofNat 16 (leAt l 14 2), boot := BitVec.ofNat 16 (leAt l 16 2) }
  else none

/-- The 24 bytes of a Hello that this engine sends (R54, R339). -/
def encodeHello (cred : Cr4) (delta : W32) (member : BitVec 6) (peer hup : Bool) (epoch boot : W16) : List Byte :=
  leBytes 2 cred.c0 ++ leBytes 2 cred.c1 ++ leBytes 2 cred.c2 ++ leBytes 2 cred.c3 ++ leBytes 4 delta.toNat ++
  leBytes 1 member.toNat ++ leBytes 1 (b2n peer + 2 * b2n hup) ++ leBytes 2 epoch.toNat ++ leBytes 2 boot.toNat ++
  zeros 6

/-! ## Operation bodies (R233, R234) -/

def opcSignal : Byte := 0x01
def opcWait : Byte := 0x02
def opcDecrement : Byte := 0x03
def opcRead : Byte := 0x04
def opcSet : Byte := 0x05
def opcBind : Byte := 0x06
def opcRemoteSignal : Byte := 0x08
def opcResignal : Byte := 0x09
def opcSluiceArrive : Byte := 0x10
def opcSluiceWait : Byte := 0x11
def opcLinkSignal : Byte := 0x20
def opcLinkAck : Byte := 0x21
def opcLinkArrive : Byte := 0x22
def opcLinkReject : Byte := 0x23
def opcComplete : Byte := 0x40

/-- The codes that R233 accepts from fabric ports. -/
def fabricCodes : List Byte := [0x01, 0x02, 0x03, 0x04, 0x05, 0x06, 0x08, 0x09, 0x10, 0x11]
/-- The codes that R233 accepts from link ports. -/
def linkCodes : List Byte := [0x20, 0x21, 0x22, 0x23]

def opObj (b : OpBody) : BitVec 14 := b.extractLsb' 0 14
def opTag (b : OpBody) : W16 := b.extractLsb' 16 16
def opAgent (b : OpBody) : W16 := b.extractLsb' 32 16
def opStatus (b : OpBody) : W16 := b.extractLsb' 48 16
def opDst (b : OpBody) : BitVec 6 := b.extractLsb' 64 6
def opOpc (b : OpBody) : Byte := b.extractLsb' 72 8
def opGen (b : OpBody) : W16 := b.extractLsb' 80 16
def opN (b : OpBody) : W32 := b.extractLsb' 96 32
def opTmo (b : OpBody) : BitVec 20 := b.extractLsb' 128 20
def opSigseq (b : OpBody) : W32 := b.extractLsb' 160 32
def opMask (b : OpBody) : W64 := b.extractLsb' 192 64
/-- The Sluice index of a body: bits [7:0] of OBJ. -/
def opSluice (b : OpBody) : Nat := (opObj b).toNat % 256

/-- The fields of a body that the engine forms. -/
structure BodyF where
  obj    : BitVec 14 := 0
  tag    : W16 := 0
  agent  : W16 := 0
  status : W16 := 0
  rip    : Bool := false
  opc    : Byte := 0
  gen    : W16 := 0
  n      : W32 := 0
  sigseq : W32 := 0
  mask   : W64 := 0
  deriving DecidableEq, Repr

/-- The 40-byte body of R234. -/
def encodeBody (b : BodyF) : List Byte :=
  leBytes 2 b.obj.toNat ++ leBytes 2 b.tag.toNat ++ leBytes 2 b.agent.toNat ++ leBytes 2 b.status.toNat ++
  leBytes 1 (at' (b2n b.rip) 6) ++ leBytes 1 b.opc.toNat ++ leBytes 2 b.gen.toNat ++ leBytes 4 b.n.toNat ++
  leBytes 4 0 ++ leBytes 4 b.sigseq.toNat ++ leBytes 8 b.mask.toNat ++ zeros 8

/-- The body that a 40-byte payload holds; a shorter payload reads as zero beyond its end. -/
def bodyOf (l : List Byte) : OpBody := BitVec.ofNat 320 (leNat (l.take 40))

/-! ## Request preamble (R85) -/

/-- The request preamble of an SOS payload. -/
structure Preamble where
  reqid   : W64
  vocab   : Nat
  grammar : Nat
  gen     : Bool
  resvZero : Bool
  deriving DecidableEq, Repr

/-- Reads the first 16 payload bytes (R85). -/
def parsePreamble (l : List Byte) : Preamble :=
  let x := leNat (l.take 16)
  { reqid := BitVec.ofNat 64 (bitsOf x 0 64), vocab := bitsOf x 64 4, grammar := bitsOf x 68 8,
    gen := bitsOf x 76 1 = 1, resvZero := bitsOf x 77 51 = 0 }

/-! ## Verdict records (R87, R88) -/

def vkPass : BitVec 4 := 0
def vkHold : BitVec 4 := 1
def vkRedact : BitVec 4 := 2
def vkRefuse : BitVec 4 := 3
def vkRetract : BitVec 4 := 4
def vkClear : BitVec 4 := 5
def vkEnd : BitVec 4 := 6
def sgAdmission : BitVec 4 := 0
def sgPrompt : BitVec 4 := 1
def sgFirst : BitVec 4 := 2
def sgDeep : BitVec 4 := 3
def sgHedge : BitVec 4 := 4
def sgControl : BitVec 4 := 5

/-- The 32 bytes of a verdict record (R87). -/
def encodeRecord (r : VRecord) : List Byte :=
  leBytes 2 (at' r.vkind.toNat 0 + at' r.stage.toNat 4 + at' (b2n r.trunc) 8 + at' (b2n r.dup) 9 +
    at' (b2n r.ooc) 10 + at' (b2n r.capped) 11 + at' (b2n r.last) 12) ++
  leBytes 2 r.status.toNat ++ leBytes 2 r.stag.toNat ++ leBytes 1 r.tenant.toNat ++ leBytes 1 r.vocab.toNat ++
  leBytes 8 r.reqid.toNat ++ leBytes 4 r.spanStart ++ leBytes 4 r.spanEnd ++ leBytes 2 r.policy.toNat ++
  leBytes 2 r.retry.toNat ++ leBytes 2 r.marker.toNat ++ zeros 2

/-! ## Mask records (R223, R224) -/

/-- The bytes of a mask record over `ntok` tokens: Sparse up to 1,024 tokens, else Dense (R224). -/
def encodeMask (toks : List Nat) (ntok : Nat) (eosok ovf : Bool) (stag : W16) (tenant vocab grammar pos : Nat) :
    List Byte :=
  let sparse := decide (toks.length ≤ 1024)
  let body := if sparse then padTo 64 (toks.flatMap (leBytes 4))
    else leBytes (64 * ceilDiv ntok 512) (toks.foldl (fun a t => a + 2 ^ t) 0)
  leBytes 4 ((if sparse then 2 else 1) + at' (b2n eosok) 4 + at' (b2n ovf) 5) ++ leBytes 2 stag.toNat ++
  leBytes 1 tenant ++ leBytes 1 vocab ++ leBytes 1 grammar ++ zeros 3 ++ leBytes 4 pos ++ leBytes 4 toks.length ++
  leBytes 2 (body.length / 64) ++ zeros 10 ++ body

/-! ## Fabric flits (R360) -/

/-- The 64 bytes of a fabric flit: header with FHCRC, body padded with zero. -/
def encodeFlit (f : FbFlit) : List Byte :=
  let x := at' f.fclass.toNat 0 + at' f.fkind.toNat 2 + at' (b2n f.som) 4 + at' (b2n f.eom) 5 + at' (b2n f.poison) 6 +
    at' (b2n f.fence) 7 + at' f.tenant.toNat 8 + at' f.csf.toNat 16 + at' f.eng.toNat 32 + at' f.lport.toNat 38 +
    at' f.body.length 44
  let h := leBytes 12 x
  h ++ leBytes 2 (crc16 h).toNat ++ f.body ++ zeros (50 - f.body.length)

/-- The class-0 Op flit that carries a COMPLETE (R235, R360). -/
def completeFlit (tenant : BitVec 6) (b : BodyF) : FbFlit :=
  { fclass := 0, fkind := 0, tenant := tenant, csf := opcComplete.setWidth 16, body := encodeBody b }

/-- Whether a body is of the form `encodeBody` gives; used to read a queued COMPLETE back. -/
def flitBody (f : FbFlit) : OpBody := bodyOf f.body

/-! ## Fen entries, actions and keys -/

def fenValue (e : FenEntry) : BitVec 192 := e.extractLsb' 0 192
def fenMaskOf (e : FenEntry) : BitVec 192 := e.extractLsb' 192 192
def fenPrio (e : FenEntry) : Nat := fld e 384 16
def fenAction (e : FenEntry) : W32 := e.extractLsb' 400 32
def fenValid (e : FenEntry) : Bool := e.getLsbD 432

/-- The entry with VALID set or cleared; reserved bits as they are. -/
def setValid (e : FenEntry) (v : Bool) : FenEntry :=
  if v then e ||| (1#448 <<< 432) else e &&& ~~~(1#448 <<< 432)

/-- The bits [431:0] of an entry, with VALID and the reserved bits zero (R159). -/
def entryBits (e : FenEntry) : FenEntry := (e.extractLsb' 0 432).setWidth 448

/-- One parity bit for each 32-bit word of an entry (R139). -/
def parityOf (e : FenEntry) : BitVec 14 :=
  BitVec.ofNat 14 ((List.range 14).foldl (fun a w =>
    a + at' ((List.range 32).foldl (fun p i => (p + b2n (e.getLsbD (32 * w + i))) % 2) 0) w) 0)

/-- The entry matches a presented key (R140). -/
def fenMatches (e : FenEntry) (k : FenKey) : Bool :=
  fenValid e && decide ((k ^^^ fenValue e) &&& fenMaskOf e = 0#192)

def actType (a : W32) : Nat := fld a 28 4
def actFbport (a : W32) : Nat := fld a 0 4
def actInlane (a : W32) : Nat := fld a 4 3
def actOutlane (a : W32) : Nat := fld a 7 3
def actPolicy (a : W32) : Nat := fld a 10 12
def actDenyPolicy (a : W32) : Nat := fld a 0 12
def actFeat (a : W32) : Nat := fld a 0 16
def actWeight (a : W32) : Nat := fld a 16 10
def actVreq (a : W32) : Nat := fld a 26 2

/-- BANKA, BANKB, TWO and EN of a bank-mask entry (R150). -/
def bmA (m : W16) : Nat := fld m 0 6
def bmB (m : W16) : Nat := fld m 6 6
def bmTwo (m : W16) : Bool := bitAt m 12
def bmEn (m : W16) : Bool := bitAt m 13
/-- The banks that a bank-mask entry selects (R150). -/
def bmBanks (m : W16) : List Nat := if bmEn m then (if bmTwo m then [bmA m, bmB m] else [bmA m]) else []

/-- Key types of R142. -/
def ktHeader : Nat := 1
def ktNgram : Nat := 2
def ktHashed : Nat := 3

/-- The header key (R143). -/
def headerKey (tenant port : Nat) (src : BitVec 6) (p : Preamble) (stag : W16) : FenKey :=
  BitVec.ofNat 192 (at' ktHeader 0 + at' tenant 4 + at' port 10 + at' src.toNat 16 + at' p.vocab 22 +
    at' (b2n p.gen) 26 + at' p.grammar 27 + at' stag.toNat 35 + at' p.reqid.toNat 51)

/-- The n-gram key of token `i` of a prompt (R143); position j is the token j places before it. -/
def ngramKey (tenant vocab : Nat) (toks : List TokRec) (i : Nat) : FenKey :=
  let seen := ((toks.take (i + 1)).reverse).take 8
  BitVec.ofNat 192 (at' ktNgram 0 + at' tenant 4 + at' vocab 10 +
    (seen.zipIdx.foldl (fun a x => a + at' 1 (14 + x.2) + at' (b2n x.1.fb) (22 + x.2) + at' x.1.id (30 + 19 * x.2)) 0))

/-- hash(l) of R143 over a list of `l` token IDs, newest first. -/
def fenHash (newest : List Nat) : Nat :=
  newest.reverse.foldl (fun h t => (h * 0x100000001B3 + t + 1) % 2 ^ 40) newest.length

/-- The hashed key of token `i` of a prompt (R143). -/
def hashedKey (tenant vocab : Nat) (toks : List TokRec) (i : Nat) : FenKey :=
  let seen := ((toks.take (i + 1)).reverse).map (·.id)
  let part (l avail pos : Nat) : Nat :=
    if l ≤ seen.length then at' 1 avail + at' (fenHash (seen.take l)) pos else 0
  BitVec.ofNat 192 (at' ktHashed 0 + at' tenant 4 + at' vocab 10 + part 12 14 18 + part 16 15 58 + part 24 16 98 +
    part 32 17 138)

/-- A Fen shadow record (R161): entry bits in bytes 0 to 55, CRC-32C in 56 to 59, zero after. -/
def shadowBytes (e : FenEntry) : List Byte :=
  let b := leBytes 56 e.toNat
  b ++ leBytes 4 (crc32c b).toNat ++ zeros 4

/-- The shadow record of an empty entry: 56 zero bytes and their CRC-32C. -/
def emptyShadow : List Byte := zeros 56 ++ leBytes 4 0x1547CA9E ++ zeros 4

/-- What an unlisted byte of the far partition reads as: boot allocates the Fen shadow in its first 32 MiB with the record of an empty
entry for every entry (R161), and the wipe leaves every other byte zero (R353). (DEDUCED, log entry 41) -/
def farInit (a : Nat) : Byte := if a < 33554432 then emptyShadow.getD (a % 64) 0 else 0

/-- The CRC of a shadow record is good (R161). -/
def shadowGood (l : List Byte) : Bool := decide (crc32c (l.take 56) = BitVec.ofNat 32 (leAt l 56 4))

/-- The entry of a shadow record. -/
def shadowEntry (l : List Byte) : FenEntry := BitVec.ofNat 448 (leNat (l.take 56))

/-! ## Log records (R316) -/

/-- The 64 bytes of a log record. -/
def encodeLog (r : LogRec) : List Byte :=
  let b := leBytes 4 r.lseq.toNat ++ leBytes 8 r.time.toNat ++ leBytes 2 r.boot.toNat ++ leBytes 1 r.sev ++
    leBytes 1 r.srck ++ leBytes 2 r.srcid.toNat ++ leBytes 2 r.code.toNat ++
    ((List.range 9).flatMap fun i => leBytes 4 ((r.args.getD i 0).toNat)) ++ zeros 4
  b ++ leBytes 4 (crc32c b).toNat

/-- A slot passes RCRC and is not erased (R318). -/
def logGood (l : List Byte) : Bool :=
  decide (l.length = 64) && decide (crc32c (l.take 60) = BitVec.ofNat 32 (leAt l 60 4)) && !(l.all (· = 0xFF))

/-- A slot whose bytes all read 0xFF (R318). -/
def logErased (l : List Byte) : Bool := l.all (· = 0xFF)

/-- HMAGIC of a log half header (R317). -/
def hmagic : Nat := 0x474F4C48

/-- The 64 bytes of a half header (R317). -/
def encodeHalf (hseq first : W32) : List Byte :=
  let b := leBytes 4 hmagic ++ leBytes 4 hseq.toNat ++ leBytes 4 first.toNat ++ zeros 48
  b ++ leBytes 4 (crc32c b).toNat

/-! ## Object records (R270) and roles (R332) -/

/-- The code of a role. -/
def roleCode : Role → Nat
  | .off => 0 | .client => 1 | .peer => 2 | .opened => 3

/-- The code of an object kind. -/
def kindCode : ObjKind → Nat
  | .vocabulary => 0 | .grammar => 1 | .classifier => 2 | .seed => 3 | .setRecord => 4 | .fenSet => 5
  | .kvCache => 6 | .pinned => 7

/-- The code of an object state. -/
def stateCode : ObjState → Nat
  | .home => 0 | .moving => 1 | .lost => 2 | .free => 3

/-- The code of a tier. -/
def tierCode : Tier → Nat
  | .near => 0 | .far => 1 | .slow => 2 | .fen => 3

/-- The object record as one number of 192 bits (R270). -/
def objRecord (id : Nat) (o : Obj) (sets users : Nat) : Nat :=
  at' id 0 + at' (kindCode o.kind) 17 + at' (stateCode o.state) 20 + at' (tierCode o.home.tier) 22 +
  at' (if o.home.tier = .near ∧ ¬ o.home.pool then o.home.rill else 0) 24 +
  at' (b2n (o.home.tier = .near && o.home.pool)) 31 + at' o.owner 32 + at' sets 40 + at' (min users 0x3FFFFF) 42 +
  at' o.home.loc.toNat 64 + at' o.size 128

end Sys2Proof.Machine
end

