-- ==== Sys2Proof/Machine/Ops.lean ====
section
/-! DEFINITION. The named operations that every family uses: the parts of the state by number, time, counters, the
event log, interrupts, routes, sending on links and on fabric ports. -/

namespace Sys2Proof.Machine

/-- What a meaning answers. -/
abbrev Result := Host.Outcome State Fault Refusal

/-- The clock generator of Brook `b` is enabled and locked (R21).  Brooks are numbered cb 0–15, lb 16–23, io 24–27, fn 28–31,
mb 32–33, Hub 34, Hayward 35. -/
def lockedOn (s : State) (b : Nat) : Bool := s.locks.contains b

/-- A command has its effect unless the engine is held in reset (R40, R370): then nothing happens. (DESIGN CHOICE, log entry 3; DEDUCED, log entry 5) -/
def alive (s : State) (k : State → State) : Result := .next (if s.boot.phase = .held then s else k s)

/-- A command of a Brook: it has no effect while the Brook's clock generator is not locked (R21). (DESIGN CHOICE, log entry 3; DEDUCED, log entry 47) -/
def runningOn (s : State) (b : Nat) (k : State → State) : Result := alive s fun s => if lockedOn s b then k s else s

/-- A command of the Hub. -/
def running (s : State) (k : State → State) : Result := runningOn s 34 k

/-- A command of the Hayward Brook. -/
def runningHw (s : State) (k : State → State) : Result := runningOn s 35 k

/-- A command of the Hayward firmware: nothing of it happens while the core restarts (R292). (DEDUCED, log entry 44) -/
def firmware (s : State) (k : State → State) : Result := runningHw s fun s => if s.hay.firmRun then k s else s

/-- A command of the Hayward that also acts only once R325 has finished (R326). (DESIGN CHOICE, log entry 3) -/
def whenUp (s : State) (k : State → State) : Result :=
  .next (if s.boot.phase = .running then (if lockedOn s 35 then k s else s) else s)

/-! ## Parts by number -/

def portOf (s : State) (p : Nat) : Port := smGet {} s.ports p
def setPort (s : State) (p : Nat) (x : Port) : State := { s with ports := smSet {} s.ports p x }
def modPort (s : State) (p : Nat) (f : Port → Port) : State := setPort s p (f (portOf s p))
def fbOf (s : State) (f : Nat) : FbPort := smGet {} s.fbs f
def setFb (s : State) (f : Nat) (x : FbPort) : State := { s with fbs := smSet {} s.fbs f x }
def modFb (s : State) (f : Nat) (g : FbPort → FbPort) : State := setFb s f (g (fbOf s f))
def weirOf (s : State) (w : Nat) : Weir := smGet {} s.weirs w
def setWeir (s : State) (w : Nat) (x : Weir) : State := { s with weirs := smSet {} s.weirs w x }
def sluiceOf (s : State) (i : Nat) : Sluice := smGet {} s.sluices i
def setSluice (s : State) (i : Nat) (x : Sluice) : State := { s with sluices := smSet {} s.sluices i x }
def streamOf (s : State) (c : Nat) : Stream := smGet {} s.streams c
def setStream (s : State) (c : Nat) (x : Stream) : State := { s with streams := smSet {} s.streams c x }
def modStream (s : State) (c : Nat) (f : Stream → Stream) : State := setStream s c (f (streamOf s c))
def objOf (s : State) (i : Nat) : Obj := smGet {} s.objs i
def setObj (s : State) (i : Nat) (x : Obj) : State := { s with objs := smSet {} s.objs i x }
def plotOf (s : State) (n : Nat) : Plot := smGet {} s.plots n
def setPlot (s : State) (n : Nat) (x : Plot) : State := { s with plots := smSet {} s.plots n x }
def heathAt (s : State) (h : Nat) : Heath := smGet {} s.hay.heaths h
def setHeath (s : State) (h : Nat) (x : Heath) : State :=
  { s with hay := { s.hay with heaths := smSet {} s.hay.heaths h x } }
def roleOf (s : State) (p : Nat) : Role := smGet .off s.cfg.role p
def tenOf (s : State) (t : Nat) : TenCfg := smGet {} s.cfg.ten t
def bankCfgOf (s : State) (b : Nat) : BankCfg := smGet {} s.cfg.bank b
def routeEnt (s : State) (m : Nat) : RouteEnt := smGet {} s.cfg.route m
/-- The active set table, and the other one (R284). -/
def actTab (s : State) : SetTab := if s.actB then s.tabB else s.tabA
def otherTab (s : State) : SetTab := if s.actB then s.tabA else s.tabB
def setActTab (s : State) (x : SetTab) : State := if s.actB then { s with tabB := x } else { s with tabA := x }
def setOtherTab (s : State) (x : SetTab) : State := if s.actB then { s with tabA := x } else { s with tabB := x }

/-! ## Free values -/

/-- The next free value (log entry 4). -/
def draw (s : State) : W64 := Config.freeWord s.free
/-- The state after a free value has been drawn. (DESIGN CHOICE, log entry 4) -/
def drawn (s : State) : State := { s with free := s.free + 1 }

/-! ## Telemetry, interrupts, output -/

def telLnk (p k : Nat) : Nat := 0x40000 + 64 * p + 4 * k
def telFab (f k : Nat) : Nat := 0x41000 + 64 * f + 4 * k
def telTen (t k : Nat) : Nat := 0x42000 + 256 * t + 4 * k
def telEng (k : Nat) : Nat := 0x46000 + 4 * k

/-- Adds to a TEL counter, saturating (R379). (DEDUCED, log entry 74) -/
def telAdd (s : State) (off n : Nat) : State := { s with tel := smSet 0 s.tel off (sat32 (smGet 0 s.tel off) n) }
/-- Counts one event. (DEDUCED, log entry 74) -/
def telInc (s : State) (off : Nat) : State := telAdd s off 1

/-- The bits of GEN_INTSTAT (R375). -/
def intMbx : BitVec 4 := 1
def intErr : BitVec 4 := 2
def intTrip : BitVec 4 := 4
def intDelta : BitVec 4 := 8

/-- Sets a bit of GEN_INTSTAT. -/
def raise (s : State) (b : BitVec 4) : State := { s with gen := { s.gen with intstat := s.gen.intstat ||| b } }

/-- Puts something on an output. (DESIGN CHOICE, log entry 11) -/
def emit (s : State) (o : Output) : State := { s with out := s.out ++ [o] }

/-- Counts that the manual asks for and R379 gives no counter to. (DESIGN CHOICE, log entry 18) -/
inductive Tally where
  | hupHello | outOfSequence | refusedFrames | signalNotCurrent | reject | noRoute
  deriving DecidableEq, Repr

/-- The place of a count in `State.tally`. -/
def tallyAt (k : Tally) (part : Nat) : Nat :=
  1024 * (match k with | .hupHello => 0 | .outOfSequence => 1 | .refusedFrames => 2 | .signalNotCurrent => 3 | .reject => 4 | .noRoute => 5) + part

/-- Counts one event of a part. (DESIGN CHOICE, log entry 18) -/
def count (s : State) (k : Tally) (part : Nat) : State :=
  { s with tally := smSet 0 s.tally (tallyAt k part) (smGet 0 s.tally (tallyAt k part) + 1) }

/-! ## Event log (R316, R319) -/

/-- Ring slots in use by records not yet programmed. -/
def unwritten (l : Log) : List (Nat × LogRec) := l.ring.filter fun x => !x.2.written

/-- The first slot after the newest record that holds no unwritten record. -/
def nextRingSlot (l : Log) : Option Nat :=
  (firstNat 2048 fun i => (smGet {} l.ring ((l.newPos + 1 + i) % 2048)).written).map
    fun i => (l.newPos + 1 + i) % 2048

/-- The victim of a full ring: the oldest unwritten record of the lowest severity present (R319). -/
def ringVictim (l : Log) : Option (Nat × LogRec) :=
  (unwritten l).foldl (fun best x =>
    match best with
    | none => some x
    | some b => if x.2.sev < b.2.sev ∨ (x.2.sev = b.2.sev ∧ older x.2.lseq b.2.lseq) then some x else some b) none

/-- Puts a record into a ring slot as the newest one. -/
def ringPut (l : Log) (slot : Nat) (r : LogRec) : Log :=
  { l with ring := smSet {} l.ring slot r, newPos := slot, any := true, nextSeq := l.nextSeq + 1 }

/-- Writes a record to the ring (R319): a free slot, else a victim of no higher severity, else the record is dropped. -/
def ringAdd (l : Log) (r : LogRec) : Log × Bool :=
  match (if l.any then nextRingSlot l else some 0) with
  | some slot => (ringPut l slot r, true)
  | none =>
    match ringVictim l with
    | some (slot, v) => if v.sev ≤ r.sev then ({ ringPut l slot r with drops := sat32 l.drops 1 }, true)
        else ({ l with drops := sat32 l.drops 1 }, false)
    | none => ({ l with drops := sat32 l.drops 1 }, false)

/-- Creates a log record (R316, R382, R385), with its interrupt (R375) and its event message (R322). -/
def logRec (s : State) (code : W16) (fatal : Bool) (srck srcid : Nat) (args : List Nat) : State :=
  let r : LogRec := { lseq := s.log.nextSeq, time := BitVec.ofNat 64 s.now, boot := s.log.boot,
                      sev := severity code fatal, srck := srck, srcid := BitVec.ofNat 16 srcid, code := code,
                      args := args.map (BitVec.ofNat 32), written := false }
  let (l, made) := ringAdd s.log r
  let lost := decide (l.drops ≠ s.log.drops)
  let s := { s with log := l }
  let s := if lost then telInc s (telEng 9) else s
  if made then
    let s := if 3 ≤ r.sev then raise s intErr else s
    if 2 ≤ r.sev ∧ s.mgmt.receiver.isSome then
      emit { s with mgmt := { s.mgmt with events := s.mgmt.events ++ [(r.lseq, s.now, false)] } }
        (.mgmt busUnit (.event r.lseq))
    else s
  else s

/-- A log record of ordinary severity. -/
def note (s : State) (code : W16) (srck srcid : Nat) (args : List Nat) : State := logRec s code false srck srcid args

/-! ## Delta and routes -/

/-- Member `m` is in the member mask (R342). -/
def isMember (s : State) (m : Nat) : Bool := s.view.members.getLsbD m
/-- Member `m` is suspended (R346). (DEDUCED, log entry 78) -/
def isSusp (s : State) (m : Nat) : Bool := s.view.susp.getLsbD m

/-- The test of R343: a frame from member `m` with this EPOCH is current. (DEDUCED, log entry 78) -/
def current (s : State) (m : Nat) (e : W16) : Bool :=
  isMember s m && !isSusp s m && decide (e ≠ 0) &&
    (decide (e = smGet 0 s.view.join m) || newer e (smGet 0 s.view.join m))

/-- Link port `p` is Up. -/
def isUp (s : State) (p : Nat) : Bool := decide ((portOf s p).state = .up)
/-- A port that keeps its route: Up, or in Retrain (R347). -/
def keepsRoute (s : State) (p : Nat) : Bool :=
  decide ((portOf s p).state = .up) || decide ((portOf s p).state = .retrain)

/-- The route entry that counts toward member `m`: the entry for this engine itself is ignored (R332). -/
def routeUsed (s : State) (m : Nat) : RouteEnt := if m = s.cfg.memberid.toNat then {} else routeEnt s m

/-- The route to member `m` (R347): PRI, else ALT, else none. -/
def routeTo (s : State) (m : Nat) : Option Nat :=
  let e := routeUsed s m
  match e.pri with
  | some p => if keepsRoute s p then some p
      else match e.alt with
        | some q => if keepsRoute s q then some q else none
        | none => none
  | none => match e.alt with
      | some q => if keepsRoute s q then some q else none
      | none => none

/-- RIP (R64): some link port is in an unfinished replay episode or in Retrain. -/
def replayInProgress (s : State) : Bool :=
  s.ports.any fun x => x.2.rxEp || x.2.txEp.isSome || decide (x.2.state = .retrain)

/-! ## Link egress -/

/-- Count of one class. -/
def crGet (c : Cr4) (k : Nat) : Nat := if k = 0 then c.c0 else if k = 1 then c.c1 else if k = 2 then c.c2 else c.c3
/-- The counts with class `k` changed. -/
def crMod (c : Cr4) (k : Nat) (f : Nat → Nat) : Cr4 :=
  if k = 0 then { c with c0 := f c.c0 } else if k = 1 then { c with c1 := f c.c1 }
  else if k = 2 then { c with c2 := f c.c2 } else { c with c3 := f c.c3 }

/-- The receive credits of a link port (R53). -/
def linkAdvertised : Cr4 := { c0 := 16, c1 := 128, c2 := 512, c3 := 16 }
/-- The receive credits of a fabric port (R53). -/
def fabricAdvertised : Cr4 := { c0 := 32, c1 := 256, c2 := 2048, c3 := 0 }

/-- Flits in a replay buffer (R57). -/
def replayFlits (p : Port) : Nat := (p.replay.map fun x => frameFlits x.frame).sum

/-- Sends a link-control frame (R48): never sequenced, replayed or charged. -/
def sendControl (s : State) (p : Nat) (kind : Nat) (crcls crcnt : Nat) (ackseq : BitVec 12) (payload : List Byte) :
    State :=
  emit s (.link p (encodeFrame { src := s.cfg.memberid, epoch := s.view.epoch, payload := payload } kind (kind = kAck || kind = kCredit)
    crcls crcnt ackseq 0) true)

/-- The first queued frame of a class. -/
def firstOf (q : List Frame) (cls : Nat) : Option Frame := q.find? fun f => f.cls.toNat = cls

/-- A new frame could be sent now: credit for its class, the bound of R54 on class 0, and replay-buffer room (R75). -/
def sendable (p : Port) (f : Frame) : Bool :=
  decide (frameFlits f ≤ crGet p.txCred f.cls.toNat) &&
  (f.cls ≠ 0 || decide (p.c0Out + frameFlits f ≤ 16)) &&
  ((f.cls = 0 && !f.fence) || decide (replayFlits p + frameFlits f ≤ 768))

/-- The Ford between Brook `b` and the Hub is not held in reset: both are powered and locked (R28).  Only compute Brooks can lose
their common Plot (R32). -/
def fordOpen (s : State) (b : Nat) : Bool :=
  lockedOn s 34 && lockedOn s b && (16 ≤ b || decide ((plotOf s (128 + b)).st ≠ .gated))

/-- A command that crosses from Brook `b` to the Hub: the Brook holds it, unaccepted, while their Ford is held in reset (R21, R28).
(DEDUCED, log entry 47) -/
def overFord (s : State) (b : Nat) (k : State → State) : Result := alive s fun s => if fordOpen s b then k s else s

/-- The next frame to resend (R58), when its credit stands or can be spent. -/
def resendNext (x : Port) : Option SentFrame :=
  match x.replay.find? (·.pend) with
  | none => none
  | some f =>
    if f.spent || (decide (frameFlits f.frame ≤ crGet x.txCred f.frame.cls.toNat) &&
        (f.frame.cls ≠ 0 || decide (x.c0Out + frameFlits f.frame ≤ 16))) then some f else none

/-- The oldest queued frame of a class, a fenced class-0 frame only at the head of the queue (R62). -/
def pickOldest (q : List Frame) (cls : BitVec 2) : Option Nat :=
  match q.findIdx? fun f => f.cls = cls with
  | some i => if cls = 0 ∧ i ≠ 0 then none else some i
  | none => none

/-- The index in the queue of the frame to send: an unfenced class-0 frame first, unless it stalls on credit, which stalls its own
class only (R75); else the oldest of the class (R43, R58, R62). -/
def pickFrame (x : Port) (cls : BitVec 2) : Option Nat :=
  match x.txq.findIdx? fun f => f.cls = 0 && !f.fence with
  | some i => if sendable x (x.txq.getD i {}) then some i else pickOldest x.txq cls
  | none => pickOldest x.txq cls

/-- A fenced class-0 frame waits behind the class-0 flits that were queued for its port before it (R62, R244). -/
def fenceClear (s : State) (p : Nat) (f : Frame) : Bool := !f.fence || f.cls ≠ 0 || !(s.c0wait.any fun w => w.egress = p)

/-- The queued frame that leaves next when class `cls` has its turn: one that has its credit, crosses the Ford to the link Brook, and waits
behind no fence; at most 2,047 frames are ever unacknowledged (R28, R57, R62, R75). -/
def nextNew (s : State) (p : Nat) (cls : BitVec 2) : Option Nat :=
  let x := portOf s p
  match pickFrame x cls with
  | none => none
  | some i =>
    let f := x.txq.getD i {}
    if sendable x f && fenceClear s p f && decide (x.replay.length < 2047) && fordOpen s (16 + p / 8) then some i else none

/-- Some Data frame is available to carry acknowledgements and credits (R57): one that can leave the port now. -/
def dataAvailable (s : State) (p : Nat) : Bool :=
  let x := portOf s p
  if x.replay.any (·.pend) then (resendNext x).isSome
  else [(0 : BitVec 2), 1, 2, 3].any fun c => (nextNew s p c).isSome

/-- Acknowledges (R57): on a Data frame when one is available, else at once in an Inserted Ack frame. -/
def sendAck (s : State) (p : Nat) : State :=
  let x := portOf s p
  if dataAvailable s p then setPort s p { x with ackOwed := true }
  else sendControl s p kAck 0 0 (x.nextRx - 1) []

/-- Credit frames for every credit owed, at most 255 in each (R55). -/
def flushOwed (s : State) (p : Nat) : State :=
  let x := portOf s p
  let one (s : State) (k : Nat) : State :=
    (List.range (ceilDiv (crGet x.owe k) 255)).foldl (fun s i =>
      sendControl s p kCredit k (min 255 (crGet x.owe k - 255 * i)) (x.nextRx - 1) []) s
  let s := [0, 1, 2, 3].foldl one s
  modPort s p fun x => { x with
    rxGrant := { c0 := x.rxGrant.c0 + x.owe.c0, c1 := x.rxGrant.c1 + x.owe.c1, c2 := x.rxGrant.c2 + x.owe.c2,
                 c3 := x.rxGrant.c3 + x.owe.c3 },
    owe := {} }

/-- The link Brook of port `p` has its clock (R20, R21). -/
def linkClock (s : State) (p : Nat) : Bool := lockedOn s (16 + p / 8)

/-- Returns credit for flits that have left a port's receive buffer (R55); a port that is not Up sends Hello frames only (R44), and one
without a clock sends nothing (R21). -/
def returnCredit (s : State) (p cls n : Nat) : State :=
  let s := modPort s p fun x => { x with owe := crMod x.owe cls (· + n) }
  if (portOf s p).state ≠ .up || !linkClock s p || dataAvailable s p then s else flushOwed s p

/-- What the port owes without a Data frame to carry it (R55, R57). -/
def settle (s : State) (p : Nat) : State :=
  let x := portOf s p
  if dataAvailable s p then s
  else
    let s := flushOwed s p
    if x.ackOwed then sendControl (modPort s p fun x => { x with ackOwed := false }) p kAck 0 0 (x.nextRx - 1) [] else s

/-- The number of the SEQ reported for a frame never sent. -/
def noSeq : Nat := 0

/-- Frees shared buffers of the Hub pool (R71). -/
def freeBufs (s : State) (n : Nat) : State := { s with poolUsed := s.poolUsed - n }

/-- Frees a class-0 buffer in the region it was taken from (R69, R71). -/
def freeC0 (s : State) : C0Buf → State
  | .none => s
  | .reserve => { s with poolRes := s.poolRes - 1 }
  | .shared => freeBufs s 1

/-- A class-0 flit that waits has been given a buffer. -/
def Reserve.buffered (w : Reserve) : Bool := decide (w.buf ≠ .none)

/-- Discards a Data frame of a lost port (R61): counted and reported in the log, unless it belongs to a class-1 stream,
which ends with Peer-lost instead. -/
def lostFrame (s : State) (p : Nat) (seq : Nat) (f : Frame) : State :=
  let s := freeC0 (freeBufs s f.bufs) f.c0
  match f.origin with
  | .stream _ => s
  | _ => note (telInc s (telLnk p 15)) stPortFailed skLink p [p, (portOf s p).partner.toNat, seq]

/-- Offers a frame to a link port: queued while the port is Up or in Retrain, else discarded (R61). (DESIGN CHOICE, log entry 11) -/
def offer (s : State) (p : Nat) (f : Frame) : State :=
  if keepsRoute s p then modPort s p fun x => { x with txq := x.txq ++ [f] } else lostFrame s p noSeq f

/-! ## Fabric egress -/

/-- The fabric port is in use (R331, R363). -/
def fbInUse (s : State) (f : Nat) : Bool := bitAt s.cfg.fben f
/-- Flits cross the fabric port: its reset is released and it is not held idle (R359, R362, R363). (DEDUCED, log entries 21, 25) -/
def fbLive (x : FbPort) : Bool := !x.inReset && !x.held

/-- What a fabric port can send of each class now (R54, R359). -/
def fbBudget (x : FbPort) : Nat × Nat × Nat :=
  (min (min x.txCred.c0 (32 - x.c0Out)) x.q0.length, min x.txCred.c1 x.q1.length, min x.txCred.c2 x.q2.length)

/-- Hub and io Brook of a fabric port have their clocks, so their Fords take and give entries (R21, R28). -/
def fabricClock (s : State) (f : Nat) : Bool := fordOpen s (24 + f / 4)

/-- Sends what credit allows, class 0 first, then 1, then 2 (R359); the buffers of what leaves are freed. -/
def fbDrain (s : State) (f : Nat) : State :=
  let x := fbOf s f
  if !fbLive x || !fabricClock s f then s
  else
    let (n0, n1, n2) := fbBudget x
    let flits := x.q0.take n0 ++ x.q1.take n1 ++ x.q2.take n2
    let s := setFb s f { x with
      q0 := x.q0.drop n0, q1 := x.q1.drop n1, q2 := x.q2.drop n2, c0Out := x.c0Out + n0,
      txCred := { x.txCred with c0 := x.txCred.c0 - n0, c1 := x.txCred.c1 - n1, c2 := x.txCred.c2 - n2 } }
    let s := freeBufs (telAdd s (telFab f 2) (n0 + n1 + n2)) (flits.map (·.bufs)).sum
    { s with out := s.out ++ flits.map (.fabric f) }

/-- Queues flits toward the fabric and sends what credit allows; a port that is held or in reset takes none (R363). (DESIGN CHOICE, log entry 11) -/
def fbSend (s : State) (f : Nat) (l : List FbFlit) : State :=
  let x := fbOf s f
  if !fbLive x then freeBufs s (l.map (·.bufs)).sum
  else fbDrain (setFb s f { x with
    q0 := x.q0 ++ l.filter (fun y => y.fclass = 0), q1 := x.q1 ++ l.filter (fun y => y.fclass = 1),
    q2 := x.q2 ++ l.filter (fun y => y.fclass = 2) }) f

/-- A visibility hold (link port, arrival number) is in force: a flit of a class-2 frame that arrived on that port no
later still waits at a fabric port, or on its way there (R245). -/
def holdForce (s : State) (h : Nat × Nat) : Bool :=
  ((portOf s h.1).rxq.any fun i => decide (i.frame.cls = 2) && decide (i.frame.dst = s.cfg.memberid) && decide (i.arr ≤ h.2)) ||
  s.fbs.any fun x => x.2.q2.any fun y =>
    match y.fromPort with
    | some (p, a) => decide (p = h.1) && decide (a ≤ h.2)
    | none => false

/-- Returns the credit of flits taken in at a fabric port (R359). -/
def fbCredit (s : State) (f : Nat) (cls : BitVec 2) (n : Nat) : State := emit s (.fabricCredit f cls n)

/-- A COMPLETE leaves its fabric port, or waits for the visibility holds of what it reports (R235, R245). -/
def sendComplete (s : State) (f : Nat) (tenant : BitVec 6) (holds : List (Nat × Nat)) (b : BodyF) : State :=
  let live := holds.filter (holdForce s)
  if live.isEmpty then fbSend s f [completeFlit tenant b]
  else modFb s f fun x => { x with heldC := x.heldC ++ [{ holds := live, flit := completeFlit tenant b }] }

/-- Splits a message of one class into flits of 50 body bytes with SOM and EOM (R361). -/
def splitFlits (proto : FbFlit) (bytes : List Byte) : List FbFlit :=
  let parts := chunksOf 50 bytes
  parts.zipIdx.map fun x => { proto with body := x.1, som := x.2 = 0, eom := x.2 + 1 = parts.length }

/-! ## Memory and content requests (R65, R75) -/

/-- Lowest free tag of a memory port: reads use 0–1,023, writes 1,024–1,535 (R364). -/
def freeMemTag (s : State) (mp : Nat) (wr : Bool) : Option Nat :=
  ((List.range (if wr then 512 else 1024)).map (fun i => if wr then 1024 + i else i)).find? fun t =>
    decide (smGet .free s.memTags (2048 * mp + t) = .free)

/-- The port of a partition offset (R261). -/
def memPortOf (off : Nat) : Nat := off / 256 % 8

/-- The granules of a range of the partition that a port holds: the first port-local one, and how many (R261, R364). -/
def portRun (off len mp : Nat) : Nat × Nat :=
  let g := off / 256 + (mp + 8 - off / 256 % 8) % 8
  (g / 8, ceilDiv (off + len) 256 / 8 + b2n (decide (mp < ceilDiv (off + len) 256 % 8)) - g / 8)

/-- A request of a run of granules under a tag: at most 8 at a time, and the rest follow once it is answered (R364). (DESIGN CHOICE, log
entry 48) -/
def askPort (s : State) (mp t : Nat) (wr : Bool) (run : Nat × Nat) (who : Issuer) : State :=
  emit { s with memTags := smSet .free s.memTags (2048 * mp + t) (.used who (s.now + 1000 * s.cfg.memtmo)),
                memRest := smSet (0, 0) s.memRest (2048 * mp + t) (if run.2 ≤ 8 then (0, 0) else (run.1 + 8, run.2 - 8)) }
    (.memory mp t wr run.1 (min run.2 8))

/-- A port's share of a transfer; none when the port's bound is reached, or its Brook has no clock (R21, R75). -/
def portIssue (s : State) (off len : Nat) (wr : Bool) (who : Issuer) (mp : Nat) : Option State :=
  let run := portRun off len mp
  if run.2 = 0 then some s
  else if !lockedOn s (32 + mp / 4) then none
  else (freeMemTag s mp wr).map fun t => askPort s mp t wr run who

/-- A transfer of a range of the partition, over every port that holds a part of it (R261); none when one of them stalls the issuer.
(DESIGN CHOICE, log entry 48) -/
def memIssue (s : State) (off len : Nat) (wr : Bool) (who : Issuer) : Option State :=
  (List.range 8).foldl (fun o mp => o.bind fun s => portIssue s off (max 1 len) wr who mp) (some s)

/-- A content-port request under a tag: it never crosses a 4 KiB boundary, and the rest of its transfer follows once it is answered (R366).
(DESIGN CHOICE, log entry 48) -/
def askContent (s : State) (t addr len : Nat) (wr : Bool) (who : Issuer) : State :=
  let n := min len (4096 - addr % 4096)
  emit { s with conTags := smSet .free s.conTags t (.used who (s.now + 1000 * s.cfg.contmo)),
                conRest := smSet (0, 0) s.conRest t (if len ≤ n then (0, 0) else (addr + n, len - n)) }
    (.content t wr (addr / 64) (ceilDiv n 64))

/-- Issues a content-port read (tags 0–255) or write (256–511) (R366). -/
def conIssue (s : State) (addr len : Nat) (wr : Bool) (who : Issuer) : Option State :=
  if !lockedOn s 33 then none
  else (((List.range 256).map fun i => if wr then 256 + i else i).find? fun t =>
      decide (smGet .free s.conTags t = .free)).map fun t => askContent s t addr len wr who

/-! ## Power and placement facts -/

/-- The Heath of a Plot (R31). -/
def heathOf (n : Nat) : Nat :=
  if n < 128 then 2 * (n / 8 % 4) + n % 8 / 4
  else if n < 144 then 2 * ((n - 128) % 4) + (n - 128) / 4 % 2
  else if n < 148 then 2 * (n - 144)
  else if n < 152 then 2 * (n - 148) + 1
  else if n < 156 then 2 * (n - 152)
  else if n = 156 then 1 else if n = 157 then 7 else if n = 158 then 3 else 5

/-- The Rill Plots that are powered: On or Stretched. -/
def rillsOn (s : State) : Nat := ((List.range 128).filter fun n => (plotOf s n).st ≠ .gated).length

/-- An open stream context. -/
def openStreams (s : State) : List (Nat × Stream) := s.streams.filter fun x => x.2.inUse

/-- The io Brook of a stream's lanes: that of its fabric port (R20). -/
def streamBrook (s : State) (c : Nat) : Nat := 24 + (streamOf s c).fbport / 4

/-- The open stream of a port, tenant and STAG (R47). -/
def findStream (s : State) (port tenant : Nat) (stag : W16) : Option (Nat × Stream) :=
  (s.streams.find? fun x =>
    let y := streamOf s x.1
    y.inUse && decide (y.port = port) && decide (y.tenant = tenant) && decide (y.stag = stag)).map
      fun x => (x.1, streamOf s x.1)

end Sys2Proof.Machine
end

