-- ==== Sys2Proof/Machine/Ford.lean ====
section
/-! DEFINITION. Fords, the FIFOs between Brooks (R23 to R28): which crossings there are, how deep their lanes are, when a Ford is held in
reset, and the lanes into the Hub, which are the ones that hold entries between steps.  Every step is whole, so an entry stands in a Ford
between steps only while its reader stalls, and the reader that can stall is the Hub, which waits for buffers of its pool (R70).  Each
link port and each fabric port has its own path into the Hub. (DEDUCED, log entry 86) -/

namespace Sys2Proof.Machine

/-- The kinds of Brook (R20). -/
inductive BrookKind where
  | compute | link | io | fen | memory | hub | hayward
  deriving DecidableEq, Repr

/-- The kind of Brook `b` (R20). -/
def brookKind (b : Nat) : BrookKind :=
  if b < 16 then .compute else if b < 24 then .link else if b < 28 then .io else if b < 32 then .fen
  else if b < 34 then .memory else if b = 34 then .hub else .hayward

/-- Entries of the standard lane between a Brook and the Hub, either way (R27). -/
def fordDepth : BrookKind → Nat
  | .memory => 32
  | .hayward => 8
  | _ => 16

/-- Bytes of a Ford entry (R27): one flit. -/
def fordWidth : Nat := 64

/-- The crossings with a class-0 lane lead to link and io Brooks (R27). -/
def fordClass0 (k : BrookKind) : Bool := decide (k = .link) || decide (k = .io)

/-- Entries of the class-0 lane between a Brook and the Hub, either way; none where the crossing has no such lane (R24, R27). -/
def class0Depth (k : BrookKind) : Nat := if fordClass0 k then 4 else 0

/-- Entries of a Ford that fill one buffer of 256 bytes (R27, R69). -/
def flitsPerBuf : Nat := 256 / fordWidth

/-- A writer's entries go in while the lane has room (R23): `room` flits more, in order, from the items of a lane. -/
def laneFill : Nat → List RxItem → List RxItem
  | _, [] => []
  | room, i :: r =>
    let n := min room (i.flits - flitsPerBuf * i.bufs - i.ford)
    { i with ford := i.ford + n } :: laneFill (room - n) r

/-- A standard lane filled as far as its depth goes (R23, R27). -/
def fordFill (depth : Nat) (q : List RxItem) : List RxItem := laneFill (depth - (q.map (·.ford)).sum) q

/-- The item at the head of a lane: the first that is not yet stored in the pool. -/
def laneHead (q : List RxItem) : Option RxItem := q.find? fun i => !i.stored

/-- The reader sees the lane's head: some of it stands in the Ford (R23: an empty Ford idles its reader). -/
def laneReady (q : List RxItem) : Bool := match laneHead q with | some i => decide (0 < i.ford) | none => false

/-- The Hub takes up to four flits of the head into one more buffer (256 bytes, R70). -/
def takeBuf (i : RxItem) : RxItem :=
  { i with bufs := i.bufs + 1, ford := i.ford - flitsPerBuf, stored := decide (i.flits ≤ flitsPerBuf * (i.bufs + 1)) }

/-- Takes a buffer for the head of a lane, and refills the lane. -/
def laneTake (depth : Nat) (q : List RxItem) : List RxItem :=
  match q.findIdx? fun i => !i.stored with
  | some n => fordFill depth (updAt q n takeBuf)
  | none => q

/-- The Brook of a Hub input: link ports are inputs 0–63, fabric ports 64–79. -/
def inputBrook (g : Nat) : Nat := if g < 64 then 16 + g / 8 else 24 + (g - 64) / 4

/-- The link port's lane into the Hub takes what it can (R23); a Ford held in reset is full to its writer (R28). -/
def fillPort (s : State) (p : Nat) : State :=
  if fordOpen s (inputBrook p) then modPort s p fun x => { x with rxq := fordFill (fordDepth .link) x.rxq } else s

/-- The fabric port's lane into the Hub takes what it can. -/
def fillFb (s : State) (f : Nat) : State :=
  if fordOpen s (inputBrook (64 + f)) then modFb s f fun x => { x with rxw := fordFill (fordDepth .io) x.rxw } else s

/-- Class-0 flits of an input that wait for a reserve buffer. -/
def waitsAt (l : List Reserve) (g : Nat) : List Reserve := l.filter fun w => decide (w.ingress = g) && !w.buffered

/-- Entries of an input's class-0 lane that are free but for the flits that wait: the lane less the operations that the Hub has not
taken, and none while the Ford is held in reset (R24, R28). -/
def c0Room (s : State) (g : Nat) : Nat :=
  if fordOpen s (inputBrook g) then class0Depth (brookKind (inputBrook g)) - (if g < 64 then (portOf s g).hubOps.length else 0) else 0

/-- Class-0 flits enter the lanes of their inputs as far as there is room (R24), those before `pre` first. -/
def c0Fill (room : Nat → Nat) : List Reserve → List Reserve → List Reserve
  | _, [] => []
  | pre, w :: r =>
    { w with inFord := w.inFord || (!w.buffered && decide ((waitsAt pre w.ingress).length < room w.ingress)) } ::
      c0Fill room (w :: pre) r

/-- The class-0 lanes take what they can. -/
def fillC0 (s : State) : State := { s with c0wait := c0Fill (c0Room s) [] s.c0wait }

/-- A class-0 flit waits at the Hub: at the end of the class-0 lane of its input, or behind it. -/
def waitC0 (s : State) (w : Reserve) : State := fillC0 { s with c0wait := s.c0wait ++ [w] }

/-- The flit at the head of an input's class-0 lane, by its place in the list. -/
def c0Head (s : State) (g : Nat) : Option Nat := s.c0wait.findIdx? fun w => decide (w.ingress = g) && !w.buffered

/-- Returns credit to the partner of a link port (0–63) or to the fabric (64–79) (R55, R359). -/
def creditBack (s : State) (ingress cls n : Nat) : State :=
  if ingress < 64 then returnCredit s ingress cls n else fbCredit s (ingress - 64) (BitVec.ofNat 2 cls) n

/-- The Hub's class-0 lane from an input takes one more operation at once: nothing waits in front of it, and the lane has room (R24). -/
def hubTakes (s : State) (g : Nat) : Bool := (waitsAt s.c0wait g).isEmpty && decide (0 < c0Room s g)

/-- Operations for the Hub that have come to the head of an input's waiting flits enter its class-0 lane while that has room. -/
def c0Flow : Nat → State → Nat → State
  | 0, s, _ => s
  | n + 1, s, g =>
    match c0Head s g with
    | none => s
    | some i =>
      match s.c0wait[i]? with
      | none => s
      | some w =>
        if w.egress ≠ 80 ∨ c0Room s g = 0 then s
        else c0Flow n (creditBack (modPort { s with c0wait := s.c0wait.eraseIdx i } g fun x =>
          { x with hubOps := x.hubOps ++ [(w.arr, w.frame)] }) g 0 1) g

/-- After class-0 flits have left their lanes: operations for the Hub move up, and the lanes are filled again. -/
def settleC0 (s : State) : State :=
  fillC0 ((List.range 80).foldl (fun s g => c0Flow s.c0wait.length s g) s)

/-- A link port's frame takes its place behind those that wait in its lane. -/
def waitPort (s : State) (p : Nat) (i : RxItem) : State :=
  fillPort (modPort s p fun x => { x with rxq := x.rxq ++ [i] }) p

/-- A fabric port's message takes its place behind those that wait in its lane. -/
def waitFb (s : State) (f : Nat) (i : RxItem) : State :=
  fillFb (modFb s f fun x => { x with rxw := x.rxw ++ [i] }) f

end Sys2Proof.Machine
end

