-- ==== Sys2Proof/Machine/Searches.lean ====
section
/-! DEFINITION. The queues of the Fen pipelines (R155): which searches of a stream are issued when, and how results come back to the Hub
through the Fords of the Fen Brooks (R23, R27). -/

namespace Sys2Proof.Machine

/-! ## Pipelines -/

/-- The pipeline that serves a bank mask (R150). -/
def pipeOf (m : W16) : Nat := bmA m / 4

/-- A pipeline's queue (R155). -/
def pipeQ (s : State) (pl : Nat) : List Search := smGet [] s.fenQ pl
/-- The Hub's Ford to a pipeline's Fen Brook is open, and the pipeline has room for one more search (R28, R155). (DEDUCED, log entry 76) -/
def pipeRoom (s : State) (m : W16) : Bool :=
  fordOpen s (28 + pipeOf m / 4) && decide ((pipeQ s (pipeOf m)).length < 512)
/-- Queues a search in its pipeline (R155). -/
def pushSearch (s : State) (m : W16) (q : Search) : State :=
  { s with fenQ := smSet [] s.fenQ (pipeOf m) (pipeQ s (pipeOf m) ++ [q]) }

/-! ## Searches for tokens (R144, R150, R155) -/

/-- Both count searches of a stream go to one pipeline. -/
def onePipe (x : Stream) : Bool := bmEn x.maskN && bmEn x.maskH && decide (pipeOf x.maskN = pipeOf x.maskH)

/-- The next search of a key type is issued now: a token waits for it, its pipeline has room, and an earlier search that the same
pipeline holds does not go before it (R144, R155). -/
def mayIssue (s : State) (x : Stream) (hashed : Bool) : Bool :=
  let m := if hashed then x.maskH else x.maskN
  decide ((if hashed then x.issuedH else x.issued) < x.tokens.length) && (!bmEn m || pipeRoom s m) &&
    (!onePipe x || (if hashed then decide (x.issuedH < x.issued) else decide (x.issued = x.issuedH)))

/-- Issues the next search of a key type; one whose bank mask is not enabled is passed over (R150). -/
def issueOne (s : State) (c : Nat) (hashed : Bool) : State :=
  let x := streamOf s c
  if hashed then
    let s := setStream s c { x with issuedH := x.issuedH + 1 }
    if bmEn x.maskH then pushSearch s x.maskH (.count c x.issuedH true (hashedKey x.tenant x.vocab x.tokens x.issuedH) x.maskH) else s
  else
    let s := setStream s c { x with issued := x.issued + 1 }
    if bmEn x.maskN then pushSearch s x.maskN (.count c x.issued false (ngramKey x.tenant x.vocab x.tokens x.issued) x.maskN) else s

/-- Issues searches in token order, the n-gram search of a token first, while the pipelines have room, with fuel; what a full queue does
not take is held for that pipeline (R144, R155). (DEDUCED, log entry 76) -/
def issueFuel : Nat → State → Nat → State
  | 0, s, _ => s
  | n + 1, s, c =>
    let x := streamOf s c
    let g := mayIssue s x false
    let h := mayIssue s x true
    if g && (decide (x.issued ≤ x.issuedH) || !h) then issueFuel n (issueOne s c false) c
    else if h then issueFuel n (issueOne s c true) c
    else s

/-- Tokens whose searches have all been issued. -/
def issuedToks (x : Stream) : Nat := min x.issued x.issuedH

/-- Issues what can be issued for a stream. -/
def issueSearches (s : State) (c : Nat) : State :=
  issueFuel (2 * ((streamOf s c).tokens.length - issuedToks (streamOf s c))) s c

/-- An intake lane stalls while a search of its tokens is held (R155). -/
def laneStalled (s : State) (lane : Nat) : Bool :=
  s.streams.any fun x => x.2.inUse && decide (x.2.inlane = lane) && decide (issuedToks x.2 < x.2.tokens.length)

/-- Issues what can be issued for every open stream: the room that a queue has gained lets the searches in that are held for it (R155). -/
def issueAll (s : State) : State := (openStreams s).foldl (fun s x => issueSearches s x.1) s

/-! ## Results -/

/-- Results in the Ford from Fen Brook `b` to the Hub. -/
def fenLane (s : State) (b : Nat) : List (Nat × FenResult) := s.fenRes.filter fun r => decide (28 + r.1 / 4 = b)

/-- The Ford from a pipeline's Brook to the Hub takes one more result: it is open, and its lane is not full (R23, R27, R28). (DEDUCED, log
entry 86) -/
def resultRoom (s : State) (pl : Nat) : Bool :=
  fordOpen s (28 + pl / 4) && decide ((fenLane s (28 + pl / 4)).length < fordDepth .fen)

/-- A pipeline gives a result to the Ford. -/
def pushResult (s : State) (pl : Nat) (r : FenResult) : State := { s with fenRes := s.fenRes ++ [(pl, r)] }

/-- The result in place `i` is of the kind that is asked for and stands at the head of its Ford, which is open (R24, R28). -/
def resultReady (s : State) (want : FenResult → Bool) (i : Nat) : Bool :=
  match s.fenRes[i]? with
  | some (pl, r) => want r && fordOpen s (28 + pl / 4) && !((s.fenRes.take i).any fun q => decide (q.1 / 4 = pl / 4))
  | none => false

/-- The oldest result of a kind that the Hub can take, and the state without it. -/
def takeResult (s : State) (want : FenResult → Bool) : Option (FenResult × State) :=
  match firstNat s.fenRes.length (resultReady s want) with
  | some i => (s.fenRes[i]?).map fun r => (r.2, { s with fenRes := s.fenRes.eraseIdx i })
  | none => none

/-- A first-match result. -/
def isFirst : FenResult → Bool
  | .first _ _ => true
  | .count _ _ _ _ => false

end Sys2Proof.Machine
end

