-- ==== Sys2Proof/Machine/WeirOps.lean ====
section
/-! DEFINITION. What Weir and Sluice operations share: ownership (R229, R230), the waiter table (R231), COMPLETE (R235),
the wake rule (R237), Sluice completion (R240), link tags (R246), reinitialisation (R250). -/

namespace Sys2Proof.Machine

/-! ## Owners -/

/-- The sum of a share over the tenants below `t` (R229). -/
def shareBase (s : State) (share : TenCfg → Nat) (t : Nat) : Nat :=
  ((List.range t).map fun u => share (tenOf s u)).sum

/-- The owner of object `i` when tenants own consecutive ranges in tenant order (R229). -/
def ownerOf (s : State) (share : TenCfg → Nat) (i : Nat) : Option Nat :=
  firstNat 64 fun t => decide (shareBase s share t ≤ i) && decide (i < shareBase s share t + share (tenOf s t))

def weirOwner (s : State) (w : Nat) : Option Nat := ownerOf s (·.weirs) w
def sluiceOwner (s : State) (i : Nat) : Option Nat := ownerOf s (·.sluices) i
/-- The engine carries out an operation only for the owner's tenant (R230). -/
def ownsWeir (s : State) (t : BitVec 6) (w : Nat) : Bool := decide (weirOwner s w = some t.toNat)
def ownsSluice (s : State) (t : BitVec 6) (i : Nat) : Bool := decide (sluiceOwner s i = some t.toNat)

/-! ## The waiter table -/

/-- Entries of the waiter table that tenant `t` holds (R231). -/
def waitersOf (s : State) (t : Nat) : Nat :=
  ((s.weirs.map fun x => (x.2.queue.filter fun w => w.tenant.toNat = t).length).sum) +
  ((s.sluices.map fun x => ((x.2.before ++ x.2.waiters).filter fun w => w.tenant.toNat = t).length +
      (match x.2.arrival with | some a => if a.tenant.toNat = t then 1 else 0 | none => 0)).sum)

/-- The entries that tenant `t` can hold (R231). -/
def waiterLimit (s : State) (t : Nat) : Nat := 8192 * ((tenOf s t).weirs + (tenOf s t).sluices) / 16640

/-- A further waiter of the tenant fits (R231). -/
def waiterRoom (s : State) (t : BitVec 6) : Bool := decide (waitersOf s t.toNat < waiterLimit s t.toNat)

/-- A deadline of TMO µs from now, TMO clamped to at least 8 µs (R63, R241). -/
def deadlineOf (s : State) (tmo : BitVec 20) : Nat := s.now + 1000 * max 8 tmo.toNat

/-! ## COMPLETE -/

/-- The COMPLETE of an operation that a body asked for (R235). -/
def answer (s : State) (fb : Nat) (tenant : BitVec 6) (op : OpBody) (opc : Byte) (holds : List (Nat × Nat))
    (status : W16) (n : W32) (mask : W64) : State :=
  sendComplete s fb tenant holds
    { obj := opObj op, tag := opTag op, agent := opAgent op, status := status, opc := opc, n := n, mask := mask,
      sigseq := 0, gen := 0, rip := false }

/-- The COMPLETE of a waiter; GEN is no field of a COMPLETE, so it is zero (R234). -/
def answerWaiter (s : State) (obj : Nat) (holds : List (Nat × Nat)) (w : Waiter) (status : W16) (rip : Bool)
    (n : W32) (mask : W64) : State :=
  sendComplete s w.fb w.tenant holds
    { obj := BitVec.ofNat 14 obj, tag := w.tag, agent := w.agent, status := status, rip := rip, opc := w.opc,
      n := n, mask := mask }

/-! ## The wake rule -/

/-- Which waiters a value wakes, from the head on, each with the value after its own subtraction (R237). -/
def wakeQueue (v : W32) : List Waiter → List (Waiter × W32) × List Waiter × W32
  | [] => ([], [], v)
  | w :: r =>
    if w.n.toNat ≤ v.toNat then
      let (a, q, v') := wakeQueue (v - w.n) r
      ((w, v - w.n) :: a, q, v')
    else ([], w :: r, v)

/-- Runs the wake rule on a Weir (R237). -/
def wake (s : State) (w : Nat) : State :=
  let x := weirOf s w
  let (woken, q, v) := wakeQueue x.val x.queue
  woken.foldl (fun s y => answerWaiter s w x.holds y.1 0 false y.2 0)
    (setWeir s w { x with val := v, queue := q })

/-- Sets a Weir's value for a signaller and keeps it as the last signaller (R254). -/
def setVal (s : State) (w : Nat) (v : W32) (sig : LastSig) : State :=
  setWeir s w { weirOf s w with val := v, last := sig }

/-- The value plus N would pass 0xFFFF_FFFF (R236). -/
def overflows (s : State) (w : Nat) (n : W32) : Bool := decide (0xFFFFFFFF < (weirOf s w).val.toNat + n.toNat)

/-- Adds N to a Weir and runs the wake rule (R236, R237); the caller has tested for overflow. -/
def raiseWeir (s : State) (w : Nat) (n : W32) (sig : LastSig) : State :=
  wake (setVal s w ((weirOf s w).val + n) sig) w

/-- Reinitialises a Weir (R250). (DEDUCED, log entry 19) -/
def reinitWeir (s : State) (w : Nat) : State :=
  let x := weirOf s w
  x.queue.foldl (fun s y => answerWaiter s w [] y stWOwnerLost false 0 0) (setWeir s w {})

/-! ## Sluices -/

/-- Every waiter of a Sluice's generation, the local arrival among them, in the order in which they came (R240, R254). -/
def sluiceWaiters (x : Sluice) : List Waiter := x.before ++ x.arrival.toList ++ x.waiters

/-- The Sluice after its generation has ended: G + 1 becomes current (R240). -/
def advance (x : Sluice) : Sluice :=
  { x with gen := x.gen + 1, cur := x.nxt, nxt := {}, arrival := none, before := [], waiters := [] }

/-- Completes a Sluice's generation for every waiter, in any way, and advances it (R240). -/
def sluiceFinish (s : State) (i : Nat) (status : W16) (rip : Bool) (mask : W64) : State :=
  let x := sluiceOf s i
  (sluiceWaiters x).foldl (fun s w => answerWaiter s i x.holds w status rip 0 mask) (setSluice s i (advance x))

/-- The arrived set of G equals its mask. -/
def sluiceFull (x : Sluice) : Bool := x.cur.mask = some x.cur.arrived

/-- Completes a Sluice in progress whose arrived set equals its mask (R240). -/
def sluiceCheck (s : State) (i : Nat) : State :=
  let x := sluiceOf s i
  if x.arrival.isSome && sluiceFull x then sluiceFinish s i 0 false x.cur.arrived else s

/-- Sluices in progress (R240). -/
def sluicesInProgress (s : State) : Nat := (s.sluices.filter fun x => x.2.arrival.isSome).length

/-- Reinitialises a Sluice (R250). (DEDUCED, log entry 19) -/
def reinitSluice (s : State) (i : Nat) : State :=
  let x := sluiceOf s i
  (sluiceWaiters x).foldl (fun s w => answerWaiter s i [] w stWOwnerLost false 0 0) (setSluice s i {})

/-! ## Link tags and remote signals -/

def linkTagOf (s : State) (t : Nat) : LinkTag := smGet .free s.linkTags t
def setLinkTag (s : State) (t : Nat) (x : LinkTag) : State := { s with linkTags := smSet .free s.linkTags t x }

/-- The lowest free link tag (R246). -/
def freeLinkTag (s : State) : Option Nat := firstNat 1024 fun t => decide (linkTagOf s t = .free)

/-- Completes the agent operation of a link tag with a status, and sets the tag as given (R246). -/
def finishTag (s : State) (t : Nat) (status : W16) (rip : Bool) (after : LinkTag) : State :=
  match linkTagOf s t with
  | .used agent tag fb tenant opc obj _ sigseq _ =>
    sendComplete (setLinkTag s t after) fb tenant []
      { obj := obj, tag := tag, agent := agent, status := status, rip := rip, opc := opc, sigseq := sigseq }
  | _ => s

/-- The members named by a mask that are not current members (R240). (DEDUCED, log entry 78) -/
def notMembers (s : State) (mask : W64) : W64 := mask &&& ~~~(s.view.members &&& ~~~s.view.susp)

/-- The mask with one member. -/
def oneBit (m : Nat) : W64 := 1#64 <<< m

/-- The other members of a mask to which this engine has no route (R240, R347). -/
def noRoutes (s : State) (mask : W64) : W64 :=
  (List.range 64).foldl (fun a m =>
    if mask.getLsbD m && decide (m ≠ s.cfg.memberid.toNat) && (routeTo s m).isNone then a ||| oneBit m else a) 0

/-- A frame of the Weir layer toward a member (R233, R243). -/
def weirFrame (s : State) (m : Nat) (tenant : BitVec 6) (code : Byte) (fence : Bool) (b : BodyF) (o : Origin) :
    Frame :=
  { cls := 0, fence := fence, src := s.cfg.memberid, dst := BitVec.ofNat 6 m, tenant := tenant, epoch := s.view.epoch,
    csf := code.setWidth 16, payload := encodeBody b, origin := o }

/-- The members without a route to which the LINK_ARRIVE of this generation has not gone out (R388): it is held for a route change, or
stands behind class-2 messages of its fabric port. -/
def unreached (s : State) (i : Nat) (g : W16) : W64 :=
  (List.range 64).foldl (fun a m =>
    if (routeTo s m).isNone && ((smGet [] s.routeHold m).any (fun f => decide (f.origin = .arrive i g)) ||
        s.fbs.any fun x => x.2.rxw.any fun i' => decide (i'.frame.origin = .arrive i g) && decide (i'.frame.dst.toNat = m))
      then a ||| oneBit m else a) 0

/-- What becomes of a Weir-layer frame without a route after acceptance (R388), or of one that a lost port discards
(R61, R246). (DEDUCED, log entry 19) -/
def weirFrameLost (s : State) (o : Origin) (status : W16) (m : Nat) : State :=
  match o with
  | .signal t => finishTag s t status false .free
  | .arrive i g =>
    let x := sluiceOf s i
    if x.gen = g ∧ x.arrival.isSome then sluiceFinish s i status false (unreached s i g ||| oneBit m) else s
  | _ => s

/-- The frame was sent on its port by the route of its destination: every frame but one toward a client. -/
def routed (f : Frame) : Bool :=
  match f.origin with
  | .stream _ => false
  | _ => true

/-- Frames toward a member that were given to a port and are not yet acknowledged (R244). (DEDUCED, log entry 82) -/
def unackedTo (p : Port) (m : Nat) : Bool :=
  p.replay.any (fun x => routed x.frame && decide (x.frame.dst.toNat = m)) ||
  p.txq.any (fun f => routed f && decide (f.dst.toNat = m))

/-- No port but that of the present route holds an unacknowledged frame toward a member; a port that has failed holds none (R61,
R244).  Without a route nothing is waited for. (DEDUCED, log entry 82) -/
def oldRouteClear (s : State) (m : Nat) : Bool :=
  match routeTo s m with
  | none => true
  | some p => !(s.ports.any fun x => decide (x.1 ≠ p) && keepsRoute s x.1 && unackedTo x.2 m)

/-- Queues a fenced frame toward a member, holding it across a route change (R244); one without a route is discarded, counted and
logged (R50, R388). (DEDUCED, log entry 82) -/
def sendFenced (s : State) (m : Nat) (f : Frame) : State :=
  let h := smGet [] s.routeHold m
  if !h.isEmpty then { s with routeHold := smSet [] s.routeHold m (h ++ [f]) }
  else
    match routeTo s m with
    | none => weirFrameLost (note (count (freeC0 s f.c0) .noRoute m) stNoRoute skMember m [0, m]) f.origin stNoRoute m
    | some p => if oldRouteClear s m then offer s p f else { s with routeHold := smSet [] s.routeHold m [f] }

/-- Queues a signal or an arrival from a fabric port behind every class-2 message toward the same member that entered the port before it
(R243): one such message still waits in the port's lane, so the frame waits behind it, without a flit of its own there. -/
def sendBehind (s : State) (fb m : Nat) (f : Frame) : State :=
  if (fbOf s fb).rxw.any fun i => decide (i.frame.dst.toNat = m) then
    modFb s fb fun x => { x with rxw := x.rxw ++ [{ frame := f }] }
  else sendFenced s m f

/-- Queues an unfenced answer toward a member; with no route it is discarded, counted and logged (R388). -/
def sendReply (s : State) (m : Nat) (via : Nat) (f : Frame) : State :=
  match routeTo s m with
  | some p => offer s p f
  | none => note (telInc s (telLnk via 13)) stNoRoute skMember m [0, m]

end Sys2Proof.Machine
end

