-- ==== Sys2Proof/Machine/StreamOps.lean ====
section
/-! DEFINITION. What class-1 streams share: verdict records and who gets them (R87 to R91), answer text toward the client,
deadlines (R104), the end of a stream (R99, R102, R133), and the sets and objects a stream uses (R110, R119, R211). -/

namespace Sys2Proof.Machine

/-! ## Frames and records toward the client -/

/-- A class-1 frame toward the client of a stream, of text or of records (R91). -/
def clientFrame (s : State) (c : Nat) (dst : BitVec 6) (stag : W16) (tenant : Nat) (records eos : Bool)
    (payload : List Byte) : Frame :=
  { cls := 1, eos := eos, src := s.cfg.memberid, dst := dst, tenant := BitVec.ofNat 6 tenant,
    c1kind := if records then 1 else 0, epoch := s.view.epoch, csf := stag, payload := payload, origin := .stream c }

/-- Sends records in whole-record frames, EOS on the last (R91). -/
def sendRecsTo (s : State) (c port : Nat) (dst : BitVec 6) (stag : W16) (tenant : Nat) (recs : List VRecord)
    (eos : Bool) : State :=
  let parts := chunksOf 128 recs
  parts.zipIdx.foldl (fun s x => offer s port
    (clientFrame s c dst stag tenant true (eos && decide (x.2 + 1 = parts.length)) (x.1.flatMap encodeRecord))) s

/-- A record of a stream with its identity filled in (R87). -/
def recOf (x : Stream) (vkind stage : BitVec 4) (policy : W16) : VRecord :=
  { vkind := vkind, stage := stage, policy := policy, stag := x.stag, tenant := BitVec.ofNat 6 x.tenant,
    vocab := BitVec.ofNat 4 x.vocab, reqid := x.reqid }

/-- Records to the client of a stream, and with DUP set to every duplicate that joined it (R106). -/
def sendRecs (s : State) (c : Nat) (recs : List VRecord) (eos : Bool) : State :=
  let x := streamOf s c
  let s := sendRecsTo s c x.port x.src x.stag x.tenant recs eos
  x.dups.foldl (fun s d =>
    sendRecsTo s c d.port d.src d.stag x.tenant (recs.map fun r => { r with dup := true, stag := d.stag }) eos) s

/-- Released answer text to the client and to every duplicate (R90, R106). -/
def sendText (s : State) (c : Nat) (text : List Byte) : State :=
  let x := streamOf s c
  let send (s : State) (port : Nat) (dst : BitVec 6) (stag : W16) : State :=
    (chunksOf 4096 text).foldl (fun s b => offer s port (clientFrame s c dst stag x.tenant false false b)) s
  x.dups.foldl (fun s d => send s d.port d.src d.stag) (send s x.port x.src x.stag)

/-- A verdict record to the fabric (R361). -/
def recFlit (x : Stream) (r : VRecord) : FbFlit :=
  { fclass := 1, fkind := 1, tenant := BitVec.ofNat 6 x.tenant, csf := x.stag, lport := BitVec.ofNat 6 x.port,
    body := encodeRecord r }

/-- Prompt token IDs to the fabric, up to 12 in a flit (R361). -/
def tokenFlits (x : Stream) (ids : List Nat) : List FbFlit :=
  (chunksOf 12 ids).map fun l =>
    { fclass := 1, fkind := 0, tenant := BitVec.ofNat 6 x.tenant, csf := x.stag, lport := BitVec.ofNat 6 x.port,
      body := l.flatMap (leBytes 4) }

/-- A mask record to the fabric (R361). -/
def maskFlits (x : Stream) (bytes : List Byte) : List FbFlit :=
  splitFlits { fclass := 1, fkind := 2, tenant := BitVec.ofNat 6 x.tenant, csf := x.stag,
               lport := BitVec.ofNat 6 x.port } bytes

/-! ## Deadlines and hints -/

/-- A stream's deadline starts again at full length (R104). -/
def restartDeadline (s : State) (x : Stream) : Stream :=
  { x with deadline := some (s.now + 1000 * max 50 (tenOf s x.tenant).deadline) }

/-- The time left before a stream's deadline; a suspended deadline counts in full (R103). -/
def timeLeft (s : State) (x : Stream) : Nat :=
  match x.deadline with
  | some d => d - s.now
  | none => 1000 * max 50 (tenOf s x.tenant).deadline

/-- RETRYAFTER for a wait in ns (R87). -/
def retryUnits (ns : Nat) : W16 :=
  if 655350000 ≤ ns then 0xFFFF#16 else BitVec.ofNat 16 (max 5 (ceilDiv ns 10000))

/-- The least number of a list. -/
def least : List Nat → Option Nat
  | [] => none
  | a :: r => match least r with | none => some a | some b => some (min a b)

/-- The effective context quota of a tenant (R96, R335). -/
def ctxQuota (s : State) (t : Nat) : Nat :=
  let r := smGet {} (actTab s).recs t
  if r.minRills = 0 then (tenOf s t).ctxq else min (tenOf s t).ctxq (5 * r.passstr)

/-- The hint of R103 in ns. (DEDUCED, log entry 27) -/
def busyWait (s : State) (t : Nat) : Nat :=
  if ctxQuota s t = 0 ∨ (tenOf s t).kvq < 103 then 655350000
  else
    let mine := (openStreams s).filter fun x => x.2.tenant = t
    max 50000 (((least ((if mine.isEmpty then openStreams s else mine).map fun x => timeLeft s x.2)).getD 0))

/-! ## Objects of a stream -/

/-- The vocabulary of a stream. -/
def vocabOf (s : State) (x : Stream) : Vocab :=
  match (objOf s x.vocabObj).content with
  | .vocab v => v
  | _ => {}

/-- The grammar of a stream. -/
def grammarOf (s : State) (x : Stream) : Grammar :=
  match x.gramObj with
  | some o => match (objOf s o).content with | .grammar g => g | _ => {}
  | none => {}

/-- The table a stream uses (R287). -/
def streamTab (s : State) (x : Stream) : SetTab := if x.tab then s.tabB else s.tabA

/-- The classifier-set record a stream uses (R282, R287). -/
def recOfStream (s : State) (x : Stream) : SetRec := smGet {} (streamTab s x).recs x.tenant

/-- The object is at home or moving, not Lost and not free. -/
def usable (s : State) (o : Nat) : Bool := decide ((objOf s o).state = .home) || decide ((objOf s o).state = .moving)

/-- An object is usable, lies in one of these tiers, and no move takes it out of them: a stream that opened while such a move runs would
have to read it elsewhere (R260). (DESIGN CHOICE, log entry 92) -/
def staysIn (s : State) (o : Nat) (tiers : List Tier) : Bool :=
  usable s o && tiers.contains (objOf s o).home.tier && (objOf s o).move.all fun m => tiers.contains m.dest.tier

/-- The vocabulary in a slot of the active set, when resident (R119). -/
def residentVocab (s : State) (slot : Nat) : Option Nat :=
  let o := smGet 0 (actTab s).vocabs slot
  if o ≠ 0 ∧ staysIn s (o - 1) [.near] then some (o - 1) else none

/-- The grammar in a slot of the active set, when resident (R211). -/
def residentGrammar (s : State) (slot : Nat) : Option Nat :=
  let o := smGet 0 (actTab s).grams slot
  if o ≠ 0 ∧ staysIn s (o - 1) [.near, .far] then some (o - 1) else none

/-- The objects a set record names. -/
def recObjs (r : SetRec) : List Nat := [r.win, r.sum, r.fst, r.deep, r.seed, r.obj]

/-- The objects that an open stream uses (R151, R270, R287): its tenant's Fen entry sets among them. -/
def streamObjs (s : State) (x : Stream) : List Nat :=
  x.vocabObj :: (x.gramObj.toList ++ recObjs (recOfStream s x) ++
    ((List.range 4).map fun k => smGet 0 (streamTab s x).fens (4 * x.tenant + k)).filterMap fun o => if o = 0 then none else some (o - 1))

/-- An estimate table is in use and in a set where its classifier is (R208). -/
def objKey (s : State) (o : Nat) : Nat := match (objOf s o).content with | .estTable c => c | _ => o

/-- USERS of an object (R270). -/
def usersOf (s : State) (i : Nat) : Nat :=
  let o := objKey s i
  ((openStreams s).filter fun x => (streamObjs s x.2).contains o).length

/-- The object IDs that a set table names. -/
def tabObjs (t : SetTab) : List Nat :=
  (t.vocabs.map fun x => x.2 - 1) ++ (t.grams.map fun x => x.2 - 1) ++ (t.fens.map fun x => x.2 - 1) ++
    t.recs.flatMap fun x => recObjs x.2

/-- SETS of an object (R270). -/
def setsOf (s : State) (i : Nat) : Nat :=
  let o := objKey s i
  b2n ((tabObjs (actTab s)).contains o) + 2 * b2n ((tabObjs (otherTab s)).contains o)

/-! ## Objects that nothing uses any more (R208, R287) -/

/-- Where an object takes space: its home, the destination of its move, and the source not yet freed. -/
def homesOf (o : Obj) : List Home :=
  (if o.state = .free then [] else [o.home]) ++ (o.move.toList.map (·.dest)) ++ o.oldHomes

/-- The homes that lie in a Rill's SRAM. -/
def homeInRill (n : Nat) (h : Home) : Bool := h.tier = .near && !h.pool && decide (h.rill = n)

/-- Space of the Rill is taken by an object, a move toward it, or a source not yet freed. -/
def rillHolds (s : State) (n : Nat) : Bool :=
  s.objs.any fun x => x.2.state ≠ .lost && (homesOf x.2).any (homeInRill n)

/-- A Rill that holds no object any more has its residency flag cleared (R33). -/
def settleResid (s : State) : State :=
  { s with plots := s.plots.map fun x => if x.2.resid && !rillHolds s x.1 then (x.1, { x.2 with resid := false }) else x }

/-- The object IDs of the Fen shadow and of the request-ID cache, which boot creates (R264). (DESIGN CHOICE, log entry 26) -/
def shadowId : Nat := 65536
def cacheId : Nat := 65537

/-- An object that no set table names, no open stream uses and no move holds (R287, R289); an estimate table, once its records are freed
(R208).  The Fen shadow and the request-ID cache stay. -/
def orphan (s : State) (o : Nat) (x : Obj) : Bool :=
  match x.content with
  | .estTable c => !(s.ests.any fun y => decide (y.1 = c))
  | _ => decide (cacheId < o) && x.move.isNone && x.oldHomes.isEmpty && !(tabObjs s.tabA).contains o && !(tabObjs s.tabB).contains o &&
    decide (usersOf s o = 0)

/-- Frees the objects in neither table without users (R287), and the estimate tables of sets that have left the active set
and whose last stream has ended (R208). -/
def freeOrphans (s : State) : State :=
  let s := { s with ests := s.ests.filter fun x => (tabObjs (actTab s)).contains x.1 || decide (usersOf s x.1 ≠ 0) }
  settleResid { s with objs := s.objs.filter fun x => !orphan s x.1 (objOf s x.1) }

/-! ## Ending a stream -/

/-- Takes a stream context out of a job; outputs for it are discarded (R209). -/
def jobWithout (c : Nat) : Job → Job
  | .window x j f => .window (if x = c then 65536 else x) j f
  | .summary x => .summary (if x = c then 65536 else x)
  | .firstStage x p k => .firstStage (if x = c then 65536 else x) p k
  | .deep t k l a z => .deep t k (l.map fun x => if x.1 = c then (65536, x.2) else x) a z

/-- The stream context a queued job or search serves. -/
def jobCtx : Job → Option Nat
  | .window x _ _ => some x
  | .summary x => some x
  | .firstStage x _ _ => some x
  | .deep _ _ _ _ _ => none

def searchOf (c : Nat) : Search → Bool
  | .count x _ _ _ _ => x = c
  | .header _ _ _ _ => false

def resultOf (c : Nat) : FenResult → Bool
  | .count x _ _ _ => x = c
  | .first _ _ => false

/-- A tag's issuer once stream `c` has ended. -/
def tagWithout (c : Nat) : TagState → TagState
  | .used (.kv x) d => .used (if x = c then .nobody else .kv x) d
  | .used (.block x) d => .used (if x = c then .nobody else .block x) d
  | .used (.gram x) d => .used (if x = c then .nobody else .gram x) d
  | t => t

/-- A stream of the fabric port waits for a buffer, for its Eddy or for the IDs that wait for its outflow lane (R101, R109). -/
def portWants (s : State) (f : Nat) : Bool :=
  s.streams.any fun y => y.2.inUse && decide (y.2.fbport = f) && decide (0 < y.2.wantBuf + y.2.backWant)

/-- Returns the class-1 credit of a fabric port once no stream of it waits for a buffer (R101). (DEDUCED, log entry 23) -/
def releaseOwed (s : State) (f : Nat) : State :=
  let x := fbOf s f
  if x.owe1 = 0 || portWants s f then s
  else fbCredit (setFb s f { x with owe1 := 0 }) f 1 x.owe1

/-- Frees everything that a stream context holds (R102, R250); the bytes of its KV cache stay where they are until the wipe (R267); the frames of a truncated prompt are discarded up to EOS still (R74,
R129). (DEDUCED, log entry 80) -/
def freeStream (s : State) (c : Nat) : State :=
  let x := streamOf s c
  let s := { s with
    discards := if x.promptEnd && !x.clientEos then s.discards ++ [(x.port, x.tenant, x.stag)] else s.discards,
    poolUsed := s.poolUsed - x.eddyBufs - x.promptBufs - x.backBufs,
    blocks := smDel c s.blocks,
    jobs := (s.jobs.filter fun j => jobCtx j ≠ some c).map (jobWithout c),
    progs := s.progs.map fun y => (y.1, y.2.map fun p => { p with job := jobWithout c p.job }),
    disp := s.disp.map fun y => (y.1, y.2.map fun p => { p with job := jobWithout c p.job }),
    fenQ := smMap [] (fun l => l.filter fun q => !searchOf c q) s.fenQ,
    fenRes := s.fenRes.filter fun r => !resultOf c r.2,
    memTags := s.memTags.map fun y => (y.1, tagWithout c y.2) }
  let s := setObj (setObj s (2 * c) {}) (2 * c + 1) {}
  let s := issueAll (releaseOwed (freeOrphans (setStream s c {})) x.fbport)
  (s.weirs.filter fun w => (weirOf s w.1).bound = some c).foldl (fun s w => reinitWeir s w.1) s

/-- The request-ID cache with the entry of stream `c` ended (R105). -/
def endEntry (s : State) (c : Nat) (v : Option CachedVerdict) : State :=
  { s with reqs := s.reqs.map fun e =>
      if e.ctx = c ∧ e.ended.isNone then { e with ended := some s.now, verdict := v.getD e.verdict } else e }

/-- The bytes at the front of the Eddy that are released-pending (R99, R100). -/
def releasedPart (x : Stream) : List EddyByte := x.eddy.takeWhile fun b => b.st = .released

/-- The byte after the last released one (R99, R106). -/
def releasedEnd (x : Stream) : Nat := ((releasedPart x).getLast?.map (·.past)).getD x.eddyOff

/-- The released-pending text that a Refuse withdraws, as ranges of the answer text (R99): what its spans cover, or all of it where no
span limits the Refuse. (DEDUCED, log entry 29) -/
def withdrawn (x : Stream) (spans : List Span) : List (Nat × Nat) :=
  let l := releasedPart x
  if spans.isEmpty then (if l.isEmpty then [] else [(x.eddyOff, releasedEnd x)])
  else spans.filterMap fun y =>
    match l.filter fun b => decide (b.at' < y.past) && decide (y.first < b.past) with
    | [] => none
    | b :: r => some (b.at', ((b :: r).getLast?.map (·.past)).getD b.past)

/-- Ends a stream with a status (R99, R102, R107): Retracts with MARKER 0 for released-pending text in the Refuse's spans, then Refuse
with EOS, then everything it holds is freed.  Held and unscreened text is discarded. (DEDUCED, log entry 29) -/
def endSpans (s : State) (c : Nat) (status : W16) (stage : BitVec 4) (policy : W16) (spans : List Span) : State :=
  let x := streamOf s c
  if !x.inUse then s
  else
    let retract : List VRecord := (withdrawn x spans).map fun y =>
      { recOf x vkRetract stage policy with spanStart := y.1, spanEnd := y.2 }
    let refuse : VRecord := { recOf x vkRefuse stage policy with
      status := status, trunc := x.trunc, ooc := x.ooc, capped := x.capped, last := true }
    let s := sendRecs s c (retract ++ [refuse]) true
    let s := if x.fwdIds = 0 then s else fbSend s x.fbport [recFlit x refuse]
    let s := telInc s (telTen x.tenant 6)
    let v : Option CachedVerdict := if x.verdictDone then none
      else some { vkind := vkRefuse, trunc := x.trunc, ooc := x.ooc, capped := x.capped, policy := policy }
    freeStream (endEntry s c v) c

/-- Ends a stream with a status that no span limits. -/
def endStream (s : State) (c : Nat) (status : W16) (stage : BitVec 4) (policy : W16) : State := endSpans s c status stage policy []

/-- Ends a stream with a status that no classifier or Fen match decided: the record carries the admission POLICY (R87). (DEDUCED, log entry 29) -/
def endControl (s : State) (c : Nat) (status : W16) : State :=
  endStream s c status sgControl (streamOf s c).policy

/-- Ends every open stream that a test picks. -/
def endWhere (s : State) (p : Stream → Bool) (status : W16) : State :=
  ((openStreams s).filter fun x => p (streamOf s x.1)).foldl (fun s x => endControl s x.1 status) s

/-! ## Minimum Rills -/

/-- Tenants whose set is below its minimum Rills lose their streams (R36). -/
def enforceMinRills (s : State) : State :=
  endWhere s (fun x => let r := recOfStream s x
    decide (r.minRills ≠ 0) && decide (rillsOn s < r.minRills)) stTooFewRills

end Sys2Proof.Machine
end

