-- ==== Sys2Proof/Machine/Utf8.lean ====
section
/-! DEFINITION. Text: units (R120, R121), chunks (R122), merging (R123, R124) and the hold-back state machine of the
outflow lanes (R132, R133). -/

namespace Sys2Proof.Machine

/-! ## Well-formed sequences (Table 3-7 of the Unicode Standard, R120) -/

/-- The ranges of the bytes that must follow a lead byte; none for a byte that starts no sequence. -/
def followRanges (b : Nat) : Option (List (Nat × Nat)) :=
  if b ≤ 0x7F then some []
  else if 0xC2 ≤ b ∧ b ≤ 0xDF then some [(0x80, 0xBF)]
  else if b = 0xE0 then some [(0xA0, 0xBF), (0x80, 0xBF)]
  else if b = 0xED then some [(0x80, 0x9F), (0x80, 0xBF)]
  else if 0xE1 ≤ b ∧ b ≤ 0xEF then some [(0x80, 0xBF), (0x80, 0xBF)]
  else if b = 0xF0 then some [(0x90, 0xBF), (0x80, 0xBF), (0x80, 0xBF)]
  else if 0xF1 ≤ b ∧ b ≤ 0xF3 then some [(0x80, 0xBF), (0x80, 0xBF), (0x80, 0xBF)]
  else if b = 0xF4 then some [(0x80, 0x8F), (0x80, 0xBF), (0x80, 0xBF)]
  else none

/-- What the bytes after a lead byte make of it. -/
inductive SeqFit where
  | whole | partial' | bad
  deriving DecidableEq, Repr

/-- Whether bytes meet the ranges, run out first, or break them. -/
def fitRanges : List (Nat × Nat) → List Byte → SeqFit
  | [], _ => .whole
  | _ :: _, [] => .partial'
  | (lo, hi) :: r, b :: l => if lo ≤ b.toNat ∧ b.toNat ≤ hi then fitRanges r l else .bad

/-- The next unit of a text (R120).  None when the text so far is only a proper prefix of a well-formed sequence and
more may follow. -/
def nextUnit (final : Bool) : List Byte → Option TextUnit
  | [] => none
  | b :: l =>
    match followRanges b.toNat with
    | none => some { bytes := [b], valid := false }
    | some rs =>
      match fitRanges rs l with
      | .whole => some { bytes := b :: l.take rs.length, valid := true }
      | .partial' => if final then some { bytes := [b], valid := false } else none
      | .bad => some { bytes := [b], valid := false }

/-- The units of a text and the bytes that are left, with fuel (R120). -/
def decodeUnits (final : Bool) : Nat → List Byte → List TextUnit × List Byte
  | 0, l => ([], l)
  | n + 1, l =>
    match nextUnit final l with
    | none => ([], l)
    | some u =>
      let (us, rest) := decodeUnits final n (l.drop u.bytes.length)
      (u :: us, rest)

/-- The units of a text that ends here. -/
def unitsOf (l : List Byte) : List TextUnit := (decodeUnits true l.length l).1

/-- The text without a tail that is a proper prefix of a well-formed sequence (R130). -/
def trimTail (l : List Byte) : List Byte :=
  let (_, rest) := decodeUnits false l.length l
  l.take (l.length - rest.length)

/-! ## Classes and chunks (R116, R122) -/

/-- The code point of a valid unit. -/
def codePoint : List Byte → Nat
  | [a] => a.toNat
  | [a, b] => (a.toNat % 32) * 64 + b.toNat % 64
  | [a, b, c] => (a.toNat % 16) * 4096 + (b.toNat % 64) * 64 + c.toNat % 64
  | [a, b, c, d] => (a.toNat % 8) * 262144 + (b.toNat % 64) * 4096 + (c.toNat % 64) * 64 + d.toNat % 64
  | _ => 0

/-- The class of a unit: 15 when invalid, 0 when no range covers it (R116, R122). -/
def unitClass (v : Vocab) (u : TextUnit) : Nat :=
  if u.valid then
    match v.ranges.find? fun r => decide (r.1 ≤ codePoint u.bytes) && decide (codePoint u.bytes ≤ r.2.1) with
    | some r => r.2.2
    | none => 0
  else 15

/-- A chunk boundary falls between two units (R116). -/
def boundary (v : Vocab) (p q : TextUnit) : Bool := bitAt (v.matrix.getD (unitClass v p) 0) (unitClass v q)

/-- Bytes of a list of units. -/
def unitsLen (us : List TextUnit) : Nat := (us.map fun u => u.bytes.length).sum

/-- A chunk ends before this unit (R122). -/
def endsBefore (v : Vocab) (cur : List TextUnit) (u : TextUnit) : Bool :=
  match cur.getLast? with
  | none => false
  | some p => boundary v p u || decide (64 < unitsLen cur + u.bytes.length)

/-- Adds units to the open chunk at offset `off`; answers the chunks that close, and the open chunk (R122). -/
def addUnits (v : Vocab) (off : Nat) (cur : List TextUnit) : List TextUnit → List Chunk × Nat × List TextUnit
  | [] => ([], off, cur)
  | u :: r =>
    if endsBefore v cur u then
      let (cs, o, c) := addUnits v (off + unitsLen cur) [u] r
      ({ off := off, units := cur } :: cs, o, c)
    else addUnits v off (cur ++ [u]) r

/-! ## Merging (R121 to R124) -/

/-- A symbol of a chunk: its token, whether it is a barrier (R121), and its bytes' number. -/
structure Sym where
  id      : Nat
  barrier : Bool
  len     : Nat
  deriving DecidableEq, Repr

/-- The initial symbols of a chunk (R121, R123). -/
def initialSymbols (v : Vocab) (us : List TextUnit) : List Sym :=
  us.flatMap fun u => u.bytes.map fun b =>
    if u.valid then { id := v.base.getD b.toNat 0, barrier := false, len := 1 }
    else { id := v.fallback.getD b.toNat 0, barrier := true, len := 1 }

/-- pair_lookup of R123: the slot of two symbols, none for a barrier or an absent pair. -/
def pairLookup (v : Vocab) (a b : Sym) : Option PairSlot :=
  if a.barrier || b.barrier then none
  else v.pairs.find? fun p => decide (p.left = a.id) && decide (p.right = b.id)

/-- The symbol that a merge of two symbols gives. -/
def mergedSym (m : PairSlot) (a b : Sym) : Sym := { id := m.result, barrier := false, len := a.len + b.len }

/-- The lowest rank over all neighbouring pairs (R124). -/
def lowestRank (v : Vocab) : List Sym → Option PairSlot
  | a :: b :: r =>
    match pairLookup v a b, lowestRank v (b :: r) with
    | some m, some n => some (if m.rank ≤ n.rank then m else n)
    | some m, none => some m
    | none, o => o
  | _ => none

/-- One wave: every occurrence of the pair of rank `r` from the left, without overlap (R124). -/
def waveApply (v : Vocab) (r : Nat) : Nat → List Sym → List Sym
  | 0, s => s
  | n + 1, a :: b :: t =>
    match pairLookup v a b with
    | some m => if m.rank = r then mergedSym m a b :: waveApply v r n t else a :: waveApply v r n (b :: t)
    | none => a :: waveApply v r n (b :: t)
  | _ + 1, s => s

/-- merge_wave of R124, with fuel: each wave shortens the chunk. -/
def mergeWaves (v : Vocab) : Nat → List Sym → List Sym
  | 0, s => s
  | n + 1, s =>
    match lowestRank v s with
    | none => s
    | some m => mergeWaves v n (waveApply v m.rank s.length s)

/-- The merge of a chunk by waves (R124). -/
def mergeChunk (v : Vocab) (us : List TextUnit) : List Sym :=
  let s := initialSymbols v us
  mergeWaves v s.length s

/-- The leftmost pair of the lowest rank applied once (R123). -/
def refApply (v : Vocab) (r : Nat) : List Sym → List Sym
  | a :: b :: t =>
    match pairLookup v a b with
    | some m => if m.rank = r then mergedSym m a b :: t else a :: refApply v r (b :: t)
    | none => a :: refApply v r (b :: t)
  | s => s

/-- merge_reference of R123, with fuel: each merge shortens the chunk by one. -/
def mergeReference (v : Vocab) : Nat → List Sym → List Sym
  | 0, s => s
  | n + 1, s =>
    match lowestRank v s with
    | none => s
    | some m => mergeReference v n (refApply v m.rank s)

/-- The tokens of merged symbols with their offsets (R128). -/
def tokensOf (off : Nat) : List Sym → List TokRec
  | [] => []
  | a :: r => { id := a.id, fb := a.barrier, off := off } :: tokensOf (off + a.len) r

/-! ## The hold-back state machine (R132, R133) -/

/-- EF BF BD, which is U+FFFD. -/
def fffd : List Byte := [0xEF, 0xBF, 0xBD]

/-- A byte taken in state Ready (R132). -/
def readyByte (b : Byte) : HoldBack × List Byte :=
  match followRanges b.toNat with
  | none => ({}, fffd)
  | some [] => ({}, [b])
  | some ((lo, hi) :: r) => ({ bytes := [b], need := r.length + 1, lo := lo, hi := hi }, [])

/-- One byte through the state machine: the next state and what is emitted (R132). -/
def holdByte (h : HoldBack) (b : Byte) : HoldBack × List Byte :=
  if h.need = 0 then readyByte b
  else if h.lo ≤ b.toNat ∧ b.toNat ≤ h.hi then
    if h.need = 1 then ({}, h.bytes ++ [b])
    else ({ bytes := h.bytes ++ [b], need := h.need - 1, lo := 0x80, hi := 0xBF }, [])
  else
    let (h', e) := readyByte b
    (h', fffd ++ e)

/-- A token's bytes through the state machine (R131). -/
def holdBytes (h : HoldBack) : List Byte → HoldBack × List Byte
  | [] => (h, [])
  | b :: r =>
    let (h1, e1) := holdByte h b
    let (h2, e2) := holdBytes h1 r
    (h2, e1 ++ e2)

/-- EOSTOK: one U+FFFD for held bytes (R133). -/
def holdEnd (h : HoldBack) : List Byte := if h.need = 0 then [] else fffd

end Sys2Proof.Machine
end

