-- ==== Sys2Proof/Machine/PromptOps.lean ====
section
/-! DEFINITION. Prompt bytes as client frames bring them: the intake rate contract (R98, R333), the request limit (R129,
R130), and what becomes of a class-1 frame without SOS (R73, R74). -/

namespace Sys2Proof.Machine

/-- The bucket of a tenant as it stands now, in thousandths of a byte (R333): BURST KiB, refilled at RATE MB/s. -/
def bucketNow (s : State) (t : Nat) : Nat :=
  let c := tenOf s t
  let b := smGet {} s.buckets t
  min (c.burst * 1024 * 1000) (b.level + c.rate * (s.now - b.at'))

/-- Prompt bytes take their share of the bucket; answers how many of them were within the contract (R98). -/
def takeBytes (s : State) (t n : Nat) : State × Nat :=
  let have' := bucketNow s t
  let got := min n (have' / 1000)
  ({ s with buckets := smSet {} s.buckets t { level := have' - 1000 * got, at' := s.now } }, got)

/-- The request limit of a tenant (R129). -/
def reqLimit (s : State) (t : Nat) : Nat := (tenOf s t).reqlim

/-- The bytes of one frame as segments: those that arrived within the contract, then the others; its buffers go with the last (R98, R108). -/
def segsOf (got n bufs : Nat) : List Seg :=
  if got = n then [{ len := n, within := true, bufs := bufs }]
  else if got = 0 then [{ len := n, within := false, bufs := bufs }]
  else [{ len := got, within := true, bufs := 0 }, { len := n - got, within := false, bufs := bufs }]

/-- Segments without what lies past their first `n` bytes. -/
def cutSegs : Nat → List Seg → List Seg
  | _, [] => []
  | n, g :: r => { g with len := min n g.len } :: cutSegs (n - g.len) r

/-- The text of one frame joins its prompt (R129, R130): up to byte L − 1, with a trimmed tail when the limit closes the
prompt. -/
def promptBytes (s : State) (c : Nat) (text : List Byte) (eos : Bool) (bufs : Nat) : State :=
  let x := streamOf s c
  let limit := reqLimit s x.tenant
  let room := limit - x.textLen
  let cut := decide (room < text.length) || (decide (room = text.length) && !eos)
  let kept := text.take room
  let (s, got) := takeBytes s x.tenant kept.length
  let within := decide (got = kept.length)
  let held := x.buf.length - (x.segs.map (·.len)).sum
  let buf := if cut then trimTail (x.buf ++ kept) else x.buf ++ kept
  let x := { x with
    buf := buf, segs := cutSegs (buf.length - held) (x.segs ++ segsOf got kept.length bufs),
    textLen := x.textLen + kept.length, ooc := x.ooc || !within, promptBufs := x.promptBufs + bufs,
    promptEnd := cut || eos, clientEos := eos, trunc := cut, endAt := s.now }
  -- the deadline is suspended from the prompt's EOS or truncation (R104)
  setStream s c (if cut || eos then { x with deadline := none } else restartDeadline s x)

/-- A stream that still takes client frames, or discards them up to EOS (R73, R74). -/
def takesFrames (x : Stream) : Bool := !x.clientEos

/-- The frame belongs to a refused stream whose frames are discarded up to EOS (R73). -/
def discarding (s : State) (port tenant : Nat) (stag : W16) : Bool := s.discards.contains (port, tenant, stag)

/-- Ends the discard of a refused stream. (DEDUCED, log entry 80) -/
def endDiscard (s : State) (port tenant : Nat) (stag : W16) : State :=
  { s with discards := s.discards.filter fun d => d ≠ (port, tenant, stag) }

/-- Begins the discard of a refused stream, unless its SOS frame was its last, or the frames that follow are those of an open stream
(R73). (DEDUCED, log entry 80) -/
def beginDiscard (s : State) (port : Nat) (f : Frame) : State :=
  if f.eos || (findStream s port f.tenant.toNat f.csf).isSome then s else { s with discards := s.discards ++ [(port, f.tenant.toNat, f.csf)] }

/-- A protocol error of an accepted frame (R49): discarded, counted and logged. -/
def protocolError (s : State) (p : Nat) (seq kind : Nat) : State :=
  note (telInc s (telLnk p 8)) stProtocol skLink p [p, (portOf s p).partner.toNat, seq, kind]

/-- A class-1 frame without SOS, stored whole (R73, R74). (DEDUCED, log entry 80) -/
def joinFrame (s : State) (p : Nat) (f : Frame) (bufs : Nat) : State :=
  let t := f.tenant.toNat
  let free (s : State) : State := freeBufs s bufs
  match findStream s p t f.csf with
  | some (c, x) =>
    if !takesFrames x then
      protocolError (free s) p noSeq 0
    else if x.promptEnd then            -- truncated: acknowledged, discarded and counted up to EOS (R129)
      free (setStream (count s .refusedFrames p) c { x with clientEos := f.eos })
    else promptBytes s c f.payload f.eos bufs
  | none =>
    if discarding s p t f.csf then free (count (if f.eos then endDiscard s p t f.csf else s) .refusedFrames p)
    else protocolError (free s) p noSeq 0

/-- A class-3 frame for this engine is delivered to the management endpoint (R320). -/
def deliverMgmt (s : State) (p : Nat) (f : Frame) (bufs : Nat) : State :=
  { s with poolUsed := s.poolUsed - bufs, mgmt := { s.mgmt with inbox := s.mgmt.inbox ++ [{ port := p, src := f.src, tenant := f.tenant, packet := f.payload }] } }

/-- Takes stored frames from the front of a port's receive buffer up to the next SOS, with fuel. -/
def pumpRx : Nat → State → Nat → State
  | 0, s, _ => s
  | n + 1, s, p =>
    match (portOf s p).rxq with
    | [] => s
    | i :: r =>
      if !i.stored || (i.frame.cls = 1 && i.frame.sos) then s
      else
        let s := modPort s p fun x => { x with rxq := r }
        pumpRx n (if i.frame.cls = 3 then deliverMgmt s p i.frame i.bufs else joinFrame s p i.frame i.bufs) p

/-- Takes every frame that can be taken now; an admission that runs on the port keeps later frames waiting. -/
def pump (s : State) (p : Nat) : State :=
  if s.adms.any fun a => a.port = p then s else pumpRx (portOf s p).rxq.length s p

end Sys2Proof.Machine
end

