-- ==== Sys2Proof/Machine/LinkOps.lean ====
section
/-! DEFINITION. What the link commands share: Hello (R386), the replay episode at both ends (R57 to R60), a lost port
(R61), what becomes of a received frame (R49 to R52, R62), and sending (R46, R54, R58). -/

namespace Sys2Proof.Machine

/-! ## Refusal of an SOS frame (R73, R87) -/

/-- The Refuse record of an SOS frame that has no stream context. -/
def refuseRec (f : Frame) (status policy retry : W16) : VRecord :=
  let p := parsePreamble f.payload
  { vkind := vkRefuse, stage := sgAdmission, last := true, status := status, stag := f.csf, tenant := f.tenant,
    vocab := BitVec.ofNat 4 p.vocab, reqid := p.reqid, policy := policy, retry := retry }

/-- Refuses an SOS frame on the port and STAG that it arrived with, with EOS (R73). -/
def refuseSos (s : State) (p : Nat) (f : Frame) (status policy retry : W16) : State :=
  let s := sendRecsTo s 65536 p f.src f.csf f.tenant.toNat [refuseRec f status policy retry] true
  telInc (if status = stSBusy then telInc s (telTen f.tenant.toNat 1) else s) (telTen f.tenant.toNat 6)

/-! ## Hello -/

/-- Free space of a port's receive buffer, class by class (R54): what the partner holds as credit or is owed. -/
def freeSpace (x : Port) : Cr4 :=
  { c0 := x.rxGrant.c0 + x.owe.c0, c1 := x.rxGrant.c1 + x.owe.c1, c2 := x.rxGrant.c2 + x.owe.c2,
    c3 := x.rxGrant.c3 + x.owe.c3 }

/-- Sends a Hello (R54, R60, R339, R386): its credits replace whatever the partner held. -/
def sendHello (s : State) (p : Nat) (hup : Bool) : State :=
  let x := portOf s p
  let free := freeSpace x
  let pl := encodeHello free s.cfg.deltaid s.cfg.memberid (decide (roleOf s p = .peer)) hup s.view.epoch s.log.boot
  sendControl (setPort s p { x with rxGrant := free, owe := {}, lastHello := s.now }) p kHello 0 0 x.nextRx pl

/-- Flits of accepted frames whose credit stands out: fenced class-0 frames and class-0 waits without a buffer, and frames of the other
classes not yet stored. -/
def heldFlits (s : State) (p : Nat) : Cr4 :=
  let x := portOf s p
  let rx (k : Nat) : Nat := ((x.rxq.filter fun i => !i.stored && decide (i.frame.cls.toNat = k)).map fun i => frameFlits i.frame).sum
  { c0 := x.rxFenced.length + (s.c0wait.filter fun w => decide (w.ingress = p) && !w.buffered).length, c1 := rx 1, c2 := rx 2, c3 := rx 3 }

/-- The whole receive buffer of a port less what it still holds (R53, R54). -/
def emptySpace (s : State) (p : Nat) : Cr4 :=
  let h := heldFlits s p
  { c0 := linkAdvertised.c0 - h.c0, c1 := linkAdvertised.c1 - h.c1, c2 := linkAdvertised.c2 - h.c2,
    c3 := linkAdvertised.c3 - h.c3 }

/-- The port enters Training from Down with a new SEQ space (R44, R60) and sends its first Hello (R386). -/
def enterTraining (s : State) (p : Nat) : State :=
  let x := portOf s p
  sendHello (setPort s p { x with
    state := .training, since := s.now, replay := [], txq := [], nextTx := 0, nextRx := 0, rxEp := false, txEp := none,
    ackOwed := false, txCred := {}, c0Out := 0, rxGrant := emptySpace s p, owe := {}, offered := [] }) p false

/-- The port enters Retrain (R44); nothing is discarded (R59). -/
def enterRetrain (s : State) (p : Nat) : State :=
  sendHello (modPort (telInc s (telLnk p 5)) p fun x => { x with state := .retrain, since := s.now }) p false

/-- The port goes to Retrain because a replay episode failed (R59). -/
def replayFailed (s : State) (p : Nat) : State :=
  enterRetrain (note s stRetrain skLink p [p, (portOf s p).partner.toNat,
    match (portOf s p).txEp with | some e => e.oldest.toNat | none => 0]) p

/-! ## A lost port (R61) -/

/-- Reports a discarded Data frame to whoever gave it to the port (R61, R246). -/
def reportLost (s : State) (p : Nat) (seq : Nat) (f : Frame) : State :=
  weirFrameLost (lostFrame s p seq f) f.origin stPortFailed f.dst.toNat

/-- The search of a header of port `p`. -/
def headerSearchOf (p : Nat) : Search → Bool
  | .header q _ _ _ => decide (q = p)
  | .count _ _ _ _ _ => false

/-- The first-match result of port `p`. -/
def headerResultOf (p : Nat) : FenResult → Bool
  | .first q _ => decide (q = p)
  | .count _ _ _ _ => false

/-- A port is lost and goes to Failed or Down: everything it had still to send is discarded and reported, and its streams end, with
their frames and the admission that runs (R61).  Other frames that it has accepted are still delivered (R57). (DEDUCED, log entry 24) -/
def portLost (s : State) (p : Nat) (dest : PortState) : State :=
  let x := portOf s p
  let kept (i : RxItem) : Bool := i.pass || decide (i.frame.cls = 3)
  let s := setPort s p { x with
    state := dest, since := s.now, replay := [], txq := [], rxq := x.rxq.filter kept, rxEp := false, txEp := none,
    ackOwed := false, txCred := {}, c0Out := 0, rxGrant := {}, owe := {} }
  let bufs := ((x.rxq.filter fun i => !kept i).map (·.bufs)).sum + ((s.adms.filter fun a => a.port = p).map (·.bufs)).sum
  let waits := s.c0wait.filter fun w => w.egress = p
  let s := { s with
    poolUsed := s.poolUsed - bufs, adms := s.adms.filter fun a => a.port ≠ p,
    streams := smMap {} (fun y => { y with dups := y.dups.filter fun d => d.port ≠ p }) s.streams,
    fenQ := smMap [] (fun l => l.filter fun q => !headerSearchOf p q) s.fenQ,
    fenRes := s.fenRes.filter fun r => !headerResultOf p r.2,
    c0wait := s.c0wait.filter fun w => w.egress ≠ p }
  let s := waits.foldl (fun s w => reportLost (if w.buffered then freeC0 s w.buf else creditBack s w.ingress 0 1) p noSeq w.frame) s
  let s := settleC0 (fillPort s p)
  let s := x.replay.foldl (fun s f => reportLost s p f.seq.toNat f.frame) s
  let s := x.txq.foldl (fun s f => reportLost s p noSeq f) s
  let s := endWhere s (fun y => decide (y.port = p)) stPeerLost
  pump { s with discards := s.discards.filter fun d => d.1 ≠ p } p

/-- Entry to Failed (R44, R61). -/
def portFailed (s : State) (p : Nat) : State := portLost (telInc s (telLnk p 6)) p .failed

/-- The port leaves for Down; what belongs to its partner is forgotten (R44). -/
def portDown (s : State) (p : Nat) : State :=
  modPort s p fun x => { x with state := .down, since := s.now }

/-! ## The sender's side -/

/-- A cumulative acknowledgement frees every frame up to `seq`, and ends an episode whose frame is among them (R57,
R59). (DEDUCED, log entry 16) -/
def applyAck (s : State) (p : Nat) (seq : BitVec 12) : State :=
  let x := portOf s p
  let left := x.replay.filter fun f => newer f.seq seq
  let ep := match x.txEp with
    | some e => if left.any (fun f => f.seq = e.oldest) then some e else none
    | none => none
  setPort s p { x with replay := left, txEp := ep }

/-- Adds returned credits (R55); a class-0 credit also lets one more flit be outstanding (R54). (DEDUCED, log entry 16) -/
def addCredit (s : State) (p cls n : Nat) : State :=
  modPort s p fun x => { x with txCred := crMod x.txCred cls (· + n), c0Out := if cls = 0 then x.c0Out - n else x.c0Out }

/-- A trigger for a resend from the oldest unacknowledged frame (R58, R59): the ninth sends the port to Retrain. (DEDUCED, log entry 14) -/
def resendTrigger (s : State) (p : Nat) : State :=
  let x := portOf s p
  match x.replay with
  | [] => s
  | f :: _ =>
    let fresh := x.txEp.isNone
    let e := x.txEp.getD { oldest := f.seq, start := s.now, replays := 0 }
    if 8 ≤ e.replays then replayFailed s p
    else
      let s := if fresh then telInc s (telLnk p 3) else s
      setPort (telInc s (telLnk p 4)) p { x with
        txEp := some { e with replays := e.replays + 1 }, replay := x.replay.map fun f => { f with pend := true } }

/-- A NAK: everything before its SEQ has been accepted, and a resend is triggered (R58). (DEDUCED, log entry 14) -/
def takeNak (s : State) (p : Nat) (seq : BitVec 12) : State := resendTrigger (applyAck s p (seq - 1)) p

/-- R60: frames older than the Hello's SEQ are dropped, and sending resumes from it with new credits (R387); episodes of the port
are over. -/
def resumeFrom (s : State) (p : Nat) (seq : BitVec 12) : State :=
  modPort s p fun x => { x with
    replay := (x.replay.filter fun f => !older f.seq seq).map fun f => { f with pend := true, spent := false },
    rxEp := false, txEp := none }

/-! ## The receiver's side -/

/-- The receiver starts a replay episode with its one NAK, unless one runs (R58). (DEDUCED, log entry 14) -/
def startEpisode (s : State) (p : Nat) : State :=
  let x := portOf s p
  if x.rxEp then s
  else sendControl (setPort (telInc s (telLnk p 3)) p { x with rxEp := true }) p kNak 0 0 x.nextRx []

/-- One more NAK of a running episode (R58). (DEDUCED, log entry 14) -/
def againNak (s : State) (p : Nat) : State := sendControl s p kNak 0 0 (portOf s p).nextRx []

/-- A flit may leave for a fabric port at once: the Ford to its io Brook is open and its class-0 lane has room, there is credit, and nothing
already waits for it (R24, R28, R67, R68). -/
def fbClass0Free (s : State) (f : Nat) : Bool :=
  let x := fbOf s f
  fabricClock s f && decide (x.q0.length < min (class0Depth .io) (min x.txCred.c0 (32 - x.c0Out))) &&
    !(s.c0wait.any fun w => w.egress = 64 + f)

/-- Class-0 frames that stand in the class-0 lane of the Ford to a link port (R24). (DEDUCED, log entry 86) -/
def outC0 (x : Port) : Nat := (x.txq.filter fun f => f.cls = 0 && !f.fence).length

/-- The class-0 lane of the Ford to a link port takes one more flit: the Ford is open, the lane has room, and the port has credit for it
(R24, R28, R68). -/
def linkC0Room (s : State) (q : Nat) : Bool :=
  let x := portOf s q
  fordOpen s (16 + q / 8) && decide (outC0 x < min (class0Depth .link) (min x.txCred.c0 (16 - x.c0Out)))

/-- A class-0 frame may leave at a link port at once. -/
def linkClass0Free (s : State) (q : Nat) : Bool := linkC0Room s q && !(s.c0wait.any fun w => w.egress = q)

/-- Nothing stands in front of a class-0 flit in the class-0 lane of its input. -/
def c0LaneFree (s : State) (g : Nat) : Bool := (waitsAt s.c0wait g).isEmpty

/-- A class-0 Pass flit from a link frame that ends at a fabric port (R360, R361). -/
def passFlit (p : Nat) (f : Frame) : FbFlit :=
  { fclass := 0, fkind := 1, fence := f.fence, tenant := f.tenant, csf := f.csf, eng := f.src,
    lport := BitVec.ofNat 6 p, body := f.payload }

/-- The fabric port takes frames and streams: in use and not held (R107, R363). -/
def fbUsable (s : State) (f : Nat) : Bool := fbInUse s f && !(fbOf s f).held

/-- A class-0 frame that ends at a fabric port (R47, R68, R363). -/
def passToFabric (s : State) (p arr : Nat) (f : Frame) : State :=
  let fb := fld f.csf 8 4
  if !fbUsable s fb then returnCredit (telInc s (telLnk p 13)) p 0 1
  else if fbClass0Free s fb && c0LaneFree s p then fbSend (returnCredit s p 0 1) fb [passFlit p f]
  else waitC0 s { egress := 64 + fb, ingress := p, frame := f, flit := passFlit p f, no := (portOf s p).accNo, arr := arr }

/-- The flits of a class-2 frame toward a fabric port (R361, R245). -/
def dataFlits (p arr : Nat) (poison : Bool) (f : Frame) : List FbFlit :=
  splitFlits { fclass := 2, fkind := 0, poison := poison, eng := f.src, lport := BitVec.ofNat 6 p,
               fromPort := some (p, arr) } f.payload

/-- Nothing waits in the standard lane of a link port's Ford. -/
def laneFree (q : List RxItem) : Bool := (laneHead q).isNone

/-- Flits of a class-2 message cut through to a fabric port: it has credit for them, and none wait there (R70). (DEDUCED, log entry 86) -/
def fbPasses (s : State) (f n : Nat) : Bool :=
  let x := fbOf s f
  fabricClock s f && x.q2.isEmpty && decide (n ≤ x.txCred.c2)

/-- A class-2 frame cuts through to a link port: it could be sent now, and no other of its class waits there (R70). (DEDUCED, log entry 86) -/
def linkPasses (s : State) (q : Nat) (f : Frame) : Bool :=
  let x := portOf s q
  fordOpen s (16 + q / 8) && decide (x.state = .up) && sendable x f && !(x.txq.any fun g => g.cls = 2)

/-- Flits toward a fabric port that hold pool buffers until the last of them leaves. -/
def sendStored (s : State) (fb bufs : Nat) (l : List FbFlit) : State :=
  if l.isEmpty then freeBufs s bufs
  else fbSend s fb (l.zipIdx.map fun x => if x.2 + 1 = l.length then { x.1 with bufs := bufs } else x.1)

/-- A frame waits in the standard lane of its port's Ford for buffers of the Hub pool (R70); what passes on goes to its egress then. -/
def waitFrame (s : State) (p arr : Nat) (pass : Bool) (f : Frame) : State :=
  waitPort s p { frame := f, no := (portOf s p).accNo, arr := arr, pass := pass, flits := frameFlits f }

/-- A class-2 frame that ends at a fabric port (R47, R361, R363): it cuts through, or waits (R70). -/
def dataToFabric (s : State) (p : Nat) (f : Frame) : State :=
  let fb := fld f.csf 0 4
  let s := modPort s p fun x => { x with arrived2 := x.arrived2 + 1 }
  let arr := (portOf s p).arrived2
  let l := dataFlits p arr false f
  if !fbUsable s fb then telInc (returnCredit s p 2 (frameFlits f)) (telLnk p 13)
  else if laneFree (portOf s p).rxq && fbPasses s fb l.length then fbSend (returnCredit s p 2 (frameFlits f)) fb l
  else waitFrame s p arr true f

/-- A frame without a valid route entry: discarded, counted and logged; class 1 with SOS is refused (R50). -/
def noRoute (s : State) (p : Nat) (seq : Nat) (f : Frame) : State :=
  let s := note (telInc s (telLnk p 13)) stNoRoute skLink p [p, (portOf s p).partner.toNat, seq]
  if f.cls = 1 ∧ f.sos then refuseSos s p f stNoRoute 0 0 else s

/-- A fenced class-0 frame toward a member goes to its egress queue and need not wait there: no route change holds it, its port can send it
now, and nothing is queued or waits before it (R62, R70, R244); one without a route is discarded at once. -/
def fencePasses (s : State) (m : Nat) (f : Frame) : Bool :=
  match routeTo s m with
  | none => true
  | some q => (smGet [] s.routeHold m).isEmpty && oldRouteClear s m && (portOf s q).txq.isEmpty && fordOpen s (16 + q / 8) &&
      decide ((portOf s q).state = .up) && sendable (portOf s q) f && fenceClear s q f

/-- A fenced class-0 frame from an input of the Hub toward a member: one that must wait takes a class-0 buffer first, and its credit is
returned when it has one (R70). (DESIGN CHOICE, log entry 15) -/
def passFenced (s : State) (g m no arr : Nat) (f : Frame) : State :=
  if c0LaneFree s g && fencePasses s m f then sendFenced (creditBack s g 0 1) m f
  else waitC0 s { egress := 81, ingress := g, frame := f, flit := { fclass := 0, fkind := 1 }, no := no, arr := arr }

/-- A frame toward another member (R50): unfenced class 0 may wait for credit in a reserve buffer (R68), a fenced frame keeps to R244,
class 2 cuts through where it can, and every other frame is stored whole in the Hub pool first (R52, R70). -/
def transit (s : State) (p arr : Nat) (seq : Nat) (f : Frame) : State :=
  let m := f.dst.toNat
  match routeTo s m with
  | none => noRoute (returnCredit s p f.cls.toNat (frameFlits f)) p seq f
  | some q =>
    let f := { f with origin := .transit }
    if f.cls = 0 ∧ f.fence then passFenced s p m (portOf s p).accNo arr f
    else if f.cls = 0 then
      if linkClass0Free s q && c0LaneFree s p then offer (returnCredit s p 0 (frameFlits f)) q f
      else waitC0 s { egress := q, ingress := p, frame := f, flit := { fclass := 0, fkind := 1 }, no := (portOf s p).accNo, arr := arr }
    else if f.cls = 2 && laneFree (portOf s p).rxq && linkPasses s q f then offer (returnCredit s p 2 (frameFlits f)) q f
    else waitFrame s p arr true f

/-- A frame that passes on leaves for its egress once it is stored, holding its buffers until it leaves there (R70). -/
def passOn (s : State) (p : Nat) (i : RxItem) : State :=
  let f := i.frame
  if f.dst = s.cfg.memberid then
    let fb := fld f.csf 0 4
    if !fbUsable s fb then freeBufs (telInc s (telLnk p 13)) i.bufs
    else sendStored s fb i.bufs (dataFlits p i.arr false f)
  else
    match routeTo s f.dst.toNat with
    | none => freeBufs (noRoute s p noSeq f) i.bufs
    | some q => offer s q { f with bufs := i.bufs }

/-- A class-0 frame for this engine: a Weir-layer operation to the Hub, a Pass frame to its fabric port (R233, R361). (DEDUCED, log entry 13) -/
def class0Local (s : State) (p arr : Nat) (f : Frame) : State :=
  if linkCodes.contains (f.csf.setWidth 8) then
    if hubTakes s p then returnCredit (modPort s p fun x => { x with hubOps := x.hubOps ++ [(arr, f)] }) p 0 1
    else waitC0 s { egress := 80, ingress := p, frame := f, flit := { fclass := 0, fkind := 1 }, no := (portOf s p).accNo, arr := arr }
  else passToFabric s p arr f

/-- Hands on a class-0 frame: to the Hub, to a fabric port, or to another member. (DESIGN CHOICE, log entry 15) -/
def handOn (s : State) (p arr seq : Nat) (f : Frame) : State :=
  if f.dst ≠ s.cfg.memberid then transit s p arr seq f else class0Local s p arr f

/-- The reserved bits of a Data header that R49 checks: those of the header, and of CSF for its class (R47). -/
def reservedSet (h : Hdr) : Bool :=
  decide (h.res1 ≠ 0) || decide (h.res2 ≠ 0) ||
    (if h.cls = 0 then decide (fld h.csf 12 4 ≠ 0) else if h.cls = 2 then decide (fld h.csf 4 12 ≠ 0)
     else if h.cls = 3 then decide (h.csf ≠ 0) else false)

/-- A class-0 frame for this engine may carry this code: a link code, or the code of Pass traffic that ends at a fabric port, which is
none meant for fabric ports (0x01 to 0x11) and not COMPLETE (R47, R233, R361). (DEDUCED, log entry 13) -/
def linkCodeOk (code : Byte) : Bool := (decide (code = 0) || decide (0x11 < code.toNat)) && decide (code ≠ opcComplete)

/-- An accepted frame is a protocol error (R49, R51, R91, R233).  Trailer bits [31:13], and C1KIND or TENANT in a class for which R45 says
zero, are not looked at. (DEDUCED, log entry 13; DESIGN CHOICE, log entry 87) -/
def headerError (s : State) (p : Nat) (h : Hdr) : Bool :=
  let mine := decide (h.dst = s.cfg.memberid)
  decide (h.kind ≠ kData) || (decide (h.cls = 0) && decide (40 < h.len)) || decide (4096 < h.len) || reservedSet h ||
    (decide (roleOf s p = .client) && (decide (h.cls = 0) || decide (h.cls = 2) || !mine)) ||
    (mine && ((decide (h.cls = 1) && decide (h.c1kind ≠ 0)) ||
              (decide (h.cls = 0) && !linkCodeOk (h.csf.setWidth 8))))

/-- Where an accepted frame goes (R49 to R52, R62). -/
def deliver (s : State) (p : Nat) (l : List Byte) : State :=
  let h := parseHdr l
  let f := frameOf l .none
  let x := portOf s p
  let back := flitsFor h.len
  if headerError s p h then returnCredit (protocolError s p (seqOf l).toNat h.kind) p h.cls back
  else if f.stomp then returnCredit (telInc s (telLnk p 7)) p h.cls back
  else if h.cls = 0 ∧ h.fence then
    setPort s p { x with rxFenced := x.rxFenced ++ [(x.accNo, x.arrived2, f)] }
  else if h.cls = 0 then handOn s p x.arrived2 (seqOf l).toNat f
  else if h.dst ≠ s.cfg.memberid then transit s p x.arrived2 (seqOf l).toNat f
  else if h.cls = 2 then dataToFabric s p f
  else waitFrame s p x.arrived2 false f

/-- A frame without a credit that covers it (R55). -/
def overrun (s : State) (p : Nat) (seq : Nat) : State :=
  enterRetrain (note (telInc s (telLnk p 10)) stOverrun skLink p [p, (portOf s p).partner.toNat, seq]) p

/-- A good Data frame with the next SEQ expected is accepted and acknowledged (R57), and its own acknowledgement and
credits are taken. (DEDUCED, log entry 16) -/
def accept (s : State) (p : Nat) (l : List Byte) : State :=
  let h := parseHdr l
  let x := portOf s p
  if crGet x.rxGrant h.cls < flitsFor h.len then overrun s p (seqOf l).toNat
  else
    let s := setPort (telInc s (telLnk p 1)) p { x with
      nextRx := x.nextRx + 1, rxEp := false, accNo := x.accNo + 1,
      rxGrant := crMod x.rxGrant h.cls (· - flitsFor h.len) }
    let s := if h.ackv then applyAck s p h.ackseq else s
    let s := addCredit s p h.crcls h.crcnt
    deliver (sendAck s p) p l

/-- What had already been forwarded of a cut-through frame that fails FCRC is poisoned or stomped (R52).  A frame counts as forwarded in
part only once two of its flits have arrived and it cuts through; the stomped copy carries the LEN of what arrived. (DESIGN CHOICE, log
entry 87) -/
def stompForwarded (s : State) (p : Nat) (l : List Byte) : State :=
  let h := parseHdr l
  let f := { frameOf l .transit with payload := slice l 16 (min h.len (l.length - 16)), stomp := true }
  if h.kind ≠ kData ∨ h.cls ≠ 2 ∨ flitsFor h.len < 2 ∨ l.length < 128 ∨ headerError s p h then s
  else if h.dst = s.cfg.memberid then
    let fb := fld h.csf 0 4
    let l := dataFlits p (portOf s p).arrived2 true f
    if fbUsable s fb && laneFree (portOf s p).rxq && fbPasses s fb l.length then fbSend (telInc s (telFab fb 4)) fb l else s
  else match routeTo s h.dst.toNat with
    | some q => if laneFree (portOf s p).rxq && linkPasses s q f then offer s q f else s
    | none => s

/-- A frame with a good HCRC that is sequenced (R57, R58).  A copy that fails while an episode runs, and one with a good FCRC that is a
duplicate or out of sequence, has nothing forwarded of it (R52). (DEDUCED, log entry 12; DESIGN CHOICE, log entry 87) -/
def rxSequenced (s : State) (p : Nat) (l : List Byte) : State :=
  let x := portOf s p
  let good := fcrcGood l
  let seq := seqOf l
  if good && decide (seq = x.nextRx) then accept s p l
  else if !good then
    let s := telInc s (telLnk p 7)
    if x.rxEp then (if lengthGood l && decide (seq = x.nextRx) then againNak s p else s)
    else startEpisode (stompForwarded s p l) p
  else if older seq x.nextRx then sendAck (telInc s (telLnk p 9)) p
  else startEpisode (if x.rxEp then count s .outOfSequence p else s) p

/-! ## Hello received -/

/-- The classes whose credits a Hello in Training must offer (R54). -/
def creditsOffered (r : Role) (c : Cr4) : Bool :=
  decide (4 ≤ c.c0) && decide (1 ≤ c.c1) && decide (1 ≤ c.c3) && (r = .client || decide (1 ≤ c.c2))

/-- R340 on a Peer port. -/
def peerHello (s : State) (p : Nat) (h : HelloP) : Bool :=
  decide (roleOf s p ≠ .peer) ||
    (h.long && decide (h.delta = s.cfg.deltaid) && decide (h.member ≠ s.cfg.memberid) && h.peer)

/-- R346: an HBOOT that differs from the partner's previous one suspends it; of a member that a DELTA_SET has removed it is logged only
(R355), and under Solo the view never changes (R342). (DEDUCED, log entry 78) -/
def memberRestart (s : State) (p : Nat) (h : HelloP) : State :=
  if roleOf s p ≠ .peer ∨ !h.long then s
  else
    let m := h.member.toNat
    let old := smGet 0 s.view.hboot m
    let s := { s with view := { s.view with hboot := smSet 0 s.view.hboot m (h.boot.toNat + 1) } }
    if old = 0 ∨ old = h.boot.toNat + 1 then s
    else
      let s := if s.cfg.managed && !s.view.removed.getLsbD m then
          raise { s with view := { s.view with susp := s.view.susp ||| oneBit m } } intDelta
        else s
      note s evMemberRestart skMember m [m, old - 1, h.boot.toNat]

/-- Takes the credits and the identity of a valid Hello (R54, R379); class 0 counts as wholly credited back. (DESIGN CHOICE, log entry 87) -/
def takeHello (s : State) (p : Nat) (h : HelloP) : State :=
  memberRestart (modPort s p fun x => { x with
    txCred := h.cred, c0Out := 0, partner := if h.long then h.member else x.partner,
    partnered := x.partnered || h.long }) p h

/-- The port goes Up (R44), and returns what it has come to owe since its last Hello (R55). -/
def goUp (s : State) (p : Nat) : State := settle (modPort s p fun x => { x with state := .up, since := s.now }) p

/-- A Hello with a good header (R386): a reserved bit that is not zero makes it a protocol error (R49); one that is neither 8 nor 24 bytes
long is counted and not logged. (DEDUCED, log entries 12, 17; DESIGN CHOICE, log entry 87) -/
def rxHello (s : State) (p : Nat) (seq : BitVec 12) (pl : List Byte) : State :=
  match parseHello pl with
  | none => telInc s (telLnk p 8)
  | some h =>
    let ok := peerHello s p h
    if h.long && h.resv then protocolError s p noSeq kHello
    else match (portOf s p).state with
    | .training =>
      if ok && creditsOffered (roleOf s p) h.cred then goUp (takeHello s p h) p
      else modPort s p fun x => { x with offered := pl }
    | .retrain => if ok then goUp (takeHello (resumeFrom s p seq) p h) p else s
    | .up =>
      if h.long && h.hup then count s .hupHello p
      else if ok then sendHello (takeHello (resumeFrom s p seq) p h) p true else s
    | _ => s

/-! ## Any frame received -/

/-- A link-control frame with a good HCRC (R48, R49). (DEDUCED, log entry 12) -/
def rxControl (s : State) (p : Nat) (l : List Byte) : State :=
  let h := parseHdr l
  let x := portOf s p
  if h.cls ≠ 0 then protocolError s p noSeq h.kind
  else if !fcrcGood l then telInc s (telLnk p 7)
  else if h.res1 ≠ 0 ∨ h.res2 ≠ 0 ∨ fld h.csf 12 4 ≠ 0 ∨ 40 < h.len then protocolError s p noSeq h.kind
  else if h.kind = kHello then rxHello s p h.ackseq (slice l 16 h.len)
  else if x.state ≠ .up then s
  else
    let s := addCredit s p h.crcls h.crcnt
    if h.kind = kNak then takeNak s p h.ackseq
    else if h.ackv then applyAck s p h.ackseq else s

/-- A frame as a port receives it (R44, R48, R49).  A port in Training or Retrain takes Hello frames only. (DEDUCED, log entry 12) -/
def rxFrame (s : State) (p : Nat) (w : WireFrame) : State :=
  let l := w.bytes
  let h := parseHdr l
  let x := portOf s p
  if x.state = .down ∨ x.state = .failed then s
  else if !hcrcGood l then
    let s := telInc s (telLnk p 7)
    if x.state = .up then startEpisode s p else s
  else if kAck ≤ h.kind ∧ h.kind ≤ kHello then
    (if x.state = .up ∨ h.kind = kHello then rxControl s p l else s)
  else if x.state = .up then rxSequenced s p l else s

/-! ## Sending -/

/-- Up to 255 credits of one class ride on a Data frame (R45): the class, the count, and the port after it. -/
def takeOwed (x : Port) : Nat × Nat × Port :=
  match firstNat 4 fun k => decide (crGet x.owe k ≠ 0) with
  | none => (0, 0, x)
  | some k =>
    let n := min 255 (crGet x.owe k)
    (k, n, { x with owe := crMod x.owe k (· - n), rxGrant := crMod x.rxGrant k (· + n) })

/-- Puts a Data frame on the wire with its acknowledgement and credits (R45, R46, R57). -/
def putData (s : State) (p : Nat) (seq : BitVec 12) (f : Frame) (inserted : Bool) : State :=
  let (k, n, x) := takeOwed (portOf s p)
  emit (setPort (telInc s (telLnk p 2)) p { x with ackOwed := false })
    (.link p (encodeFrame f kData true k n (x.nextRx - 1) seq) inserted)

/-- Spends the credit of a frame (R54, R387). -/
def spend (x : Port) (f : Frame) : Port :=
  { x with txCred := crMod x.txCred f.cls.toNat (· - frameFlits f),
           c0Out := if f.cls = 0 then x.c0Out + frameFlits f else x.c0Out }

/-- Sends the next frame of a resend (R58); its credit is spent again only after a Hello (R387). -/
def sendResend (s : State) (p : Nat) (f : SentFrame) : State :=
  let x := portOf s p
  let x := if f.spent then x else spend x f.frame
  putData (setPort s p { x with replay := x.replay.map fun g =>
    if g.seq = f.seq then { g with pend := false, spent := true, sentAt := s.now } else g }) p f.seq f.frame false

/-- Sends a queued frame for the first time: SEQ assigned, credit spent, kept for replay, its pool buffers freed (R46, R57, R70, R75,
R387). -/
def sendNew (s : State) (p : Nat) (cls : BitVec 2) : State :=
  match nextNew s p cls with
  | none => s
  | some i =>
    let x := portOf s p
    let f := x.txq.getD i {}
    let ins := f.cls = 0 && !f.fence
    let x := spend { x with txq := x.txq.eraseIdx i, nextTx := x.nextTx + 1,
                            replay := x.replay ++ [{ seq := x.nextTx, frame := { f with bufs := 0, c0 := .none }, sentAt := s.now }] } f
    putData (freeC0 (freeBufs (setPort s p x) f.bufs) f.c0) p (x.nextTx - 1) f ins

/-- One frame leaves the port (R46, R58): a resend ahead of everything new; then a queued frame. -/
def sendOne (s : State) (p : Nat) (cls : BitVec 2) : State :=
  let x := portOf s p
  if x.state ≠ .up then s
  else if x.replay.any (·.pend) then
    match resendNext x with
    | some f => settle (sendResend s p f) p
    | none => s
  else settle (sendNew s p cls) p

/-- No earlier frame of the port still waits to be handed on (R62). (DESIGN CHOICE, log entry 15) -/
def earlierHanded (s : State) (p no : Nat) : Bool :=
  !((portOf s p).rxq.any fun i => !i.stored && decide (i.no < no)) && !((waitsAt s.c0wait p).any fun w => w.no < no)

end Sys2Proof.Machine
end

