-- ==== Sys2Proof/Machine/FenOps.lean ====
section
/-! DEFINITION. What Fen commands share: searches (R140, R146 to R150, R153 to R155), legal entries (R141, R145, R147),
bank operations on entries and their shadow (R157 to R161). -/

namespace Sys2Proof.Machine

/-! ## Entries -/

/-- The table key of entry `e` of bank `b`; it is also its physical index (R146). -/
def fenIx (b e : Nat) : Nat := 8192 * b + e
def cellAt (s : State) (b e : Nat) : FenCell := smGet {} s.fen (fenIx b e)
/-- Stores an entry with its parity (R139). -/
def putEntry (s : State) (b e : Nat) (x : FenEntry) : State :=
  { s with fen := smSet {} s.fen (fenIx b e) { bits := x, par := parityOf x } }

/-- The parity of a stored entry holds. -/
def parityGood (c : FenCell) : Bool := decide (parityOf c.bits = c.par)

/-- The parity words of priority and action hold: bits [399:384] and [431:400] lie in words 12 and 13 (R139, R149). -/
def actParityGood (c : FenCell) : Bool :=
  decide ((parityOf c.bits).getLsbD 12 = c.par.getLsbD 12) && decide ((parityOf c.bits).getLsbD 13 = c.par.getLsbD 13)

/-! ## Searches -/

/-- The matching entries of the selected banks, by physical index (R140, R150). -/
def fenHits (s : State) (m : W16) (k : FenKey) : List (Nat × FenCell) :=
  s.fen.filter fun x => (bmBanks m).contains (x.1 / 8192) && fenMatches x.2.bits k

/-- A selected bank is suspect (R149, R164). (DEDUCED, log entry 77) -/
def fenSuspect (s : State) (m : W16) : Bool := (bmBanks m).any s.suspect.contains

/-- Entries that took part in a result and whose priority or action fails parity (R149). (DEDUCED, log entry 77) -/
def fenBad (hits : List (Nat × FenCell)) : List (Nat × Nat) :=
  (hits.filter fun x => !actParityGood x.2).map fun x => (x.1 / 8192, x.1 % 8192)

/-- The winner: the highest priority, then the lowest physical index (R146). -/
def fenWinner : List (Nat × FenCell) → Option (Nat × FenCell)
  | [] => none
  | x :: r =>
    match fenWinner r with
    | none => some x
    | some y => if fenPrio x.2.bits < fenPrio y.2.bits ∨ (fenPrio x.2.bits = fenPrio y.2.bits ∧ y.1 < x.1) then some y
        else some x

/-- Queues entries for scrub repair (R149). -/
def queueScrub (s : State) (l : List (Nat × Nat)) : State :=
  { s with scrubQ := s.scrubQ ++ l.filter fun x => !s.scrubQ.contains x }

/-- The result of a first-match search (R146, R149). (DEDUCED, log entry 77) -/
def firstSearch (s : State) (m : W16) (k : FenKey) : FirstResult :=
  let hits := fenHits s m k
  if fenSuspect s m || !(fenBad hits).isEmpty then .error
  else match fenWinner hits with
    | some x => .hit (fenAction x.2.bits) x.1 (fenPrio x.2.bits)
    | none => .miss

/-- The length of an n-gram entry, or of a hashed entry: the AVAIL bit that it cares (R147). -/
def matchLen (hashed : Bool) (e : FenEntry) : Nat :=
  let m := fenMaskOf e
  if hashed then
    match firstNat 4 fun j => m.getLsbD (14 + j) with
    | some j => [12, 16, 24, 32].getD j 0
    | none => 0
  else
    match firstNat 8 fun j => m.getLsbD (14 + j) with
    | some j => j + 1
    | none => 0

/-! ## Legal entries (R141, R145, R147) -/

/-- The bits of a range as a mask. -/
def maskBits (lo len : Nat) : BitVec 192 := BitVec.ofNat 192 ((2 ^ len - 1) * 2 ^ lo)

/-- The key bits that R143 does not list for a key type. -/
def reservedKey (kt : Nat) : BitVec 192 :=
  if kt = ktHeader then maskBits 115 77 else if kt = ktNgram then maskBits 182 10 else maskBits 178 14

/-- The action suits the key type and its Reserved fields are zero (R141, R145). -/
def actionLegal (kt : Nat) (a : W32) : Bool :=
  if kt = ktHeader then
    (decide (actType a = 1) && decide (fld a 22 6 = 0) && decide (actPolicy a ≠ 0)) ||
    (decide (actType a = 2) && decide (fld a 12 16 = 0))
  else decide (actType a = 3) && decide (actVreq a ≠ 3)

/-- The care mask of an n-gram entry of length `n`, without its FBF bits, and its FBF bits (R147). -/
def ngramMask (n : Nat) : BitVec 192 := maskBits 30 (19 * n) ||| maskBits (14 + (n - 1)) 1

/-- The shape of R147 for a count entry; VOCAB may be cared freely. -/
def shapeLegal (kt : Nat) (e : FenEntry) : Bool :=
  let m := fenMaskOf e
  let v := fenValue e
  if kt = ktNgram then
    let n := matchLen false e
    let free := maskBits 0 14 ||| maskBits 22 n
    decide (1 ≤ n) && decide (m &&& ~~~free &&& ~~~(reservedKey kt) = ngramMask n) && v.getLsbD (14 + (n - 1))
  else if kt = ktHashed then
    match firstNat 4 fun j => m.getLsbD (14 + j) with
    | none => false
    | some j => decide (m &&& ~~~(maskBits 0 14) &&& ~~~(reservedKey kt) = (maskBits (18 + 40 * j) 40 ||| maskBits (14 + j) 1))
        && v.getLsbD (14 + j)
  else true

/-- An entry is legal for a bank with this key type and owner (R141); uniqueness is tested apart. -/
def entryLegal (kt : Nat) (owner : Option Nat) (e : FenEntry) : Bool :=
  let m := fenMaskOf e
  let v := fenValue e
  decide (v &&& ~~~m = 0#192) && decide (m &&& maskBits 0 10 = maskBits 0 10) && decide (fld v 0 4 = kt) &&
  (match owner with | some t => decide (fld v 4 6 = t) | none => true) && decide (m &&& reservedKey kt = 0#192) &&
  actionLegal kt (fenAction e) && shapeLegal kt e

/-- What two count entries may not share: length and cared token or hash values (R147). -/
def countIdent (hashed : Bool) (e : FenEntry) : Nat × Nat :=
  let n := matchLen hashed e
  let v := fenValue e
  if hashed then
    (n, match firstNat 4 fun j => (fenMaskOf e).getLsbD (14 + j) with | some j => fld v (18 + 40 * j) 40 | none => 0)
  else (n, fld v 30 (19 * n))

/-- The bank's key type and owner allow the entry (R138, R141). -/
def legalInBank (s : State) (b : Nat) (e : FenEntry) : Bool :=
  let c := bankCfgOf s b
  c.used && entryLegal c.ktype (if c.shared then none else some c.owner) e

/-- The banks that some bank-mask entry of the active table selects together with bank `b`. -/
def banksWith (s : State) (b : Nat) : List Nat :=
  b :: (actTab s).masks.flatMap fun x => if (bmBanks x.2).contains b then bmBanks x.2 else []

/-- No valid entry of the banks that searches select together is the same count feature (R147); the entry that a WRITE replaces does
not count, while INSERT replaces none. (DEDUCED, log entry 84) -/
def uniqueInBanks (s : State) (b : Nat) (replaced : Option Nat) (e : FenEntry) : Bool :=
  let c := bankCfgOf s b
  c.ktype = ktHeader ||
    !(s.fen.any fun x => fenValid x.2.bits && (banksWith s b).contains (x.1 / 8192) && decide (replaced.map (fenIx b) ≠ some x.1) &&
      decide (countIdent (c.ktype = ktHashed) x.2.bits = countIdent (c.ktype = ktHashed) e))

/-! ## Shadow (R161) -/

/-- Offset of an entry's shadow record in the partition: the shadow lies at its start (R262). -/
def shadowAt (b e : Nat) : Nat := 64 * fenIx b e
/-- The shadow record of an entry. -/
def shadowRec (s : State) (b e : Nat) : List Byte := memReadAt farInit s.far (shadowAt b e) 64
/-- Writes the shadow record of an entry. -/
def putShadow (s : State) (b e : Nat) : State :=
  { s with far := memWriteAt farInit s.far (shadowAt b e) (shadowBytes (cellAt s b e).bits) }
/-- Every shadow record of a bank becomes that of an empty entry. -/
def blankShadow (s : State) (b : Nat) : State := { s with far := memClear s.far (shadowAt b 0) 524288 }

/-! ## Operation queues (R158) -/

/-- A bank's queue of operations, at most 16, each with whether the host sent it. -/
def opsOf (s : State) (b : Nat) : List (BankOp × Bool) := smGet [] s.bankQ b
/-- Operations that their issuer holds while the queue is full. -/
def heldOps (s : State) (b : Nat) : List (BankOp × Bool) := smGet [] s.bankHeld b
/-- The operation that has changed the bank and waits for its shadow records. -/
def doneOf (s : State) (b : Nat) : List BankDone := smGet [] s.bankDone b
/-- An operation of the bank is queued, held or not yet complete. -/
def bankBusy (s : State) (b : Nat) : Bool := !((opsOf s b).isEmpty && (heldOps s b).isEmpty && (doneOf s b).isEmpty)

/-- Queues an operation behind those already there; a full queue holds the issuer. -/
def queueOp (s : State) (b : Nat) (o : BankOp) (host : Bool) : State :=
  if (opsOf s b).length < 16 ∧ heldOps s b = [] then { s with bankQ := smSet [] s.bankQ b (opsOf s b ++ [(o, host)]) }
  else { s with bankHeld := smSet [] s.bankHeld b (heldOps s b ++ [(o, host)]) }

/-- The operation at the head of the queue leaves it, and the first that is held goes in. -/
def popOp (s : State) (b : Nat) : State :=
  { s with bankQ := smSet [] s.bankQ b ((opsOf s b).drop 1 ++ (heldOps s b).take 1),
           bankHeld := smSet [] s.bankHeld b ((heldOps s b).drop 1) }

/-! ## Banks of a load (R151, R165) -/

/-- Banks that some current or captured bank mask names, or that this load has already taken (R151). (DEDUCED, log entry 52) -/
def namedBanks (s : State) (taken : List Nat) : List Nat :=
  taken ++ ((actTab s).masks.flatMap fun x => bmBanks x.2) ++
    (openStreams s).flatMap fun x => bmBanks x.2.maskN ++ bmBanks x.2.maskH

/-- A bank that a Bale can load: a tenant's own, which no current or captured bank mask names (R151). -/
def spareBank (s : State) (b : Nat) : Bool :=
  let c := bankCfgOf s b
  c.used && !c.shared && !(namedBanks s []).contains b

/-- A Bale load may take the bank, or has taken it and waits for its commit: commands to it are refused (R165). (DESIGN CHOICE, log entry 88) -/
def bankLoading (s : State) (b : Nat) : Bool :=
  (decide (s.load.state = .loading) && spareBank s b) || s.load.banks.contains b

/-! ## Bank operations (R157 to R160) -/

/-- The first invalid entry at or after `e` (R160). -/
def firstInvalid (s : State) (b e : Nat) : Option Nat :=
  (firstNat (8192 - e) fun i => !fenValid (cellAt s b (e + i)).bits).map (e + ·)

/-- Moves the run from `e` to `j − 1` down by one place, from its bottom (R160).  The parity of a moved entry is formed anew from the bits
read: the manual does not say that it is copied. (DEDUCED, log entry 41; DESIGN CHOICE, log entry 94) -/
def shiftRun (s : State) (b : Nat) : Nat → Nat → State
  | _, 0 => s
  | j, n + 1 =>
    let x := (cellAt s b (j - 1)).bits
    shiftRun (putEntry (putEntry s b j (setValid x true)) b (j - 1) (setValid x false)) b (j - 1) n

/-- The three steps of R159, whole. -/
def writeEntry (s : State) (b e : Nat) (x : FenEntry) : State := putEntry s b e (setValid (entryBits x) true)

/-- The entries that an operation changed: its shadow records (R158). -/
def touched (s : State) (b : Nat) : BankOp → List Nat
  | .read _ => []
  | .invalidate e => [e]
  | .write e _ => [e]
  | .insert e _ => match firstInvalid s b e with
      | some j => (List.range (j - e + 1)).map (e + ·)
      | none => []

/-- The bank change of an operation, its status and what READ returns (R157, R159, R160). -/
def bankChange (s : State) (b : Nat) : BankOp → State × W16 × FenEntry
  | .read e => (s, 0, (cellAt s b e).bits)
  | .invalidate e => (putEntry s b e (setValid (cellAt s b e).bits false), 0, 0)
  | .write e x => (writeEntry s b e x, 0, 0)
  | .insert e x => match firstInvalid s b e with
      | some j => (writeEntry (shiftRun s b j (j - e)) b e x, 0, 0)
      | none => (s, stFenBankFull, 0)

end Sys2Proof.Machine
end

