-- ==== Sys2Proof/Machine/ObjOps.lean ====
section
/-! DEFINITION. What mailbox, object and memory commands share: the start and completion of a mailbox command (R376 to R378),
space in the tiers (R259, R262), moves (R264, R271, R272), lost objects (R273). -/

namespace Sys2Proof.Machine

/-! ## The mailbox (R376, R377) -/

/-- Completion of the running command: RESULT, ERR, RTAG, BUSY cleared, then DONE and GEN_INTSTAT MBX (R377). -/
def mbxComplete (s : State) (err : W16) (res : List W32) : State :=
  let m := s.mbx
  raise { s with mbx := { m with
    busy := false, done := true, err := err, rtag := m.ctag, running := none,
    result := (res.zipIdx).foldl (fun r x => smSet 0 r x.2 x.1) m.result } } intMbx

/-- Codes served in fenced boot (R378). -/
def fencedCodes : List Byte := [0x03, 0x04, 0x22, 0x28, 0x29, 0x2A, 0x30, 0x31]

/-- A Rill number, or 0xFF for any: other values go to the nearer (R12, R269). (DEDUCED, log entry 54) -/
def rillPar (x : Nat) : Nat := if x < 128 then x else if x < 191 then 127 else 255

/-- The multiple of 2 MiB nearest to a value, within 64 bits (R12, R269). (DEDUCED, log entry 54) -/
def toRegion (x : Nat) : Nat := min (2 ^ 64 - 2097152) ((x + 1048576) / 2097152 * 2097152)

/-- A word with `n` of its bits, from `lo` on, replaced. -/
def setFld (w : W32) (lo n v : Nat) : W32 := BitVec.ofNat 32 (w.toNat - at' (fld w lo n) lo + at' v lo)

/-- A pair of parameters with a new 64-bit value, low word first. -/
def setPair (ps : SMap W32) (i v : Nat) : SMap W32 :=
  smSet 0 (smSet 0 ps i (BitVec.ofNat 32 v)) (i + 1) (BitVec.ofNat 32 (v / 2 ^ 32))

/-- The parameters of a command, those out of range clamped to the nearest legal value (R12, R378): the Rill of OBJ_MOVE, base and length
of SLOW_GRANT, KTYPE of FEN_MASK, EPOCH of DELTA_SET and the bank kind of BANK_WRITE.  Every value of the other fields is legal. -/
def clampPar (opc : Byte) (ps : SMap W32) : SMap W32 :=
  let p (i : Nat) : W32 := smGet 0 ps i
  let pair (i : Nat) : Nat := (p (i + 1)).toNat * 2 ^ 32 + (p i).toNat
  if opc = 0x02 then smSet 0 ps 1 (setFld (p 1) 8 8 (rillPar (fld (p 1) 8 8)))
  else if opc = 0x03 then setPair (setPair ps 0 (toRegion (pair 0))) 2 (max 2097152 (toRegion (pair 2)))
  else if opc = 0x14 then smSet 0 ps 0 (setFld (p 0) 8 2 (clamp 1 3 (fld (p 0) 8 2)))
  else if opc = 0x21 then smSet 0 ps 0 (setFld (p 0) 0 16 (max 1 (fld (p 0) 0 16)))
  else if opc = 0x29 then smSet 0 ps 0 (setFld (p 0) 0 2 (clamp 1 2 (fld (p 0) 0 2)))
  else ps

/-- The host writes MBX_CMD, MBX_PARAM and the doorbell (R377).  While BUSY, or while HWRDY is 0, the writes are ignored and
OVR is set; in Retired the region answers nothing (R348).  MBX_PARAM then holds the parameters as clamped (R12). (DESIGN CHOICE, log entry 72) -/
def mbxStart (s : State) (opc : Byte) (a : MbxArgs) (k : State → State) : State :=
  if s.fuses.lc = 4 then s
  else if s.mbx.busy || !s.boot.hwrdy then { s with mbx := { s.mbx with ovr := true } }
  else
    let ps := clampPar opc ((a.par.take 16).zipIdx.foldl (fun m x => smSet 0 m x.2 x.1) s.mbx.param)
    let s := { s with mbx := { s.mbx with opc := opc, ctag := a.ctag, param := ps, busy := true, running := some .plain } }
    if s.boot.fenced && !fencedCodes.contains opc then mbxComplete s stNotAvailable [] else k s

/-- Parameter register `i` as captured. -/
def par (s : State) (i : Nat) : W32 := smGet 0 s.mbx.param i
/-- A 64-bit value in two parameters, low word first (R378). -/
def par64 (s : State) (i : Nat) : W64 := (par s (i + 1)).append (par s i)

/-- A value as 32-bit words, low word first. -/
def words32 (n : Nat) (x : Nat) : List W32 := (List.range n).map fun i => BitVec.ofNat 32 (bitsOf x (32 * i) 32)

/-- What the running command waits for. -/
def mbxWait (s : State) (r : Running) : State := { s with mbx := { s.mbx with running := some r } }

/-- Completes the running command if it is the one that waits for this. -/
def mbxFinish (s : State) (r : Running) (err : W16) (res : List W32) : State :=
  if s.mbx.busy ∧ s.mbx.running = some r then mbxComplete s err res else s

/-- The slow regions (R259, R269): number, base, end. -/
def slowRegions (s : State) : List (Nat × Nat × Nat) := s.slow.map fun x => (x.1, x.2.1, x.2.1 + (x.2.2 - 1))

/-- A range of the content window overlaps a slow region. -/
def inSlow (s : State) (base len : Nat) : Bool := (slowRegions s).any fun r => decide (base < r.2.2) && decide (r.2.1 < base + len)

/-- A range lies wholly inside one slow region. -/
def withinSlow (s : State) (base len : Nat) : Bool :=
  (slowRegions s).any fun r => decide (r.2.1 ≤ base) && decide (base + len ≤ r.2.2)

/-- Bytes of the content window: 4 TiB (R366). -/
def windowSize : Nat := 2 ^ 42

/-- A buffer is a 64-byte-aligned range of the window outside every slow region (R377). -/
def bufferGood (s : State) (base : W64) (len : Nat) : Bool :=
  decide (base.toNat % 64 = 0) && decide (base.toNat + len ≤ windowSize) && !inSlow s base.toNat len

/-! ## Space (R259, R262, R264) -/

/-- Two homes share one store: the tier, for the near tier the Rill or the pool, for the slow tier the region. -/
def sameStore (a b : Home) : Bool :=
  decide (a.tier = b.tier) && (match a.tier with
    | .near => decide (a.pool = b.pool) && (a.pool || decide (a.rill = b.rill))
    | .slow => decide (a.rill = b.rill)
    | _ => true)

/-- Bytes in whole granules of 64 KiB (R262). -/
def granules (n : Nat) : Nat := 65536 * ceilDiv n 65536

/-- The bytes of an estimate table (R204). -/
def tableSize (t : List PointRec) : Nat := (t.map fun p => 64 + 64 * ceilDiv (2 * p.est.length) 64).sum

/-- KV granules of all tenants (R262, R268). -/
def kvGranules (s : State) : Nat := ((List.range 64).map fun t => (tenOf s t).kvq).sum

/-- The size of a store (R259, R262, R269, R331). -/
def storeSize (s : State) (h : Home) : Nat :=
  match h.tier with
  | .near => if h.pool then s.cfg.objmib * 1048576 else 524288
  | .far => if s.boot.farBad then 0 else s.cfg.fargib * 1073741824 - 67108864 - kvGranules s * 65536
  | .slow => (((slowRegions s).filter fun r => r.1 = h.rill).map fun r => r.2.2 - r.2.1).sum
  | .fen => 0

/-- An object that BALE_LOAD counts (R284): in either table, or in neither with users, or an estimate table. -/
def heapCounts (s : State) (x : Nat × Obj) : Bool :=
  match x.2.content with
  | .estTable _ => true
  | _ => (tabObjs s.tabA).contains x.1 || (tabObjs s.tabB).contains x.1 || decide (usersOf s x.1 ≠ 0)

/-- The object heap's use as BALE_LOAD counts it (R284): the granules of those objects that are homed in the far tier. -/
def heapUse (s : State) : Nat :=
  (s.objs.map fun x => if 65538 ≤ x.1 && decide (x.2.state ≠ .free) && decide (x.2.home.tier = .far) && heapCounts s x
    then granules x.2.size else 0).sum

/-- Where the object heap starts (R262). -/
def heapBase (s : State) : Nat := 67108864 + kvGranules s * 65536

/-- The first address of a store. -/
def storeBase (s : State) (h : Home) : Nat :=
  match h.tier with
  | .far => heapBase s
  | .slow => (((slowRegions s).filter fun r => r.1 = h.rill).map fun r => r.2.1).headD 0
  | _ => 0

/-- The unit in which a store is allocated: granules in the far partition (R262), else the 64 bytes of a DMA address (R275). -/
def storeUnit (h : Home) : Nat := if h.tier = .far then 65536 else 64

/-- The next multiple of `u`. -/
def alignUp (u a : Nat) : Nat := ceilDiv a u * u

/-- The ranges of a store that are taken: homes, destinations of moves, sources not yet freed, the staging area, and the room held for
estimate tables. -/
def takenIn (s : State) (h : Home) : List (Nat × Nat) :=
  (s.objs.flatMap fun x => ((homesOf x.2).filter (sameStore h)).map fun y => (y.loc.toNat, x.2.size)) ++
  (if h.tier = .far ∧ s.load.stageLen ≠ 0 then [(s.load.stageAt, s.load.stageLen)] else []) ++
  (if h.tier = .far then s.load.tables.map fun x => (x.2.1, x.2.2) else [])

/-- The lowest place for `n` bytes in a range that keeps clear of what is taken: at its start, or after something taken. (DESIGN CHOICE,
log entry 30) -/
def firstFit (u base past n : Nat) (taken : List (Nat × Nat)) : Option Nat :=
  let clear (a : Nat) : Bool := taken.all fun t => decide (a + alignUp u n ≤ t.1) || decide (t.1 + alignUp u t.2 ≤ a)
  least ((base :: taken.map fun t => alignUp u (t.1 + t.2)).filter fun a => decide (base ≤ a) && decide (a + n ≤ past) && clear a)

/-- The place for `n` bytes in a store, if there is one. -/
def placeIn (s : State) (h : Home) (n : Nat) : Option W64 :=
  if h.tier = .fen then none
  else (firstFit (storeUnit h) (storeBase s h) (storeBase s h + storeSize s h) n (takenIn s h)).map (BitVec.ofNat 64)

/-- The place of a stream's KV cache in the KV region, with the granule of its carried block behind it (R262, R266). -/
def placeKv (s : State) : W64 :=
  let taken := (s.objs.filter fun x => decide (x.1 < 65536) && x.1 % 2 = 0 && decide (x.2.state ≠ .free)).map fun x => (x.2.home.loc.toNat, 103 * 65536)
  BitVec.ofNat 64 ((firstFit 65536 67108864 (heapBase s) (103 * 65536) taken).getD 67108864)

/-- Space for `n` more bytes. -/
def roomIn (s : State) (h : Home) (n : Nat) : Bool := (placeIn s h n).isSome

/-- The lowest Rill in the dispatch mask with room (R271). (DESIGN CHOICE, log entry 30) -/
def anyRill (s : State) (n : Nat) : Option Nat :=
  firstNat 128 fun r => s.mask.contains r && roomIn s { tier := .near, rill := r } n

/-- The lowest slow region with room (R269); a region that does not exist when none has it. -/
def slowHome (s : State) (n : Nat) : Home :=
  { tier := .slow, rill := (firstNat 16 fun r => roomIn s { tier := .slow, rill := r } n).getD 16 }

/-! ## Moves (R264, R271, R272) -/

/-- R264: the kind may move to this tier now. -/
def moveAllowed (s : State) (id : Nat) (dest : Home) : Bool :=
  let o := objOf s id
  match o.kind with
  | .vocabulary => decide (dest.tier = .near) || decide (usersOf s id = 0)
  | .grammar => decide (dest.tier ≠ .slow) || decide (usersOf s id = 0)
  | .classifier => decide (dest.tier ≠ .slow) || decide (usersOf s id = 0)
  | _ => false

/-- Space number of a home in a DMA descriptor (R275). -/
def spaceOf (h : Home) : Nat :=
  match h.tier with
  | .far => 0 | .slow => 1 | .near => if h.pool then 2 else 3 | .fen => 0

/-- A descriptor's ranges lie in their spaces (R275): the far partition, the content window, the Hub pool, a Rill's SRAM. -/
def rangeGood (s : State) (sp a len : Nat) : Bool :=
  decide (a + len ≤ (if sp = 0 then s.cfg.fargib * 1073741824 else if sp = 1 then windowSize else if sp = 2 then 33554432 else 524288))

/-- The reads and writes of a transfer: one of each is outstanding at a time on a port, and they count against the limits of R75; none while
a bound stalls it. (DESIGN CHOICE, log entry 30) -/
def dmaIssue (s : State) (ch : Nat) (d : Dma) : Option State :=
  let rd : Option State :=
    if d.srcsp = 0 then memIssue s d.src d.len false (.dma ch) else if d.srcsp = 1 then conIssue s d.src d.len false (.dma ch) else some s
  rd.bind fun s =>
    if d.dstsp = 0 then memIssue s d.dst d.len true (.dma ch) else if d.dstsp = 1 then conIssue s d.dst d.len true (.dma ch) else some s

/-- The transfer at the head of a channel starts, unless a bound stalls it; a range that leaves its space moves nothing (R275). -/
def startDma (s : State) (ch : Nat) : State :=
  match smGet [] s.dmaQ ch with
  | [] => s
  | d :: r =>
    if d.started then s
    else if !(rangeGood s d.srcsp d.src d.len && rangeGood s d.dstsp d.dst d.len) then
      { s with dmaQ := smSet [] s.dmaQ ch ({ d with started := true, status := stOutOfRange } :: r) }
    else match dmaIssue s ch d with
      | some s => { s with dmaQ := smSet [] s.dmaQ ch ({ d with started := true } :: r) }
      | none => s

/-- Queues a descriptor on the DMA channel with the fewest, at most 64 in each; full queues hold the Hayward (R275). (DESIGN CHOICE, log
entry 30) -/
def queueDma (s : State) (d : Dma) : State :=
  let len (c : Nat) : Nat := (smGet [] s.dmaQ c).length
  let best := (List.range 16).foldl (fun b c => if len c < len b then c else b) 0
  if 64 ≤ len best then { s with dmaWait := s.dmaWait ++ [d] }
  else startDma { s with dmaQ := smSet [] s.dmaQ best (smGet [] s.dmaQ best ++ [d]) } best

/-- Descriptors that were held go in while a queue has room. -/
def refillDma (s : State) : State := s.dmaWait.foldl queueDma { s with dmaWait := [] }

/-- The largest LEN of a descriptor (R275). -/
def dmaMax : Nat := 0xFFFFFFC0

/-- The descriptor of a move: the first of several for an object beyond the largest LEN. -/
def moveDma (s : State) (id : Nat) (o : Obj) (dest : Home) (fromHost : Bool) (sig : Option (Nat × Nat × W32)) : Dma :=
  let (ten, weir, cnt) := sig.getD (0, 0, 0)
  { obj := some id, srcsp := spaceOf o.home, dstsp := spaceOf dest, srill := o.home.rill, drill := dest.rill,
    src := o.home.loc.toNat, dst := dest.loc.toNat, tenant := ten, sigen := sig.isSome, weir := weir, count := cnt,
    len := min dmaMax (alignUp 64 o.size), more := alignUp 64 o.size - dmaMax, dtag := s.dmaTag, fromHost := fromHost }

/-- Starts a move (R271): its refusals, or the object Moving and a descriptor queued.  `sig` names the Weir to signal. -/
def startMove (s : State) (id : Nat) (dest : Home) (fromHost demand : Bool) (sig : Option (Nat × Nat × W32)) :
    State × W16 :=
  let o := objOf s id
  if o.state = .free then (s, stOutOfRange)
  else if o.state = .moving then (s, stObjectMoving)
  else if o.state = .lost ∨ !moveAllowed s id dest then (s, stMoveForbidden)
  else if dest.tier = .near ∧ !dest.pool ∧ !s.mask.contains dest.rill then (s, stRillNotInMask)
  else match placeIn s dest o.size with
    | none => (s, stNoSpace)
    | some a =>
      let dest := { dest with loc := a }
      let s := setObj s id { o with state := .moving, move := some { dest := dest, fromHost := fromHost, demand := demand } }
      (queueDma { s with dmaTag := s.dmaTag + 1 } (moveDma s id o dest fromHost sig), 0)

/-- The move of an object of a load out of its staging granules (R271, R284): nothing of R264 stands against it, since no stream uses it. -/
def startLoadMove (s : State) (id : Nat) (dest : Home) : State × W16 :=
  let o := objOf s id
  match placeIn s dest o.size with
  | none => (s, stNoSpace)
  | some a =>
    let dest := { dest with loc := a }
    let s := setObj s id { o with state := .moving, move := some { dest := dest, fromHost := false } }
    (queueDma { s with dmaTag := s.dmaTag + 1 } (moveDma s id o dest false none), 0)

/-- A demand move out of the slow tier (R274), counted; the manifest's home, or the far tier. (DEDUCED, log entry 31) -/
def demandMove (s : State) (id : Nat) (tenant : Nat) : State :=
  let o := objOf s id
  if o.state ≠ .home ∨ o.home.tier ≠ .slow then s
  else
    let dest : Home := if o.pref.tier = .slow then { tier := .far } else o.pref
    let (s', st) := startMove s id dest false true none
    if st = 0 then telInc s' (telTen tenant 18) else s

/-! ## The SRAM of a Rill (R166, R168) -/

/-- A flipped bit lies in a 64-bit word of the range. -/
def inWords (r a n : Nat) (x : Nat × Nat) : Bool := decide (x.1 = r) && decide (a / 8 ≤ x.2) && decide (8 * x.2 < a + n)

/-- The engine writes into a Rill's SRAM; a word that is written is good again (R168). -/
def sramWrite (s : State) (r a : Nat) (l : List Byte) : State :=
  { s with sram := smSet [] s.sram r (memWrite 0 (smGet [] s.sram r) a l), flips := s.flips.filter fun x => !inWords r a l.length x }

/-- The engine reads a Rill's SRAM: every flipped bit there is corrected in the data and counted (R168). -/
def sramRead (s : State) (r a n : Nat) : State := telAdd s (telEng 3) (s.flips.countP (inWords r a n))

/-- The bytes of an object arrive at a home in a Rill's SRAM. -/
def fillRill (s : State) (h : Home) (size : Nat) (data : List Byte) : State :=
  if homeInRill h.rill h then sramWrite s h.rill h.loc.toNat (data.take size) else s

/-- The object whose home holds a word of a Rill's SRAM (R168). -/
def objAt (s : State) (r w : Nat) : Option Nat :=
  (s.objs.find? fun x => decide (x.2.state ≠ .free) && homeInRill r x.2.home && decide (x.2.home.loc.toNat / 8 ≤ w) &&
    decide (8 * w < x.2.home.loc.toNat + x.2.size)).map (·.1)

/-! ## Lost objects (R273) -/

/-- An object is lost: counted, its move given up, and the streams that use it end with the status (R107). -/
def loseObj (s : State) (id : Nat) (status : W16) : State :=
  let o := objOf s id
  if o.state = .free ∨ o.state = .lost then s
  else
    let s := telInc (setObj s id { o with state := .lost, move := none }) (telEng 6)
    ((openStreams s).filter fun x => (streamObjs s x.2).contains id).foldl (fun s x => endControl s x.1 status) s

/-- Every object that a classifier-set record names can be used (R72, R273). -/
def recUsable (s : State) (r : SetRec) : Bool := (recObjs r).all fun o => usable s o || decide ((objOf s o).state = .free)

/-- Memory-group record of the log (R382). (DEDUCED, log entry 46) -/
def noteMemory (s : State) (status : W16) (tenant obj port addr dtag : Nat) : State :=
  note s status skMemory port [tenant, obj, port, addr % 2 ^ 32, addr / 2 ^ 32, dtag]

end Sys2Proof.Machine
end

