-- ==== Sys2Proof/Machine/Admission.lean ====
section
/-! DEFINITION. Admission (R72 to R74, R85, R86, R103 to R107, R146, R266) and the first-match result (R146). -/

namespace Sys2Proof.Machine

/-! ## Checks 1 to 4 -/

/-- An accepted advance stops admission (R352). -/
def advancing (s : State) : Bool := match s.fuseOp with | some (.advance _) => true | _ => false

/-- Check 1 of R72: role and sender (R51, R343), TENANT, preamble (R86). -/
def check1 (s : State) (p : Nat) (f : Frame) : Option W16 :=
  if (roleOf s p = .peer ∧ !current s f.src.toNat f.epoch) ∨ !(tenOf s f.tenant.toNat).en then some stNotAdmitted
  else if f.payload.length < 16 ∨ !(parsePreamble f.payload).resvZero then some stBadPreamble
  else none

/-- Check 2 of R72, in its order of statuses (R36, R119, R211, R348). -/
def check2 (s : State) (f : Frame) : Option W16 :=
  let pr := parsePreamble f.payload
  let r := smGet {} (actTab s).recs f.tenant.toNat
  if (s.fuses.lc ≠ 1 ∧ s.fuses.lc ≠ 2) ∨ advancing s then some stLifecycle
  else if s.boot.fenced ∨ !s.setAct ∨ s.boot.farBad ∨ r.minRills = 0 ∨ !recUsable s r then some stCannotScreen
  else if rillsOn s < r.minRills then some stTooFewRills
  else match residentVocab s pr.vocab with
    | none => some stVocabAbsent
    | some _ =>
      if !pr.gen then none
      else match residentGrammar s pr.grammar with
        | none => some stGrammarAbsent
        | some g => match (objOf s g).content with
            | .grammar x => if x.vslot = pr.vocab then none else some stGrammarAbsent
            | _ => some stGrammarAbsent

/-- A stream with this STAG is open for the port and tenant: one of its own, or the copy of an original that it joined (R72, R106). (DEDUCED, log entry 27) -/
def stagOpen (s : State) (p tenant : Nat) (stag : W16) : Bool :=
  (findStream s p tenant stag).isSome || s.streams.any fun x =>
    x.2.inUse && decide (x.2.tenant = tenant) && x.2.dups.any fun d => decide (d.port = p) && decide (d.stag = stag)

/-- Checks 1 to 3 of R72: the status of the first that fails, and whether the frames that follow are discarded (R73). -/
def earlyChecks (s : State) (p : Nat) (f : Frame) : Option (W16 × Bool) :=
  match check1 s p f with
  | some st => some (st, true)
  | none => match check2 s f with
    | some st => some (st, true)
    | none => if stagOpen s p f.tenant.toNat f.csf then some (stStagInUse, false) else none

/-- The header bank mask of a tenant (R150). -/
def maskOfTenant (s : State) (t kt : Nat) : W16 := smGet 0 (actTab s).masks (4 * t + kt)

/-- Refuses the SOS frame of an admission, frees its buffers, and discards the frames that follow where R73 says so. -/
def refuseAdm (s : State) (p : Nat) (f : Frame) (bufs : Nat) (status policy retry : W16) (discard : Bool) : State :=
  let s := refuseSos { s with poolUsed := s.poolUsed - bufs } p f status policy retry
  let s := { s with adms := s.adms.filter fun a => a.port ≠ p }
  pump (if discard then beginDiscard s p f else s) p

/-- A vocabulary or grammar named at admission and homed in the slow tier starts a demand move (R274). (DEDUCED, log entry 31) -/
def wakeSlow (s : State) (f : Frame) (st : W16) : State :=
  let pr := parsePreamble f.payload
  let t := actTab s
  let o := if st = stVocabAbsent then smGet 0 t.vocabs pr.vocab else if st = stGrammarAbsent then smGet 0 t.grams pr.grammar
    else 0
  if o = 0 then s else demandMove s (o - 1) f.tenant.toNat

/-- The vocabulary that an SOS frame names in the active set (R110). -/
def namedVocab (s : State) (f : Frame) : Option Nat := residentVocab s (parsePreamble f.payload).vocab

/-- The grammar that it names when GEN is set (R211). -/
def namedGrammar (s : State) (f : Frame) : Option Nat :=
  let pr := parsePreamble f.payload
  if pr.gen then residentGrammar s pr.grammar else none

/-- The SOS frame at the head of a port's receive buffer goes through checks 1 to 3, and its header search is queued (R72,
R146, R155). (DEDUCED, log entry 76)  A header mask with EN 0 fails check 4 (R150), with the status No route, which R381 gives for a search
that finds nothing; the manual names no status for it. (DESIGN CHOICE, log entry 93) -/
def beginAdmission (s : State) (p : Nat) : State :=
  match (portOf s p).rxq with
  | [] => s
  | i :: r =>
    if !i.stored || i.frame.cls ≠ 1 || !i.frame.sos then s
    else
      let f := i.frame
      let t := f.tenant.toNat
      let m := maskOfTenant s t ktHeader
      -- a new SOS ends a discard under its STAG (R73)
      let took := endDiscard (modPort s p fun x => { x with rxq := r }) p t f.csf
      match earlyChecks s p f with
      | some (st, disc) => refuseAdm (wakeSlow took f st) p f i.bufs st 0 0 disc
      | none =>
        if !bmEn m then refuseAdm took p f i.bufs stSNoRoute 0 0 true
        else if !pipeRoom s m then s
        else pushSearch { took with adms := took.adms ++ [{ frame := f, port := p, bufs := i.bufs, vocabObj := (namedVocab s f).getD 0, gramObj := namedGrammar s f }] } m
          (.header p t (headerKey t p f.src (parsePreamble f.payload) f.csf) m)

/-- A first-match result decides check 4 (R146, R149, R107). -/
def takeFirst (s : State) (p : Nat) (r : FirstResult) : State :=
  match s.adms.find? fun a => decide (a.port = p) && !a.routed with
  | none => s
  | some a =>
    let no (st pol : W16) : State := refuseAdm s p a.frame a.bufs st pol 0 true
    match r with
    | .error => no stFenError 0
    | .miss => no stSNoRoute 0
    | .hit act _ _ =>
      if actType act = 2 then no stDenied (BitVec.ofNat 16 (actDenyPolicy act))
      else
        let fb := actFbport act
        let pol := BitVec.ofNat 16 (actPolicy act)
        if !fbUsable s fb then no stFabricPortIdle pol
        else { s with adms := s.adms.map fun b => if b.port = p then
          { b with routed := true, fbport := fb, inlane := 8 * (fb / 4) + actInlane act,
                   outlane := 8 * (fb / 4) + actOutlane act, policy := pol } else b }

/-! ## Check 5: duplicates (R105, R106) -/

/-- The cache entry that an SOS frame duplicates: kept until 1 s after its stream's last record (R105). -/
def cacheHit (s : State) (t : Nat) (reqid : W64) : Option ReqEntry :=
  s.reqs.find? fun e => decide (e.tenant = t) && decide (e.reqid = reqid) &&
    (match e.ended with | none => true | some at' => decide (s.now < at' + 1000000000))

/-- Ends an admission without a stream of its own. -/
def dropAdm (s : State) (a : Adm) : State :=
  { s with poolUsed := s.poolUsed - a.bufs, adms := s.adms.filter fun b => b.port ≠ a.port }

/-- A duplicate joins its open original (R106): what was already decided, where the copy starts, and from now on every
record and released byte. (DEDUCED, log entry 27) -/
def joinOriginal (s : State) (a : Adm) (c : Nat) : State :=
  let x := streamOf s c
  let f := a.frame
  let t := f.tenant.toNat
  let past := x.pending.map fun r => { r with dup := true, stag := f.csf }
  let clear := { recOf x vkClear sgDeep x.policy with dup := true, stag := f.csf, last := true,
                                                      spanEnd := releasedEnd x }
  let s := sendRecsTo s c a.port f.src f.csf t (past ++ [clear]) false
  let s := setStream s c { x with dups := x.dups ++ [{ port := a.port, stag := f.csf, src := f.src }] }
  pump (beginDiscard (dropAdm (telInc s (telTen t 2)) a) a.port f) a.port

/-- A duplicate of an original that has ended gets one record (R106). (DEDUCED, log entry 27) -/
def answerDuplicate (s : State) (a : Adm) (e : ReqEntry) : State :=
  let f := a.frame
  let t := f.tenant.toNat
  let r : VRecord := { refuseRec f stSDuplicate e.verdict.policy 0 with
    vkind := e.verdict.vkind, trunc := e.verdict.trunc, ooc := e.verdict.ooc, capped := e.verdict.capped, dup := true }
  let s := sendRecsTo s 65536 a.port f.src f.csf t [r] true
  pump (beginDiscard (dropAdm (telInc s (telTen t 2)) a) a.port f) a.port

/-! ## Check 6: quotas (R96, R103, R105, R266) -/

/-- Open contexts of a tenant. -/
def openOf (s : State) (t : Nat) : Nat := ((openStreams s).filter fun x => x.2.tenant = t).length

/-- The lowest free stream context. (DESIGN CHOICE, log entry 26) -/
def freeContext (s : State) : Option Nat := firstNat 32768 fun c => !(streamOf s c).inUse

/-- The tenant's share of the request-ID cache (R105, R336). -/
def cacheShare (s : State) (t : Nat) : Nat :=
  1048576 * (tenOf s t).ctxq / ((List.range 64).map fun u => (tenOf s u).ctxq).sum

/-- The cache without entries of the tenant that have expired (R105). -/
def freshReqs (s : State) : List ReqEntry :=
  s.reqs.filter fun e => match e.ended with | none => true | some at' => decide (s.now < at' + 1000000000)

/-- The hint when a tenant's share of the cache is full (R105). -/
def cacheWait (s : State) (t : Nat) : Nat :=
  match least ((freshReqs s).filterMap fun e => if e.tenant = t then e.ended else none) with
  | some at' => max 50000 (at' + 1000000000 - s.now)
  | none => busyWait s t + 1000000000

/-- The tenant and the engine have room for a further stream (R96, R103, R266, R268). -/
def quotaRoom (s : State) (t : Nat) : Bool :=
  decide (openOf s t < ctxQuota s t) && decide (103 * (openOf s t + 1) ≤ (tenOf s t).kvq) && (freeContext s).isSome

/-! ## The stream -/

/-- The stream that an admitted SOS frame opens (R108, R110, R151, R210, R287). -/
def newStream (s : State) (a : Adm) : Stream :=
  let f := a.frame
  let t := f.tenant.toNat
  let pr := parsePreamble f.payload
  let start := match a.gramObj with
    | some o => (match (objOf s o).content with | .grammar x => x.start | _ => 0)
    | none => 0
  { inUse := true, port := a.port, stag := f.csf, tenant := t, src := f.src, reqid := pr.reqid, vocab := pr.vocab,
    gen := pr.gen, grammar := if pr.gen then pr.grammar else 0, setEpoch := s.setEpoch, tab := s.actB,
    vocabObj := a.vocabObj, gramObj := a.gramObj, fbport := a.fbport, inlane := a.inlane,
    outlane := a.outlane, policy := a.policy, maskN := maskOfTenant s t ktNgram, maskH := maskOfTenant s t ktHashed,
    hedge := { slot := pr.grammar, state := start } }

/-- Opens the stream: context, KV cache object, cache entry (R105, R263, R266); the frame's text joins the prompt. -/
def openStream (s : State) (a : Adm) (c : Nat) : State :=
  let x := newStream s a
  let t := x.tenant
  let s := { s with adms := s.adms.filter fun b => b.port ≠ a.port,
                    reqs := freshReqs s ++ [{ tenant := t, reqid := x.reqid, port := a.port, stag := x.stag, ctx := c }] }
  let kv : Obj := { state := .home, kind := .kvCache, owner := t, size := 6684672,
                    home := { tier := .far, loc := placeKv s } }
  let s := setObj s (2 * c) kv
  let s := telInc (setStream s c x) (telTen t 0)
  pump (promptBytes s c (a.frame.payload.drop 16) a.frame.eos a.bufs) a.port

/-- Checks 5 and 6 of R72 on a routed admission.  What check 2 found must still hold when the stream opens: an accepted advance, too few
Rills, or a vocabulary or grammar that is no longer resident refuse it as check 2 does (R36, R260, R352). (DEDUCED, log entry 27) -/
def finishAdmission (s : State) (a : Adm) : State :=
  let f := a.frame
  let t := f.tenant.toNat
  match check2 s f with
  | some st => refuseAdm (wakeSlow s f st) a.port f a.bufs st a.policy 0 true
  | none =>
  if !fbUsable s a.fbport then refuseAdm s a.port f a.bufs stFabricPortIdle a.policy 0 true
  else match cacheHit s t (parsePreamble f.payload).reqid with
  | some e =>
    match e.ended with
    | some _ => answerDuplicate s a e
    | none =>
      if (streamOf s e.ctx).dups.length < 3 then joinOriginal s a e.ctx
      else refuseAdm s a.port f a.bufs stSBusy a.policy (retryUnits (busyWait s t)) true
  | none =>
    if !quotaRoom s t then refuseAdm s a.port f a.bufs stSBusy a.policy (retryUnits (busyWait s t)) true
    else if cacheShare s t ≤ ((freshReqs s).filter fun e => e.tenant = t).length then
      refuseAdm s a.port f a.bufs stSBusy a.policy (retryUnits (cacheWait s t)) true
    else match freeContext s with
      | some c => openStream s a c
      | none => s

/-- ADMISSION: the SOS frame of a port goes through checks 1 to 3 and its header search; once check 4 has passed, through
checks 5 and 6 (R72). -/
def execAdmission (p : Fin 64) (s : State) : Result :=
  running s fun s =>
    match s.adms.find? fun a => decide (a.port = p.val) with
    | some a => if a.routed then finishAdmission s a else s
    | none => beginAdmission s p

/-- FEN_FIRST_MATCH_RESULT: the oldest first-match result that stands at the head of its Ford reaches the Hub and decides check 4 (R24, R146). -/
def execFenFirstMatchResult (s : State) : Result :=
  running s fun s =>
    match takeResult s isFirst with
    | some (.first p r, s') => takeFirst s' p r
    | _ => s

end Sys2Proof.Machine
end

