-- ==== Sys2Proof/Machine/Intake.lean ====
section
/-! DEFINITION. The prompt path before the verdict: intake lanes and merging (R120 to R130), the count searches (R143,
R144, R148), and the cascade (R79 to R81). -/

namespace Sys2Proof.Machine

/-! ## Severity (R82) -/

/-- Severity as a number: Pass, Hold, Redact, Refuse. -/
def sevRank : Sev → Nat
  | .pass => 0 | .hold => 1 | .redact => 2 | .refuse => 3

/-- The more severe of two decisions, each with its policy (R82); of two equally severe ones the first gives the POLICY, which the manual
leaves open. (DESIGN CHOICE, log entry 90) -/
def worseOf (a : Sev × W16) (b : Sev × W16) : Sev × W16 := if sevRank a.1 < sevRank b.1 then b else a

/-- A source's decision takes part in the prompt verdict (R82, R83). -/
def addVerdict (x : Stream) (sev : Sev) (policy : W16) (spans : List Span) : Stream :=
  let w := worseOf (x.worst, x.worstPolicy) (sev, policy)
  { x with worst := w.1, worstPolicy := w.2, spans := x.spans ++ spans }

/-! ## Tokens -/

/-- Bytes of a prompt token. -/
def tokBytes (v : Vocab) (t : TokRec) : Nat := (v.tokens.getD t.id { bytes := [], emit := false }).bytes.length

/-- The prompt text offset after token `i`. -/
def tokEnd (v : Vocab) (toks : List TokRec) (i : Nat) : Nat :=
  match toks[i]? with
  | some t => t.off + tokBytes v t
  | none => 0

/-! ## The cascade (R79 to R81) -/

/-- Token numbers of a stream whose searches have not all been applied. -/
def openToks (s : State) (c : Nat) : List Nat :=
  ((s.fenQ.flatMap (·.2)).filterMap fun q => match q with
    | .count x i _ _ _ => if x = c then some i else none
    | .header _ _ _ _ => none) ++
  (s.fenRes.filterMap fun r => match r.2 with
    | .count x i _ _ => if x = c then some i else none
    | .first _ _ => none)

/-- How many leading tokens have all their counts applied. -/
def countedToks (s : State) (c : Nat) : Nat :=
  match least (openToks s c) with
  | some i => min i (issuedToks (streamOf s c))
  | none => issuedToks (streamOf s c)

/-- The score of the window of `n` tokens from token `i` (R79). -/
def windowScore (x : Stream) (i n : Nat) : Nat := ((x.weights.drop i).take n).sum

/-- Closes window `j` (R80): selected, dispatched, or kept from running by the cap. (DEDUCED, log entry 81) -/
def closeWindow (s : State) (c j : Nat) : State :=
  let x := streamOf s c
  let r := recOfStream s x
  let x := { x with nextWin := j + 1 }
  if windowScore x (256 * j) 512 < r.thresh then setStream s c x
  else if x.selected < r.cap then
    { setStream s c { x with selected := x.selected + 1, outstanding := x.outstanding + 1 } with
        jobs := s.jobs ++ [.window c j false] }
  else if x.capped then setStream s c x
  else telInc (setStream s c { x with capped := true }) (telTen x.tenant 9)

/-- Closes every window whose last token has been counted, in order (R80), with fuel. -/
def closeFuel : Nat → State → Nat → State
  | 0, s, _ => s
  | n + 1, s, c =>
    let j := (streamOf s c).nextWin
    if 256 * j + 512 ≤ countedToks s c then closeFuel n (closeWindow s c j) c else s

/-- The prompt has been read, merged, searched and counted to its end. -/
def promptCounted (s : State) (c : Nat) : Bool :=
  let x := streamOf s c
  x.intakeDone && x.chunks.isEmpty && decide (issuedToks x = x.tokens.length) && (openToks s c).isEmpty

/-- Closes windows, and at the end of the prompt dispatches the final window and the summary (R79, R81, R92). -/
def advanceCascade (s : State) (c : Nat) : State :=
  let s := closeFuel ((streamOf s c).tokens.length / 256 + 1) s c
  let x := streamOf s c
  if x.inUse && promptCounted s c && !x.finalQueued then
    let j := (x.tokens.length - 512)
    { setStream s c { x with finalQueued := true, outstanding := x.outstanding + 2 } with
        jobs := s.jobs ++ [.window c j true, .summary c] }
  else s

/-! ## Commands -/

/-- A stream whose bytes wait for its intake lane. -/
def laneWants (s : State) (lane : Nat) (within : Bool) (c : Nat) : Bool :=
  let x := streamOf s c
  x.inUse && decide (x.inlane = lane) && (x.segs.head?.map (·.within) == some within)

/-- The place of the turn of a lane's group: its streams within their contract, or the others (R108). -/
def turnOf (lane : Nat) (within : Bool) : Nat := 2 * lane + b2n within

/-- The stream that an intake lane serves next (R108): of those whose bytes arrived within their contract, else of the others, the first
at or after the turn of that group.  A turn serves one waiting segment, and the round goes by context number: the manual gives neither.
(DESIGN CHOICE, log entry 93) -/
def laneNext (s : State) (lane : Nat) : Option Nat :=
  let pick (w : Bool) : Option Nat :=
    let l := (s.streams.map (·.1)).filter (laneWants s lane w)
    match least (l.filter fun c => decide (smGet 0 s.laneTurn (turnOf lane w) ≤ c)) with
    | some c => some c
    | none => least l
  match pick true with
  | some c => some c
  | none => pick false

/-- Reads the first of a stream's waiting segments into units and chunks (R120 to R122). (DEDUCED, log entry 28) -/
def intakeRead (s : State) (c : Nat) : State :=
  let x := streamOf s c
  match x.segs with
  | [] => s
  | g :: r =>
    let v := vocabOf s x
    let ended := x.promptEnd && r.isEmpty
    let n := x.buf.length - (r.map (·.len)).sum
    let (us, rest) := decodeUnits ended n (x.buf.take n)
    let (cs, off, cur) := addUnits v x.openOff x.openChunk us
    let s := { s with poolUsed := s.poolUsed - g.bufs, laneTurn := smSet 0 s.laneTurn (turnOf x.inlane g.within) (c + 1) }
    let last : List Chunk := if ended && !cur.isEmpty then [{ off := off, units := cur }] else []
    let s := setStream s c { x with
      buf := rest ++ x.buf.drop n, bufOff := x.bufOff + unitsLen us, segs := r, promptBufs := x.promptBufs - g.bufs,
      chunks := x.chunks ++ cs ++ last,
      openChunk := if ended then [] else cur, openOff := if ended then off + unitsLen cur else off,
      intakeDone := ended }
    let s := if ended then telAdd s (telTen x.tenant 22) (x.textLen / 1024) else s
    let s := if ended && x.trunc then telInc s (telTen x.tenant 7) else s
    let s := if ended && x.ooc then telInc s (telTen x.tenant 8) else s
    advanceCascade s c

/-- INTAKE_LANE_READ (R108, R120 to R122, R129, R130): the lane reads the stream's bytes when it is the stream's turn, unless it stalls
(R155). (DEDUCED, log entry 28) -/
def execIntakeLaneRead (c : Fin 32768) (s : State) : Result :=
  runningOn s (streamBrook s c) fun s =>
    let lane := (streamOf s c).inlane
    if (streamOf s c).inUse && !laneStalled s lane && decide (laneNext s lane = some c.val) then intakeRead s c else s

/-- MERGE_WAVE: the next closed chunk of a stream is merged and its tokens enter the stream context in chunk order (R124,
R126, R128, R144). -/
def execMergeWave (c : Fin 32768) (s : State) : Result :=
  runningOn s (streamBrook s c) fun s =>
    let x := streamOf s c
    match x.chunks with
    | [] => s
    | k :: r =>
      if laneStalled s x.inlane then s
      else
      let toks := tokensOf k.off (mergeChunk (vocabOf s x) k.units)
      let s := setStream s c { x with
        chunks := r, tokens := x.tokens ++ toks, weights := x.weights ++ toks.map fun _ => 0 }
      advanceCascade (issueSearches s c) c

/-! ## Count results (R148, R149) -/

/-- The span of a match: from the first byte of its oldest token to the last byte of the token searched (R148). -/
def matchSpan (v : Vocab) (x : Stream) (tok len : Nat) (marker policy : W16) : Span :=
  { first := (x.tokens.getD (tok + 1 - len) { id := 0, fb := false, off := 0 }).off, past := tokEnd v x.tokens tok,
    marker := marker, policy := policy }

/-- A marker of the set for a vocabulary slot, picked by a free value: the manual does not say which of a tenant's markers stands for a span
whose source names none (R84). (DESIGN CHOICE, log entry 4) -/
def someMarker (r : SetRec) (vocab : Nat) (w : Nat) : W16 :=
  let l := r.markers.filter fun m => m.vslot = vocab
  ((l[w % l.length]?).map (·.markid)).getD 0

/-- Applies one match to a stream (R81, R148); the marker of a Fen Redact is some marker of the tenant. -/
def applyMatch (s : State) (c tok : Nat) (hit : Nat × W32) : State :=
  let x := streamOf s c
  let a := hit.2
  let k := actFeat a % 4096
  let feat := BitVec.ofNat 16 (actFeat a)
  let x := { x with
    weights := updAt x.weights tok (· + actWeight a),
    sketch := smSet 0 x.sketch k (min 32767 (smGet 0 x.sketch k + 1)) }
  if actVreq a = 1 then
    let sp := matchSpan (vocabOf s x) x tok hit.1 (someMarker (recOfStream s x) x.vocab (draw s).toNat) feat
    drawn (setStream s c (addVerdict x .redact feat [sp]))
  else if actVreq a = 2 then setStream s c (addVerdict x .refuse feat [])
  else setStream s c x

/-- A count result reaches the Hub (R148, R149). -/
def takeCount (s : State) (c tok : Nat) (hits : List (Nat × W32)) (err : Bool) : State :=
  if !(streamOf s c).inUse then s
  else if err then endControl s c stFenError
  else advanceCascade (hits.foldl (fun s h => applyMatch s c tok h) s) c

/-- FEN_COUNT_RESULT: the oldest count result that stands at the head of its Ford reaches the Hub (R24, R148). -/
def execFenCountResult (s : State) : Result :=
  running s fun s =>
    match takeResult s (fun r => !isFirst r) with
    | some (.count c tok hits err, s') => takeCount s' c tok hits err
    | _ => s

/-! ## A search enters its pipeline (R153, R154) -/

/-- The result of a count search (R148, R149): the length and action of every match. (DEDUCED, log entry 77) -/
def countSearch (s : State) (hashed : Bool) (m : W16) (k : FenKey) : List (Nat × W32) × Bool :=
  let hits := fenHits s m k
  (hits.map fun x => (matchLen hashed x.2.bits, fenAction x.2.bits), fenSuspect s m || !(fenBad hits).isEmpty)

/-- What a search returns from the banks as they stand (R153). -/
def searchResult (s : State) : Search → FenResult
  | .header p _ k m => .first p (firstSearch s m k)
  | .count c i h k m => let (hits, err) := countSearch s h m k; .count c i hits err

/-- The entries that a search meets and whose priority or action fails parity (R149). -/
def searchBad (s : State) : Search → List (Nat × Nat)
  | .header _ _ k m => fenBad (fenHits s m k)
  | .count _ _ _ k m => fenBad (fenHits s m k)

/-- FEN_SEARCH: the oldest search of a pipeline samples the banks as they stand and its result goes to the Hub, when the Ford there has
room; the room in the queue lets the searches in that are held for it (R23, R149, R153 to R155). -/
def execFenSearch (pl : Fin 16) (s : State) : Result :=
  runningOn s (28 + pl.val / 4) fun s =>
    match pipeQ s pl with
    | [] => s
    | q :: r =>
      if !resultRoom s pl then s
      else issueAll (queueScrub (pushResult { s with fenQ := smSet [] s.fenQ pl r } pl (searchResult s q)) (searchBad s q))

end Sys2Proof.Machine
end

