-- ==== Sys2Proof/Machine/RillArith.lean ====
section
/-! DEFINITION. Rill arithmetic (R170 to R188) and the words of live calibration (R192 to R200, R203, R207), in exact
integers. -/

namespace Sys2Proof.Machine

/-! ## Rounding and saturation -/

/-- rshift_round of R180: to nearest, ties away from zero. -/
def rshiftRound (x : Int) (s : Nat) : Int :=
  if s = 0 then x else x.sign * Int.ofNat ((x.natAbs + 2 ^ (s - 1)) / 2 ^ s)

/-- sat of R178. -/
def satInt (x lo hi : Int) : Int := if x < lo then lo else if hi < x then hi else x

/-- bitlen of R192. -/
def bitlen (x : Nat) : Nat := if x = 0 then 0 else Nat.log2 x + 1

/-- ceil_div_p2 of R192. -/
def ceilDivP2 (x : Nat) (t : Int) (d : Nat) : Nat :=
  if 0 ≤ t then ceilDiv (x * 2 ^ t.toNat) d else ceilDiv x (d * 2 ^ (-t).toNat)

/-- rdiv of R192: to nearest, ties upward. -/
def rdiv (a b : Nat) : Nat := (2 * a + b) / (2 * b)

/-! ## The Bell grid (R170 to R172) -/

/-- The magnitudes of the grid. -/
def bellLevels : List Nat := [0, 9, 19, 31, 45, 62, 86, 127]

/-- The level of a code (R170). -/
def level (code : BitVec 4) : Int :=
  let m : Int := Int.ofNat (bellLevels.getD (code.toNat % 8) 0)
  if bitAt code 3 then -m else m

/-- bell_index of R172. -/
def bellIndex (t : Nat) : Nat :=
  if t ≤ 4 then 0 else if t ≤ 13 then 1 else if t ≤ 24 then 2 else if t ≤ 37 then 3 else if t ≤ 53 then 4
  else if t ≤ 73 then 5 else if t ≤ 106 then 6 else 7

/-- bell_encode of R172. -/
def bellEncode (v : Int) (emul eshift : Nat) : BitVec 4 :=
  let t := min (rshiftRound (Int.ofNat (v.natAbs * emul)) eshift).toNat 127
  let k := bellIndex t
  if k = 0 then 0 else if v < 0 then BitVec.ofNat 4 (8 + k) else BitVec.ofNat 4 k

/-- Codes packed two to a byte (R171). -/
def packCodes : List (BitVec 4) → List Byte
  | a :: b :: r => BitVec.ofNat 8 (a.toNat + 16 * b.toNat) :: packCodes r
  | [a] => [BitVec.ofNat 8 a.toNat]
  | [] => []

/-- The code of element `i` of a packed list (R171). -/
def codeAt (l : List Byte) (i : Nat) : BitVec 4 := BitVec.ofNat 4 ((l.getD (i / 2) 0).toNat / 16 ^ (i % 2))

/-! ## Scale words (R174, R176) -/

/-- The mantissa of a weight or activation group scale word. -/
def mantOf (w : W16) : Nat := fld w 0 12

/-- A channel word: WEXP, BEXP and BIAS. -/
def chanWexp (w : W64) : Nat := fld w 0 6
def chanBexp (w : W64) : Nat := fld w 6 6
def chanBias (w : W64) : Int := (BitVec.ofNat 32 (fld w 12 32)).toInt

/-- AEXP of a row exponent word. -/
def aexpOf (w : W16) : Nat := fld w 0 6

/-- KMANT and KEXP of a KV group scale word. -/
def kmantOf (w : W16) : Nat := fld w 0 12
def kexpOf (w : W16) : Nat := fld w 12 4

/-- An int8 or int16 as stored. -/
def int8 (b : Byte) : Int := b.toInt
def int16 (w : W16) : Int := w.toInt

/-- The code for reduction element `k` and output `c` of a tensor: code tiles of 32 by 32, by output tile and then reduction tile (R176). -/
def tensorCode (t : TensorDesc) (c k : Nat) : BitVec 4 :=
  codeAt t.codes (1024 * (c / 32 * (t.reduction / 32) + k / 32) + 32 * (k % 32) + c % 32)

/-! ## Group arithmetic (R177, R178) -/

/-- The operands of one output channel of a row (R177, R178), and the KEXP that goes to the requantiser with it (R184). -/
structure DotIn where
  codes : List (BitVec 4)
  acts  : List Int
  wmant : List Nat
  amant : List Nat
  wexp  : Nat
  bexp  : Nat
  bias  : Int
  aexp  : Nat
  gsize : Nat
  kexp  : Nat
  deriving DecidableEq, Repr

/-- bias_init of R178, and whether sat changed it. -/
def biasInit (i : DotIn) : Int × Bool :=
  let d : Int := Int.ofNat i.wexp + Int.ofNat i.aexp - 8 - Int.ofNat i.bexp
  let b := if 0 ≤ d then i.bias * 2 ^ d.toNat else rshiftRound i.bias (-d).toNat
  let y := satInt b (-(2 ^ 45 - 1)) (2 ^ 45 - 1)
  (y, decide (y ≠ b))

/-- The combined multiplier of a group (R177). -/
def combined (w a : Nat) : Int := rshiftRound (Int.ofNat (w * a)) 8

/-- The partial sum of one group. -/
def partialSum (codes : List (BitVec 4)) (acts : List Int) : Int :=
  ((codes.zip acts).map fun x => level x.1 * x.2).foldl (· + ·) 0

/-- dot of R177, and whether its bias clipped. -/
def dot (i : DotIn) : Int × Bool :=
  let (b, clip) := biasInit i
  let n := i.codes.length / max i.gsize 1
  let acc := (List.range n).foldl (fun acc g =>
    acc + partialSum ((i.codes.drop (g * i.gsize)).take i.gsize) ((i.acts.drop (g * i.gsize)).take i.gsize) *
      combined (i.wmant.getD g 0) (i.amant.getD g 0)) b
  (acc, clip)

/-! ## Requantisation (R180 to R182) -/

/-- A requant word (R181). -/
structure ReqWord where
  omul   : Nat
  oshift : Nat
  wide   : Bool
  tbl    : Bool
  deriving DecidableEq, Repr

/-- Reads a requant word (R181); bits [31:24] are reserved and ignored. -/
def reqWord (w : W32) : ReqWord := { omul := fld w 0 16, oshift := fld w 16 6, wide := bitAt w 22, tbl := bitAt w 23 }

/-- requantise of R180: the output and whether it saturated.  An output table that the program has not loaded reads as 0 (R182), of which
the manual says nothing. (DESIGN CHOICE, log entry 95) -/
def requantise (acc : Int) (w : ReqWord) (kexp : Nat) (table : List Int) : Int × Bool :=
  let y := rshiftRound (acc * Int.ofNat w.omul) (min (w.oshift + kexp) 63)
  if w.wide then
    let o := satInt y (-32768) 32767
    (o, decide (o ≠ y))
  else
    let o := satInt y (-128) 127
    (if w.tbl then table.getD (o + 128).toNat 0 else o, decide (o ≠ y))

/-! ## First pass (R192) -/

/-- The words of one output group: AMANT, OMUL, OSHIFT before its limit. -/
structure GroupWords where
  amant  : Nat
  omul   : Nat
  oshift : Int
  deriving DecidableEq, Repr

/-- words_for of R192 for a mantissa and t, with OSHIFT before the limit of 63; a zero mantissa gives zero words. -/
def wordsFor (amant : Nat) (t : Int) : GroupWords :=
  if amant = 0 then { amant := 0, omul := 0, oshift := 0 }
  else
    let n := bitlen amant
    { amant := amant, omul := rdiv (2 ^ (14 + n)) amant, oshift := 14 + Int.ofNat n - t }

/-- OSHIFT as the requantiser uses it. -/
def shiftOf (w : GroupWords) : Nat := min w.oshift.toNat 63

/-- A row's words: AEXP, the words of each group, and whether the clamp changed t (R192, R193). -/
structure RowWords where
  aexp   : Nat
  groups : List GroupWords
  clamp  : Bool
  deriving DecidableEq, Repr

/-- The larger of the numbers of a list, 0 for none. -/
def maxOf (l : List Nat) : Nat := l.foldl max 0

/-- first_pass_row of R192. -/
def firstPassRow (m : List Nat) (eIn : Int) : RowWords :=
  let mr := maxOf m
  if mr = 0 then { aexp := 0, groups := m.map fun _ => { amant := 0, omul := 0, oshift := 0 }, clamp := false }
  else
    let t0 : Int := 19 - Int.ofNat (bitlen mr)
    let t1 := if 4095 < ceilDivP2 mr t0 127 then t0 - 1 else t0
    let t := min (max t1 (-eIn)) (63 - eIn)
    { aexp := (t + eIn).toNat,
      groups := m.map fun g => if g = 0 then { amant := 0, omul := 0, oshift := 0 }
        else wordsFor (min (ceilDivP2 g t 127) 4095) t,
      clamp := decide (t ≠ t1) }

/-! ## KV groups (R195, R186) -/

/-- kv_group_words of R195: EMUL, ESHIFT, KMANT, KEXP. -/
def kvGroupWords (m : Nat) : Nat × Nat × Nat × Nat :=
  if m = 0 then (0, 0, 0, 0)
  else
    let b := bitlen m
    let es := b + 6
    (127 * 2 ^ es / m, es, rdiv (m * 2 ^ (18 - b)) 127, 16 - b)

/-- The codes and the scale word of a full group (R188, R194, R195). -/
def kvEncode (g : List Int) : List Byte × List Byte :=
  let m := maxOf (g.map Int.natAbs)
  let (em, es, km, ke) := kvGroupWords m
  (packCodes (g.map fun v => bellEncode v em es), leBytes 2 (km + at' ke 12))

/-! ## The carried scale (R198, R199) -/

/-- The kinds of breach (R199). -/
inductive Breach where
  | high | low
  deriving DecidableEq, Repr

/-- breach of R199, with the limit on a derived OSHIFT; a group whose maximum is 0 never breaches low. (DEDUCED, log entry 35) -/
def breachOf (m amantC : Nat) (aexpC : Nat) (eIn : Int) : Option Breach :=
  let d : Int := Int.ofNat aexpC - eIn
  let lhs := m * 2 ^ d.toNat
  let rng := 127 * amantC * 2 ^ (-d).toNat
  if 2 * rng < lhs then some .high
  else if 0 < m ∧ 16 * lhs < rng then some .low
  else
    let os := (wordsFor amantC d).oshift
    if os < 0 then some .high else if 63 < os ∧ 0 < m then some .low else none

/-! ## Running estimates (R203, R207) -/

/-- lg of R207. -/
def lgOf (amant : Nat) (aexp : Nat) : Int :=
  256 * (Int.ofNat (bitlen amant) - 1 - Int.ofNat aexp) + Int.ofNat (amant * 256 / 2 ^ (bitlen amant - 1)) - 256

/-- An estimate that holds nothing yet (R207, R208). -/
def estEmpty : Int := -32768

/-- One refresh of an estimate (R207). -/
def refreshEst (est : Int) (amant aexp : Nat) : Int :=
  if amant = 0 then est
  else if est = estEmpty then lgOf amant aexp
  else est + rshiftRound (lgOf amant aexp - est) 3

/-- shl_round of R207. -/
def shlRound (x : Int) (s : Int) : Int := if 0 ≤ s then x * 2 ^ s.toNat else rshiftRound x (-s).toNat

/-- The carried entry that a point's estimates give (R203, R207). -/
def seedPoint (est : List Int) : Nat × List Nat :=
  let full := est.filter (· ≠ estEmpty)
  let kmax := (full.map fun e => e.fdiv 256).foldl max (-(2 : Int) ^ 15)
  let aexp := min (11 - kmax) 63
  (aexp.toNat, est.map fun e =>
    if e = estEmpty then 0
    else
      let k := e.fdiv 256
      (shlRound (256 + (e - 256 * k)) (k + aexp - 8)).toNat)

end Sys2Proof.Machine
end

