-- ==== Sys2Proof/Machine/CalibOps.lean ====
section
/-! DEFINITION. Live calibration: what a program's calibrated points give (R190 to R201), a Rill's counter blocks (R204 to
R206), and how a flush takes them into the estimate tables (R206, R207). -/

namespace Sys2Proof.Machine

/-! ## One row of a calibrated point -/

/-- An accumulator as it leaves the group-scale unit: its value, whether its bias clipped, and the KEXP beside it (R177, R178, R184). -/
structure Acc where
  val  : Int
  clip : Bool := false
  kexp : Nat := 0
  deriving DecidableEq, Repr

/-- One row of a calibrated point (R191): the point's number, its input exponent, and its accumulators by output group. -/
structure PointObs where
  pt     : Nat
  eIn    : Int
  groups : List (List Acc)
  deriving DecidableEq, Repr

/-- The largest magnitude of an output group (R192). -/
def groupMax (g : List Acc) : Nat := maxOf (g.map fun a => a.val.natAbs)

/-- What one row leaves in the counters: its outputs, clips, bias clips, clips of each group window, and its clamp. -/
structure RowCount where
  nout  : Nat
  nbias : Nat
  wins  : List Nat
  clamp : Bool
  deriving DecidableEq, Repr

/-- The requant word of an output group (R192).  The manual gives OMUL, OSHIFT and WIDE = 0 only: TBL is 0 here. (DESIGN CHOICE, log entry 95) -/
def groupReq (w : GroupWords) : ReqWord := { omul := w.omul, oshift := shiftOf w, wide := false, tbl := false }

/-- Clipped outputs of one group window under the words used (R180, R205). -/
def windowClips (w : GroupWords) (g : List Acc) : Nat := g.countP fun x => (requantise x.val (groupReq w) x.kexp []).2

/-- A row as run: the counts under the words used, and the present words that the first pass finds (R192, R201). -/
def runRow (o : PointObs) (used : List GroupWords) : RowCount :=
  { nout := (o.groups.map List.length).sum,
    nbias := (o.groups.map fun g => g.countP (·.clip)).sum,
    wins := (used.zip o.groups).map fun x => windowClips x.1 x.2,
    clamp := (firstPassRow (o.groups.map groupMax) o.eIn).clamp }

/-- The present words of a row (R192). -/
def presentWords (o : PointObs) : RowWords := firstPassRow (o.groups.map groupMax) o.eIn

/-- The words that a carried entry gives at a point: t = AEXP − E_in (R198). -/
def carriedWords (e : Nat × List Nat) (eIn : Int) : List GroupWords :=
  e.2.map fun a => wordsFor a (Int.ofNat e.1 - eIn)

/-- The first breaching group of a point against its carried entry (R199). -/
def pointBreach (e : Nat × List Nat) (o : PointObs) : Option Breach :=
  ((o.groups.map groupMax).zip e.2).findSome? fun x => breachOf x.1 x.2 e.1 o.eIn

/-- The carried entry of point `k`; no entry is one of zeros, so a nonzero maximum breaches. -/
def entryAt (c : Carried) (k : Nat) (n : Nat) : Nat × List Nat := c.points.getD k (0, List.replicate n 0)

/-! ## Counter blocks -/

/-- A saturating addition in a field of `w` bits (R204). -/
def satAdd (w a b : Nat) : Nat := min (a + b) (2 ^ w - 1)

/-- Two point records added, field by field; estimates as the first has them. -/
def addPoint (a b : PointRec) : PointRec :=
  { nout := satAdd 48 a.nout b.nout, nclip := satAdd 32 a.nclip b.nclip, nbias := satAdd 32 a.nbias b.nbias,
    wb0 := satAdd 32 a.wb0 b.wb0, wb1 := satAdd 32 a.wb1 b.wb1, wb2 := satAdd 32 a.wb2 b.wb2,
    wb3 := satAdd 32 a.wb3 b.wb3, wb4 := satAdd 32 a.wb4 b.wb4, nhigh := satAdd 32 a.nhigh b.nhigh,
    nlow := satAdd 32 a.nlow b.nlow, nclamp := satAdd 16 a.nclamp b.nclamp, nref := satAdd 32 a.nref b.nref,
    est := a.est }

/-- Group windows whose clip count lies in a range (R205). -/
def winsIn (l : List Nat) (lo hi : Nat) : Nat := l.countP fun x => decide (lo ≤ x) && decide (x ≤ hi)

/-- The counts of a row as a point record (R204, R205). -/
def rowPoint (r : RowCount) : PointRec :=
  { nout := r.nout, nclip := r.wins.sum, nbias := r.nbias, wb0 := winsIn r.wins 0 0, wb1 := winsIn r.wins 1 1,
    wb2 := winsIn r.wins 2 3, wb3 := winsIn r.wins 4 7, wb4 := r.wins.countP (8 ≤ ·), nclamp := b2n r.clamp }

/-- Adds to point `k` of a list of records, lengthening it as needed. -/
def addAt (l : List PointRec) (k : Nat) (p : PointRec) : List PointRec :=
  let l := l ++ List.replicate (k + 1 - l.length) ({} : PointRec)
  updAt l k fun x => addPoint x p

/-- The counter block of a Rill for a classifier (R206). -/
def blockOf (s : State) (rill obj : Nat) : CounterBlock :=
  (s.counters.find? fun b => decide (b.rill = rill) && decide (b.obj = obj)).getD
    { rill := rill, obj := obj, points := [], words := [] }

/-- Puts a counter block in its place. -/
def putBlock (s : State) (b : CounterBlock) : State :=
  { s with counters := (s.counters.filter fun x => !(decide (x.rill = b.rill) && decide (x.obj = b.obj))) ++ [b] }

/-- Counts rows in a Rill's block for a classifier (R204 to R206), with the range clamps of R193 in telemetry. (DEDUCED, log entry 35) -/
def countRows (s : State) (rill obj : Nat) (rows : List (Nat × RowCount)) : State :=
  if rows.isEmpty then s
  else
    let b := blockOf s rill obj
    telAdd (putBlock s { b with points := rows.foldl (fun l r => addAt l r.1 (rowPoint r.2)) b.points }) (telEng 8)
      (rows.countP fun r => r.2.clamp)

/-- Counts the rows of a program, each in the block of the Rill that ran it (R206). -/
def countProgram (s : State) (rills : List Nat) (obj : Nat) (rows : List (Nat × Nat × RowCount)) : State :=
  rills.foldl (fun s r => countRows s r obj ((rows.filter fun x => x.1 = r).map (·.2))) s

/-- Counts the event of R200 against a point, and the breach total of the tenant. -/
def countBreach (s : State) (rill obj tenant pt : Nat) (k : Breach) : State :=
  let b := blockOf s rill obj
  let p : PointRec := match k with | .high => { nhigh := 1 } | .low => { nlow := 1 }
  telInc (putBlock s { b with points := addAt b.points pt p })
    (telTen tenant (match k with | .high => 13 | .low => 14))

/-- The words of a row as the carried block holds them (R196). -/
def blockWords (o : PointObs) : Nat × List Nat := let w := presentWords o; (w.aexp, w.groups.map (·.amant))

/-- The present words of a step, in point order whatever the order of the rows (R196, R201): `n` points. -/
def presentBlock (n : Nat) (l : List PointObs) : List (Nat × List Nat) :=
  (List.range n).map fun k => ((l.find? fun o => o.pt = k).map blockWords).getD (0, [])

/-! ## The carried block at a step (R196, R203, R209) -/

/-- Bytes of a weight tensor's three arrays (R176). -/
def tensorSize (t : TensorDesc) : Nat := t.codes.length + 2 * t.scales.length + 8 * t.chans.length

/-- The classifier object's description. -/
def classDesc (s : State) (obj : Nat) : ClassDesc :=
  match (objOf s obj).content with
  | .classifier _ d => d
  | _ => { manIdx := 0, tensors := [], points := [], kbases := [] }

/-- The role of a classifier object (R281): 0 window, 1 summary, 2 first stage, 3 deep. -/
def classRole (s : State) (obj : Nat) : Option Nat :=
  match (objOf s obj).content with
  | .classifier r _ => some r
  | _ => none

/-- The calibration seed of a classifier set. -/
def seedOf (s : State) (r : SetRec) : Carried :=
  match (objOf s r.seed).content with
  | .seed c => c
  | _ => {}

/-- The block of a stream's first step (R203): the running estimates when every point has a refresh, else the seed. -/
def firstBlock (s : State) (r : SetRec) : Carried :=
  let t := smGet [] s.ests r.fst
  if !t.isEmpty && t.all (fun p => decide (1 ≤ p.nref)) then { points := t.map fun p => seedPoint p.est }
  else seedOf s r

/-- The carried block that a step of a stream reads (R197, R203): its own, or at its first step the block of the start. -/
def carriedOf (s : State) (c : Nat) : Carried :=
  let b := smGet {} s.blocks c
  if b.points.isEmpty then firstBlock s (recOfStream s (streamOf s c)) else b

/-! ## Flushing (R206, R207) -/

/-- One refresh of a point's estimates (R207). -/
def refreshPoint (p : PointRec) (w : Nat × List Nat) : PointRec :=
  { p with nref := satAdd 32 p.nref 1,
           est := (p.est.zip w.2).map fun x => refreshEst x.1 x.2 w.1 }

/-- Adds a counter block into its estimate table, and refreshes the estimates of a first-stage classifier. -/
def flushBlock (s : State) (b : CounterBlock) : State :=
  match s.ests.find? fun x => x.1 = b.obj with
  | none => s
  | some (_, t) =>
    let t := (t.zipIdx).map fun x => addPoint x.1 (b.points.getD x.2 {})
    let t := if classRole s b.obj = some 2 then
        (t.zipIdx).map fun x => match b.words[x.2]? with
          | some w => refreshPoint x.1 w
          | none => x.1
      else t
    { s with ests := smIns b.obj t s.ests }

/-- Flushes one Rill: its counter blocks go into the point records and are cleared (R206). -/
def flushRill (s : State) (rill : Nat) : State :=
  let mine := s.counters.filter fun b => b.rill = rill
  mine.foldl flushBlock { s with counters := s.counters.filter fun b => b.rill ≠ rill }

/-- A fresh estimate table for a classifier (R208): counters 0, estimates empty for the first-stage classifier. -/
def freshTable (role : Nat) (d : ClassDesc) : List PointRec :=
  d.points.map fun p => { est := if role = 2 then List.replicate p.groups estEmpty else [] }

/-- Counters of a Rill that a fault lost, logged when there were any (R206). -/
def loseCounters (s : State) (rill : Nat) : State :=
  if s.counters.any fun b => b.rill = rill then
    note { s with counters := s.counters.filter fun b => b.rill ≠ rill } evCountersLost skRill rill [rill, 0, 0]
  else s

end Sys2Proof.Machine
end

