-- ==== Sys2Proof/WellFormed.lean ====
section
/-! DEFINITION. Which commands are well formed: what can arrive at the block's ports at all.  The meanings are total and do not
lean on it; a claim about what arrives may. -/

namespace Sys2Proof

/-- A frame arrives as whole flits of 64 bytes, at least one (R42, R45). -/
def WireFrame.wf (f : WireFrame) : Bool := decide (f.bytes.length % 64 = 0) && decide (64 ≤ f.bytes.length)

/-- Parameter words: PARAM0 to PARAM15 (R376). -/
def MbxArgs.wf (a : MbxArgs) : Bool := decide (a.par.length ≤ 16)

/-- FCLASS 3 is reserved, so no kind or SOM of it is spoken of (R360). -/
def BadFlit.wf : BadFlit → Bool
  | .reservedClass => true
  | .reservedKind c => decide (c ≠ 3)
  | .noSom c => decide (c ≠ 3)
  | .poisoned c => decide (c = 0) || decide (c = 1)

/-- A list without repeats. -/
def noRepeat {α : Type} [DecidableEq α] : List α → Bool
  | [] => true
  | x :: r => !r.contains x && noRepeat r

/-- A Rill's SRAM in bytes (R166). -/
def sramBytes : Nat := 524288

/-- The words or scale words of a product lie in the SRAM. -/
def ReqSrc.wf : ReqSrc → Bool
  | .channel a | .element a => decide (a + 4 ≤ sramBytes)
  | .point pt g am ae => decide (pt < 128) && decide (1 ≤ g) && decide (am < sramBytes) && decide (ae + 2 ≤ sramBytes)

/-- A unit's operands lie in the SRAM and in the planes of R186, and its groups have a size of R176. -/
def RillOp.wf : RillOp → Bool
  | .input a b => decide (a + b.length ≤ sramBytes)
  | .table a => decide (a + 256 ≤ sramBytes)
  | .product _ a m e src o => decide (a < sramBytes) && decide (m < sramBytes) && decide (e + 2 ≤ sramBytes) && src.wf && decide (o < sramBytes)
  | .scores n q m src o => decide (n < 96) && decide (q + 64 ≤ sramBytes) && decide (m + 2 ≤ sramBytes) && src.wf && decide (o < sramBytes)
  | .weigh n w _ o => decide (n < 96) && decide (w < sramBytes) && decide (o < sramBytes)
  | .values n w m g src o => decide (n < 96) && decide (w < sramBytes) && decide (m < sramBytes) && ([32, 64, 128].contains g) && src.wf &&
      decide (o < sramBytes)
  | .kvWrite n a => decide (n < 96) && decide (a + 128 ≤ sramBytes)

/-- The plane that an operation writes. -/
def RillOp.wrote : RillOp → List Nat
  | .kvWrite n _ => [n]
  | _ => []

/-- The plane that an operation reads. -/
def RillOp.reads : RillOp → List Nat
  | .scores n _ _ _ _ | .weigh n _ _ _ | .values n _ _ _ _ _ => [n]
  | _ => []

/-- No plane is read before the step has written it (R187). -/
def ownFirst : List Nat → List RillOp → Bool
  | _, [] => true
  | w, o :: r => o.reads.all (w.contains ·) && ownFirst (o.wrote ++ w) r

/-- 64-bit words and banks of a Rill's SRAM (R166). -/
def sramWords : Nat := 65536
def sramBanks : Nat := 16

/-- A program uses the units as R166 to R188 allow, and reads no plane before it has written its own slot there (R187); what fails in the SRAM
fails inside it (R166). -/
def ProgOut.wf (o : ProgOut) : Bool :=
  let ops := o.ops.map (·.2)
  ops.all RillOp.wf && ownFirst [] ops && (o.flips.all fun x => decide (x.2 < sramWords)) &&
  o.sramErr.toList.all fun e => decide (e.bank < sramBanks) && decide (e.word < sramWords)

/-- The command can be given to the block.  Rows whose operands admit every value are well formed always. -/
def Instr.wf : Instr → Bool
  | .hello _ f | .dataFrame _ f | .ack _ f | .nak _ f | .credit _ f => f.wf
  | .rillProgramComplete _ o => o.wf
  | .rillDispatch l => !l.isEmpty && noRepeat l
  | .fabricTokens _ _ _ _ ids => decide (1 ≤ ids.length) && decide (ids.length ≤ 12)
  | .fabricPass _ _ _ _ _ pl => decide (1 ≤ pl.length)
  | .fabricData _ fl => decide (1 ≤ fl.body.length) && decide (fl.body.length ≤ 50)
  | .fabricCreditReturn _ cls cnt => decide (cls ≠ 3) && decide (cnt ≠ 0)
  | .fabricReservedFlit _ b => b.wf
  | .contentCompletion _ _ st => decide (st.toNat ≤ 4)
  | .objectReload obj _ _ => decide (obj < 2 ^ 17)
  | .moveSourceFree obj => decide (obj < 2 ^ 17)
  | .partitionReady l => decide (l.length = 8)
  | .requestFirmwareData _ d => decide (d.length ≤ 4096)
  | .objQuery a | .objMove a | .slowGrant a | .slowRelease a | .baleCommit a | .baleAbort a | .baleStatus a
  | .fenRead a | .fenInvalidate a | .fenWrite a | .fenInsert a | .fenMask a | .calibRead a | .calibClear a
  | .tenantReset a | .deltaSet a | .portReset a | .cfgRead a | .bankStatus a | .unknownCommand _ a => a.wf
  | .baleLoad a _ => a.wf
  | .bankWrite a _ => a.wf
  | .lcRequest a buf => a.wf && decide (buf.length = 256)
  | .keyProgram a buf => a.wf && decide (buf.length = 96)
  | .telCounterRead off => decide (0x40000 ≤ off) && decide (off < 0x47000) && decide (off % 4 = 0)
  | .registerWrite off _ => decide (off < 2 ^ 20) && decide (off % 4 = 0)
  | .portResetRelease fabric n => decide (n < if fabric then 16 else 64)
  | .porNRelease _ | .warmNReset _ | .farWipeComplete | .haywardFirmwareStart | .partitionTimeout | .lnkLockRise _
  | .lnkLockFall _ | .fecUncorrectable _ | .helloRepeat _ | .trainingTimeout _ | .retrainTimeout _
  | .failedPortReset _ | .strayBodyFlit _ | .replayTimer _ | .episodeTimeout _ | .linkFrameSend _ _
  | .fencedHandover _ | .fencedRouteRelease _ | .class0ReserveRelease _ | .poolAllocate | .admission _
  | .intakeLaneRead _ | .mergeWave _ | .fenSearch _ | .fenFirstMatchResult | .fenCountResult
  | .hedgeStep _ | .outflowToken _ | .firstStageStep _ | .deepTick _
  | .deepPassStart _ _ | .deepPassOverrun _ _ | .streamDeadline _ | .calibFlush | .fenBankOp _ | .fenOpComplete _
  | .fenScrub | .heathCurrentStretch _ _ | .stretchRelease _ | .throttleStepTick _ | .powerEstimate _
  | .thermalTrip _ | .tripClear | .powerGrantChange _ | .sagEntry | .sagExit | .brookLockLost _
  | .plotSupplyFault _ | .rillPowerDown _ | .rillPowerUp _ | .watchdogExpiry | .haywardSramError
  | .flashCommandComplete _ | .flashTimeout | .logProgram | .signal _ _ _ | .wait _ _ _ | .decrement _ _ _
  | .read _ _ _ | .set _ _ _ | .bind _ _ _ | .remoteSignal _ _ _ | .resignal _ _ _ | .sluiceArrive _ _ _
  | .sluiceWait _ _ _ | .linkSignal _ | .linkAck _ | .linkArrive _ | .linkReject _ | .waiterDeadline
  | .sluiceArrivalDeadline _ | .visibilityHoldRelease _ | .tagQuarantineExpiry | .completionTimeout _
  | .weirDselWrite _ | .dmaTransferComplete _ _ | .memoryReadResponse _ _ _ _ | .memoryWriteResponse _ _ _
  | .contentWriteAck _ | .baleLoadEnd | .setEpochSwitch | .fabricFhcrcFail _ | .fabricCreditTimeout _
  | .fabricPortResetTimer _ | .mctpMessage _ | .setEndpointId _ | .getEndpointId | .getEndpointUuid
  | .getMctpVersionSupport | .getMessageTypeSupport | .getVersion | .getCapabilities | .negotiateAlgorithms _ _
  | .getDigests | .getCertificate _ _ _ | .challenge _ _ | .getMeasurements _ _ _ | .setEventReceiver _ _
  | .pldmSensorRead _ | .platformEventRetry | .pldmFirmwareUpdate _ _ _ _ | .activateFirmware _ | .genTimeloRead
  | .logFselWrite _ | .logFetchComplete | .porNAssert | .brookLockRegained _ | .fuseProgramComplete | .jtagAccess _
  | .fabricUnknownOperation _ _ _ _ => true

end Sys2Proof
end

