-- ==== Sys2Proof/Machine/RillRun.lean ====
section
/-! DEFINITION. What a Rill program does with the units of its Rills (R166 to R188, R190 to R201): SRAM reads and writes under SECDED
(R168), products, scores, attention weights and values, requantisation from its three sources (R181), KV writes, and the run of a whole
program on present or carried scales.  The order of the units' work is the microcode's, which is an operand (R167). -/

namespace Sys2Proof.Machine

/-- A program as it runs: the SRAM and its flipped bits, the stream's KV cache, the output table, the rows of calibrated points so far,
what they count on each Rill, the reads corrected, and the first breach. -/
structure RillRun where
  sram   : SMap (List Host.Cell) := []
  flips  : List (Nat × Nat) := []
  kv     : List Host.Cell := []
  table  : List Int := []
  obs    : List PointObs := []
  rows   : List (Nat × Nat × RowCount) := []
  fixed  : Nat := 0
  breach : Option (Nat × Breach) := none
  deriving DecidableEq, Repr

/-- What a program runs on: its Rills, its classifier with the Rill and the address of its home there, the stream position of a first-stage
step, and the carried block while its words come from there (R190). -/
structure RillCtx where
  rills   : List Nat
  desc    : ClassDesc
  homeAt  : Option (Nat × Nat)
  pos     : Nat
  carried : Option Carried
  deriving DecidableEq, Repr

/-! ## SRAM (R166, R168) -/

/-- Bytes of a Rill's SRAM (R166). -/
def rillBytes : Nat := 524288

/-- Words are read: every flipped bit in them is corrected in the data and counted; the stored word stays (R168). -/
def RillRun.check (x : RillRun) (r a n : Nat) : RillRun := { x with fixed := x.fixed + x.flips.countP (inWords r a n) }

/-- A read of bytes (R168). -/
def RillRun.load (x : RillRun) (r a n : Nat) : RillRun × List Byte := (x.check r a n, memRead 0 (smGet [] x.sram r) a n)

/-- A write, within the SRAM; a word that is written is good again (R168). -/
def RillRun.store (x : RillRun) (r a : Nat) (l : List Byte) : RillRun :=
  let l := l.take (rillBytes - a)
  { x with sram := smSet [] x.sram r (memWrite 0 (smGet [] x.sram r) a l), flips := x.flips.filter fun y => !inWords r a l.length y }

/-- The 16-bit word number `i` of a list of bytes. -/
def w16At (l : List Byte) (i : Nat) : W16 := BitVec.ofNat 16 (leAt l (2 * i) 2)

/-- An int8 or int16 output as bytes. -/
def outBytes (wide : Bool) (v : Int) : List Byte :=
  if wide then leBytes 2 (BitVec.ofInt 16 v).toNat else [BitVec.ofInt 8 v]

/-! ## Products -/

/-- The weights of tensor `i` are read from the SRAM, for a classifier homed in the Rill (R168, R176).  The manual does not say where in its
object a tensor lies: here the tensors follow each other. (DESIGN CHOICE, log entry 9) -/
def RillRun.weights (x : RillRun) (c : RillCtx) (r i : Nat) : RillRun :=
  match c.homeAt, c.desc.tensors[i]? with
  | some (h, a), some t => if h = r then x.check r (a + ((c.desc.tensors.take i).map tensorSize).sum) (tensorSize t) else x
  | _, _ => x

/-- The accumulators of one row of a weight tensor (R176 to R178). -/
def productAccs (t : TensorDesc) (acts amants : List Byte) (ae : W16) : List Acc :=
  let ng := t.reduction / t.gsize
  (List.range t.outputs).map fun c =>
    let ch := t.chans.getD c 0
    let (v, clip) := dot {
      codes := (List.range t.reduction).map (tensorCode t c), acts := acts.map int8,
      wmant := (List.range ng).map fun g => mantOf (t.scales.getD (c * ng + g) 0),
      amant := (List.range ng).map fun g => mantOf (w16At amants g),
      wexp := chanWexp ch, bexp := chanBexp ch, bias := chanBias ch, aexp := aexpOf ae, gsize := t.gsize, kexp := 0 }
    { val := v, clip := clip }

/-- The stream positions that a step at position `p` attends to (R187). -/
def window (p : Nat) : List Nat := List.range' (p - 2047) (min p 2047 + 1)

/-- The 64 codes of a token's group in a plane, and its scale word (R186). -/
def kvCodes (kv : List Host.Cell) (plane t : Nat) : List (BitVec 4) :=
  let l := memRead 0 kv (65536 * plane + 32 * (t % 2048)) 32
  (List.range 64).map (codeAt l)
def kvScale (kv : List Host.Cell) (plane t : Nat) : W16 := w16At (memRead 0 kv (6291456 + 4096 * plane + 2 * (t % 2048)) 2) 0

/-- The scores of a query against the keys of the window: each is one group, and its KEXP goes with it (R184). -/
def scoreAccs (kv : List Host.Cell) (plane pos : Nat) (query : List Byte) (am : W16) : List Acc :=
  (window pos).map fun t =>
    let w := kvScale kv plane t
    { val := partialSum (kvCodes kv plane t) (query.map int8) * combined (kmantOf w) (mantOf am), kexp := kexpOf w }

/-- The requant word of an attention weight: OMUL is the token's KMANT, and its KEXP adds to OSHIFT (R185). -/
def weighReq (w : W16) (oshift : Nat) : ReqWord := { omul := kmantOf w, oshift := min (oshift + kexpOf w) 63, wide := false, tbl := false }

/-- The attention weights of the window as int8 (R185). -/
def weighOuts (kv : List Host.Cell) (plane pos : Nat) (weights : List Byte) (oshift : Nat) : List Int :=
  (window pos).zipIdx.map fun x => (requantise (int16 (w16At weights x.2)) (weighReq (kvScale kv plane x.1) oshift) 0 []).1

/-- The WMANT of every value group (R185): cm is then AMANT exactly. -/
def valueWmant : Nat := 256

/-- Attention weights times values, for each of the 64 dimensions: the reduction runs over the tokens of the window (R185). -/
def valueAccs (kv : List Host.Cell) (plane pos : Nat) (weights amants : List Byte) (gsize : Nat) : List Acc :=
  let codes := (window pos).map (kvCodes kv plane)
  (List.range 64).map fun d =>
    let col := codes.map fun l => l.getD d 0
    let parts := (chunksOf gsize col).zip (chunksOf gsize (weights.map int8))
    { val := (parts.zipIdx.map fun x => partialSum x.1.1 x.1.2 * combined valueWmant (mantOf (w16At amants x.2))).foldl (· + ·) 0 }

/-! ## Requantisation (R180 to R182, R192, R198) -/

/-- Requantises accumulators with one word each. -/
def requantAll (table : List Int) (l : List (Acc × ReqWord)) : List Byte :=
  l.flatMap fun x => outBytes x.2.wide (requantise x.1.val x.2 x.1.kexp table).1

/-- The words used at a calibrated point, and the scale words beside its outputs: the carried ones while they apply, else the present ones
(R192, R198). -/
def pointWords (car : Option Carried) (o : PointObs) : List GroupWords × Nat × List Nat :=
  match car with
  | some c =>
    let e := entryAt c o.pt o.groups.length
    (carriedWords e o.eIn, e.1, e.2)
  | none =>
    let w := presentWords o
    (w.groups, w.aexp, w.groups.map (·.amant))

/-- Requantises what a product leaves, by its source of requant words (R181). `one` takes the first word of the vector for every
accumulator (R184). -/
def RillRun.finish (x : RillRun) (c : RillCtx) (r : Nat) (one : Bool) (accs : List Acc) (eIn : Int) (src : ReqSrc) (out : Nat) : RillRun :=
  match src with
  | .channel a | .element a =>
    let (x, l) := x.load r a (if one then 4 else 4 * accs.length)
    let word (i : Nat) : ReqWord := reqWord (BitVec.ofNat 32 (leAt l (if one then 0 else 4 * i) 4))
    x.store r out (requantAll x.table (accs.zipIdx.map fun y => (y.1, word y.2)))
  | .point pt gout am ae =>
    let o : PointObs := { pt := pt, eIn := eIn, groups := chunksOf gout accs }
    let (used, aexp, ams) := pointWords c.carried o
    let outs := (o.groups.zip used).flatMap fun y => requantAll [] (y.1.map fun a => (a, groupReq y.2))
    let x := ((x.store r out outs).store r am (ams.flatMap (leBytes 2))).store r ae (leBytes 2 aexp)
    { x with obs := x.obs ++ [o], rows := x.rows ++ [(r, pt, runRow o used)],
             breach := match c.carried with
               | some car => (pointBreach (entryAt car pt o.groups.length) o).map fun b => (pt, b)
               | none => none }

/-- E_in of a point that is no ordinary product, from its descriptor (R191). -/
def pointEin (d : ClassDesc) : ReqSrc → Int
  | .point pt _ _ _ => match d.points[pt]? with | some p => p.eIn | none => 0
  | _ => 0

/-- Writes a full group into the step's slot of a plane: code and scale word together (R186 to R188, R194, R195). -/
def kvPut (m : List Host.Cell) (pos plane : Nat) (g : List Int) : List Host.Cell :=
  let slot := pos % 2048
  let (codes, scale) := kvEncode g
  memWrite 0 (memWrite 0 m (65536 * plane + 32 * slot) codes) (6291456 + 4096 * plane + 2 * slot) scale

/-! ## A program -/

/-- The calibrated point that an operation runs. -/
def opPoint : RillOp → List Nat
  | .product _ _ _ _ (.point pt _ _ _) _ | .scores _ _ _ (.point pt _ _ _) _ | .values _ _ _ _ (.point pt _ _ _) _ => [pt]
  | _ => []

/-- A first-stage step writes its slot in every plane (R187), and runs each calibrated point of its classifier once (R191, R196). (DEDUCED,
log entry 36) -/
def wholeStep (d : ClassDesc) (ops : List (Nat × RillOp)) : Bool :=
  let pts := ops.flatMap fun o => opPoint o.2
  ((List.range 96).all fun n => ops.any fun o => decide (o.2.wrote = [n])) && decide (pts.length = d.points.length) &&
  (List.range d.points.length).all (pts.contains ·)

/-- One operation of a program, on Rill `r`. -/
def runOp (c : RillCtx) (x : RillRun) (r : Nat) : RillOp → RillRun
  | .input a l => x.store r a l
  | .table a =>
    let (x, l) := x.load r a 256
    { x with table := l.map int8 }
  | .product t acts amants ae src out =>
    match c.desc.tensors[t]? with
    | none => x
    | some w =>
      let (x, a) := (x.weights c r t).load r acts w.reduction
      let (x, m) := x.load r amants (2 * (w.reduction / w.gsize))
      let (x, e) := x.load r ae 2
      let eIn : Int := Int.ofNat (chanWexp (w.chans.headD 0)) + Int.ofNat (aexpOf (w16At e 0)) - 8
      x.finish c r false (productAccs w a m (w16At e 0)) eIn src out
  | .scores n q am src out =>
    let (x, l) := x.load r q 64
    let (x, m) := x.load r am 2
    x.finish c r true (scoreAccs x.kv n c.pos l (w16At m 0)) (pointEin c.desc src) src out
  | .weigh n w sh out =>
    let (x, l) := x.load r w (2 * (window c.pos).length)
    x.store r out ((weighOuts x.kv n c.pos l sh).flatMap (outBytes false))
  | .values n w am g src out =>
    let (x, l) := x.load r w (window c.pos).length
    let (x, m) := x.load r am (2 * ceilDiv (window c.pos).length g)
    x.finish c r false (valueAccs x.kv n c.pos l m g) (pointEin c.desc src) src out
  | .kvWrite n a =>
    let (x, l) := x.load r a 128
    if n < 96 then { x with kv := kvPut x.kv c.pos n ((List.range 64).map fun i => int16 (w16At l i)) } else x

/-- A program's operations in order, up to a breach (R200). -/
def runOps (c : RillCtx) : List (Nat × RillOp) → RillRun → RillRun
  | [], x => x
  | o :: l, x => if x.breach.isSome then x else runOps c l (runOp c x (c.rills.getD o.1 (c.rills.headD 0)) o.2)

/-- A whole step from the first layer in first-pass mode (R192, R200): what an abandoned step counted is not kept (R205). -/
def firstPass (c : RillCtx) (ops : List (Nat × RillOp)) (x : RillRun) : RillRun :=
  runOps { c with carried := none } ops { x with obs := [], rows := [], table := [], breach := none }

/-- A first-stage step, and the event of R200: the carried scale without a breach, else one recompute in first-pass mode; first-pass mode
when the block could not be read (R198 to R201, R209). (DEDUCED, log entry 36) -/
def runStep (c : RillCtx) (car : Option Carried) (ops : List (Nat × RillOp)) (x : RillRun) : RillRun × Option (Nat × Breach) :=
  match car with
  | none => (firstPass c ops x, some (0, .high))
  | some car =>
    let y := runOps { c with carried := some car } ops x
    match y.breach with
    | none => (y, none)
    | some b => (firstPass c ops y, some b)

end Sys2Proof.Machine
end

