-- ==== Sys2Proof/Machine/Hedge.lean ====
section
/-! DEFINITION. The Hedge: the automaton step, masks, and how a stream ends in it (R210 to R226). -/

namespace Sys2Proof.Machine

/-- State `q` of a grammar. -/
def gstate (g : Grammar) (q : Nat) : GState := g.states.getD q { maskid := 0, accept := false, trans := [], refs := [] }

/-- The class of a token (R213). -/
def classOf (g : Grammar) (t : Nat) : Nat := g.cmap.getD t 0

/-- A transition applies to a stack, top first (R215). -/
def transApplies (x : Trans) (stack : List Byte) : Bool :=
  decide (x.pop.length ≤ stack.length) && decide (stack.take x.pop.length = x.pop)

/-- find_transition of R220. -/
def findTrans (g : Grammar) (q c : Nat) (stack : List Byte) : Option Trans :=
  (gstate g q).trans.find? fun x => decide (x.cls = c) && transApplies x stack

/-- The depth after a transition (R215). -/
def depthAfter (x : Trans) (stack : List Byte) : Nat := stack.length - x.pop.length + x.push.length

/-- apply of R215; the last symbol pushed becomes the top. -/
def applyTrans (h : Hedge) (x : Trans) : Hedge :=
  { h with state := x.next, stack := x.push.reverse ++ h.stack.drop x.pop.length }

/-- accepting of R220. -/
def accepting (g : Grammar) (h : Hedge) : Bool := (gstate g h.state).accept && h.stack.isEmpty

/-- Bit t of a state's base mask (R217). -/
def baseBit (g : Grammar) (q t : Nat) : Bool :=
  bitAt (((g.masks.getD (gstate g q).maskid []).getD (t / 8) 0)) (t % 8)

/-- A token is in make_mask of a configuration (R220). -/
def inMask (g : Grammar) (eostok : Nat) (h : Hedge) (t : Nat) : Bool :=
  baseBit g h.state t ||
  ((gstate g h.state).refs.contains t && (findTrans g h.state (classOf g t) h.stack).isSome) ||
  (accepting g h && decide (t = eostok))

/-- make_mask of R220, in ascending order. -/
def makeMask (g : Grammar) (eostok : Nat) (h : Hedge) : List Nat := (List.range g.vntok).filter (inMask g eostok h)

/-- OVF of R223: some token of the mask would take the stack past 64. -/
def maskOverflows (g : Grammar) (h : Hedge) (m : List Nat) : Bool :=
  m.any fun t => match findTrans g h.state (classOf g t) h.stack with
    | some x => decide (64 < depthAfter x h.stack)
    | none => false

/-- The outcomes of a step (R220, R226). -/
inductive HedgeOut where
  | step (h : Hedge)
  | endText
  | violation
  | overflow
  deriving DecidableEq, Repr

/-- hedge_step of R220 up to the mask. -/
def hedgeStep (g : Grammar) (eostok : Nat) (h : Hedge) (t : Nat) : HedgeOut :=
  if t = eostok then (if accepting g h then .endText else .violation)
  else match findTrans g h.state (classOf g t) h.stack with
    | none => .violation
    | some x => if 64 < depthAfter x h.stack then .overflow else .step { applyTrans h x with pos := h.pos + 1 }

/-- Ends a stream in one of the three ways of R226: counted, logged (R382), with a Refuse record. -/
def hedgeEnd (s : State) (c : Nat) (status : W16) (k tok : Nat) : State :=
  let x := streamOf s c
  let s := telInc s (telTen x.tenant k)
  let s := note s status skTenant x.tenant
    [x.tenant, x.stag.toNat, x.port, x.hedge.pos, tok, x.hedge.state, x.hedge.stack.length]
  endStream s c status sgHedge x.policy

/-- send_mask: the mask record of the present configuration to the fabric, or Empty mask (R220, R222 to R224). -/
def sendMask (s : State) (c tok : Nat) : State :=
  let x := streamOf s c
  let g := grammarOf s x
  let v := vocabOf s x
  let m := makeMask g v.eostok x.hedge
  if m.isEmpty then hedgeEnd s c stEmptyMask 24 tok
  else fbSend s x.fbport (maskFlits x
    (encodeMask m v.ntok (m.contains v.eostok) (maskOverflows g x.hedge m) x.stag x.tenant x.vocab x.grammar x.hedge.pos))

/-- The grammar of a stream whose tables lie in the far tier (R211). -/
def farGrammar (s : State) (x : Stream) : Option Nat :=
  match x.gramObj with
  | some o => if (objOf s o).home.tier = .far then some o else none
  | none => none

/-- A read of the stream's grammar tables is outstanding. -/
def gramAsked (s : State) (c : Nat) : Bool :=
  s.memTags.any fun t => match t.2 with | .used (.gram x) _ => decide (x = c) | _ => false

/-- The read of a grammar's tables for the next step; none is issued while one is outstanding or a port's bound stalls it (R75, R228). -/
def readGrammar (s : State) (c o : Nat) : State :=
  if gramAsked s c then s else (memIssue s (objOf s o).home.loc.toNat (objOf s o).size false (.gram c)).getD s

/-- The step of one committed token (R220, R226); an ID past NTOK is left to R135. -/
def hedgeToken (s : State) (c t : Nat) : State :=
  let x := streamOf s c
  let v := vocabOf s x
  let past := setStream s c { x with hedged := x.hedged + 1, gramRead := false }
  if v.ntok ≤ t then past
  else match hedgeStep (grammarOf s x) v.eostok x.hedge t with
    | .endText => past
    | .violation => hedgeEnd s c stMaskViolation 16 t
    | .overflow => hedgeEnd s c stGrammarOverflow 17 t
    | .step h => sendMask (setStream s c { x with hedge := h, hedged := x.hedged + 1, gramRead := false }) c t

end Sys2Proof.Machine
end

