-- ==== Sys2Proof/Machine/PowerOps.lean ====
section
/-! DEFINITION. Rills in and out of service: which are busy, the ladder's dividers (R295), gating and draining (R32 to R36),
powering up (R37), and the effective power cap (R371). -/

namespace Sys2Proof.Machine

/-! ## Which Rills are in use -/

/-- The programs in flight. -/
def progList (s : State) : List Prog := s.progs.flatMap (·.2)

/-- The programs in the dispatch queues of the compute Brooks (R20, R39). -/
def dispList (s : State) : List Prog := s.disp.flatMap (·.2)

/-- No program is in progress on the Rill. -/
def rillFree (s : State) (n : Nat) : Bool := !(progList s).any fun p => p.rills.contains n

/-- rill_idle: no program in progress on the Rill and no queued dispatch. -/
def rillIdle (s : State) (n : Nat) : Bool := rillFree s n && !(dispList s).any fun p => p.rills.contains n

/-- No program has been dispatched to the Rill for 100 µs (R295). -/
def longIdle (s : State) (n : Nat) : Bool := decide ((plotOf s n).usedAt = 0) || decide ((plotOf s n).usedAt - 1 + 100000 ≤ s.now)

/-- The objects whose home is a Rill's SRAM. -/
def rillObjs (s : State) (n : Nat) : List (Nat × Obj) :=
  s.objs.filter fun x => x.2.state ≠ .free && x.2.state ≠ .lost && homeInRill n x.2.home

/-- The residency flag of a home's Rill is set (R33). -/
def markResident (s : State) (h : Home) : State :=
  if h.tier = .near ∧ h.pool = false then setPlot s h.rill { plotOf s h.rill with resid := true } else s

/-- The role of a Rill: that of a classifier whose objects it holds (R295). -/
def rillRole (s : State) (n : Nat) : Option Nat :=
  (rillObjs s n).findSome? fun x => match x.2.content with
    | .classifier r _ => some r
    | _ => none

/-! ## Minimum Rills (R36) -/

/-- The classifier-set records in force: those of the active table, and those of open streams. -/
def recsInForce (s : State) : List SetRec :=
  ((actTab s).recs.map (·.2)) ++ ((openStreams s).map fun x => recOfStream s x.2)

/-- The most Rills that any set in force asks for. -/
def minRillsNow (s : State) : Nat := maxOf ((recsInForce s).map (·.minRills))

/-! ## The ladder (R295, R371) -/

/-- The grant works as withdrawal (R371). -/
def grantLow (s : State) : Bool := decide (s.hay.grant.toNat < 30)

/-- Something forces step 6 (R297, R371, R383). -/
def forced (s : State) : Bool := s.hay.tripped || grantLow s

/-- The effective cap in W (R371). (DEDUCED, log entry 42) -/
def effectiveCap (s : State) : Nat := if grantLow s then s.cfg.pcapw else min s.cfg.pcapw s.hay.grant.toNat

/-- The divider that the ladder gives a Rill of a role at a step (R295). -/
def ladderDiv (step : Nat) (role : Option Nat) (idle : Bool) : Nat :=
  let byRole : Nat := match role with
    | some 3 => if 5 ≤ step then 4 else if 2 ≤ step then 2 else 1
    | some 2 => if 6 ≤ step then 4 else if 4 ≤ step then 2 else 1
    | some _ => if 5 ≤ step then 4 else if 3 ≤ step then 2 else 1
    | none => 1
  if (idle || role.isNone) && decide (1 ≤ step) then 4 else byRole

/-- The state of a powered Rill Plot under its divider and stretch (R30). -/
def runState (div : Nat) (stretch : Bool) : PlotState := if div = 1 ∧ stretch = false then .on else .stretched

/-- pg_req_w (R371): 75 W until step 6 of R325, then PCAPW. -/
def powerRequest (s : State) : Nat := if s.boot.phase = .held then 75 else s.cfg.pcapw

/-- Applies the ladder to a Rill that is powered. -/
def ladderRill (s : State) (n : Nat) : State :=
  let x := plotOf s n
  if x.st = .gated then s
  else
    let d := ladderDiv (heathAt s (heathOf n)).step (rillRole s n) (longIdle s n)
    setPlot s n { x with div := d, follows := false, st := runState d x.stretch }

/-- Brings the Rills of a program to the slowest setting among them: divider, and stretch (R39). (DEDUCED, log entry 35) -/
def evenRills (s : State) (l : List Nat) : State :=
  let d := maxOf (l.map fun n => (plotOf s n).div)
  let st := l.any fun n => (plotOf s n).stretch
  l.foldl (fun s n =>
    let x := plotOf s n
    if 128 ≤ n ∨ x.st = .gated then s else setPlot s n { x with div := d, follows := st && !x.stretch, st := runState d st }) s

/-- A program always runs on Rills at one setting (R39). -/
def evenProgs (s : State) : State := (progList s).foldl (fun s p => evenRills s p.rills) s

/-- Applies the ladder to every Rill (R295); it is not run in fenced boot (R311). -/
def applyLadder (s : State) : State :=
  if s.boot.fenced then s else evenProgs ((List.range 128).foldl ladderRill s)

/-- A Heath goes to step 6 or stays above it; a change is logged (R296, R297). -/
def heathSix (s : State) (h : Nat) : State :=
  let x := heathAt s h
  if 6 ≤ x.step then s else note (setHeath s h { x with step := 6 }) evStep skHeath h [h, x.step, 6]

/-- Every Heath goes to step 6 at once (R297, R371). -/
def forceSix (s : State) : State := applyLadder ((List.range 8).foldl heathSix s)

/-! ## Gating (R32 to R35) -/

/-- Gates a Plot: its contents are gone, its residency flag and stretch too. -/
def gatePlot (s : State) (n : Nat) : State :=
  setPlot s n { plotOf s n with st := .gated, div := 1, stretch := false, follows := false, resid := false, below := 0 }

/-- A gate command to a Heath, and its status: Plots 144–159 cannot be gated, and the Heath reads the residency flag of the Plot before
it acts (R32, R33). -/
def heathGate (s : State) (n : Nat) : State × W16 :=
  if 144 ≤ n then (s, stNotGateable)
  else if (plotOf s n).resid then (s, stPlotResident)
  else (gatePlot s n, 0)

/-- The Hayward gives a Heath a gate command and keeps the status of the answer. -/
def gateCommand (s : State) (n : Nat) : State :=
  let (s, st) := heathGate s n
  { s with hay := { s.hay with gateSt := st } }

/-- The Rills of a compute Brook. -/
def brookRills (b : Nat) : List Nat := (List.range 8).map (8 * b + ·)

/-- Traffic of the Hub toward a compute Brook (R35): programs queued or in progress there, DMA from or to its Rills, objects that move
there or whose source there is not yet freed. -/
def brookTraffic (s : State) (b : Nat) : Bool :=
  !(smGet [] s.disp b).isEmpty || ((progList s).any fun p => p.rills.any fun n => decide (n / 8 = b)) ||
  ((s.dmaQ.flatMap (·.2)) ++ s.dmaWait).any (fun d => (decide (d.srcsp = 3) && decide (d.srill / 8 = b)) ||
    (decide (d.dstsp = 3) && decide (d.drill / 8 = b))) ||
  (brookRills b).any (rillHolds s)

/-- Gates a Brook's common Plot when all its Rill Plots are Gated, its dispatch mask is clear and no Hub traffic toward it remains
(R35). -/
def gateCommon (s : State) (b : Nat) : State :=
  if ((brookRills b).all fun n => decide ((plotOf s n).st = .gated) && !s.mask.contains n) && !brookTraffic s b then
    gateCommand { s with locks := s.locks.filter (· ≠ b) } (128 + b)
  else s

/-- choose_home for an object that must leave a Rill (R32): the lowest other Rill in the mask with room, else the Hub pool,
else the far tier, each only where R264 allows it. (DESIGN CHOICE, log entry 30) -/
def chooseHome (s : State) (id n : Nat) : Option Home :=
  let o := objOf s id
  let rill : List Home := ((firstNat 128 fun r => decide (r ≠ n) && s.mask.contains r &&
    roomIn s { tier := .near, rill := r } o.size).toList).map fun r => { tier := .near, rill := r }
  (rill ++ ([{ tier := .near, pool := true }, { tier := .far }] : List Home)).find? fun h => roomIn s h o.size && moveAllowed s id h

/-- Moves one object off a Rill, if it is at home and some tier takes it. -/
def moveOff (n : Nat) (s : State) (id : Nat) : State :=
  if (objOf s id).state = .home then
    match chooseHome s id n with
    | some h => (startMove s id h false false none).1
    | none => s
  else s

/-- The next part of rill_power_down for a Rill whose mask bit is clear (R32): it waits for rill_idle, flushes the counters
(R206), moves the objects away, and gates the Plot once nothing is left, unless a set in force would be left with fewer Rills than its
minimum (R36). -/
def drainStep (s : State) (n : Nat) : State :=
  if !s.draining.contains n || !rillIdle s n then s
  else
    let s := flushRill s n
    if rillHolds s n then ((rillObjs s n).map (·.1)).foldl (moveOff n) s
    else if (plotOf s n).st ≠ .gated ∧ rillsOn s ≤ minRillsNow s then s
    else
      let s := gateCommand s n
      if (plotOf s n).st = .gated then
        gateCommon { s with draining := s.draining.filter (· ≠ n), sram := smDel n s.sram, flips := s.flips.filter fun x => x.1 ≠ n } (n / 8)
      else s

/-- Carries every drain as far as it can go. -/
def drainAll (s : State) : State := s.draining.foldl drainStep s

/-- Programs queued for a Rill that has left the mask are placed anew before they are dispatched (R34). -/
def replace (s : State) (n : Nat) : State :=
  let back := (dispList s).filter fun p => p.rills.contains n
  { s with jobs := back.map (·.job) ++ s.jobs,
           disp := smMap [] (fun l => l.filter fun p => !p.rills.contains n) s.disp }

/-- Starts rill_power_down: the mask bit is cleared before the Rill is drained (R34). -/
def startDrain (s : State) (n : Nat) : State :=
  let s := replace s n
  drainStep { s with mask := s.mask.filter (· ≠ n), draining := s.draining ++ [n] } n

/-- Gating one more Rill leaves every set its minimum (R36). -/
def spareRill (s : State) : Bool := decide (minRillsNow s < rillsOn s - s.draining.length)

/-! ## Powering up (R37) -/

/-- A list of numbers with one more, in rising order. -/
def insNat (n : Nat) : List Nat → List Nat
  | [] => [n]
  | a :: r => if n < a then n :: a :: r else if n = a then a :: r else a :: insNat n r

/-- The common Plot of a Rill's Brook is On and its generator has lost its lock: the power-up waits for it (R21, R37). -/
def brookWaits (s : State) (n : Nat) : Bool := decide ((plotOf s (128 + n / 8)).st ≠ .gated) && !lockedOn s (n / 8)

/-- Powers up a Rill Plot, its common Plot first, wipes it and sets its mask bit (R37). -/
def powerUp (s : State) (n : Nat) : State :=
  let x := plotOf s n
  if x.st ≠ .gated || x.faulted || (plotOf s (128 + n / 8)).faulted then s
  else
    let s := if (plotOf s (128 + n / 8)).st = .gated then
        setPlot { s with locks := insNat (n / 8) s.locks } (128 + n / 8) { plotOf s (128 + n / 8) with st := .on }
      else s
    let d := ladderDiv (heathAt s (heathOf n)).step none false
    { setPlot s n { x with st := runState d false, div := d, stretch := false, follows := false, resid := false, usedAt := 0 } with
        mask := insNat n s.mask, sram := smDel n s.sram, flips := s.flips.filter fun y => y.1 ≠ n }

/-- A power-up that cannot run yet is kept. -/
def deferPowerUp (s : State) (n : Nat) : State := { s with hay := { s.hay with powerUps := insNat n s.hay.powerUps } }

/-- A power-up deferred in sag state, under a low grant or while the Brook has no lock (R37, R40, R314, R371). -/
def powerUpOrWait (s : State) (n : Nat) : State :=
  if s.hay.sag || grantLow s || brookWaits s n then deferPowerUp s n else powerUp s n

/-- Deferred power-ups run once nothing holds them back. -/
def runPowerUps (s : State) : State :=
  if s.hay.sag || grantLow s then s
  else s.hay.powerUps.foldl powerUpOrWait { s with hay := { s.hay with powerUps := [] } }

/-- Every Rill Plot and compute common Plot is Gated (R311). -/
def gateCompute (s : State) : State :=
  { (List.range 144).foldl gatePlot s with
      mask := [], draining := [], locks := s.locks.filter (16 ≤ ·), counters := [], sram := [], flips := [], disp := [] }

end Sys2Proof.Machine
end

