-- ==== Sys2Proof/Machine/Verdicts.lean ====
section
/-! DEFINITION. The prompt verdict (R82 to R89) and the Eddy (R90, R95, R99 to R102): what a classifier's verdict does to
a stream. -/

namespace Sys2Proof.Machine

/-! ## Spans (R82, R84) -/

/-- A span in its place by first byte. -/
def insSpan (x : Span) : List Span → List Span
  | [] => [x]
  | y :: r => if x.first < y.first then x :: y :: r else y :: insSpan x r

/-- Spans in order of their first bytes; of two that start together the earlier given comes first. -/
def sortSpans (l : List Span) : List Span := l.foldl (fun a x => insSpan x a) []

/-- Overlapping or touching spans merged into one (R82), which keeps the marker and policy of the first: the manual does not say which of
its sources a merged span has them from. (DESIGN CHOICE, log entry 90) -/
def mergeFrom (cur : Span) : List Span → List Span
  | [] => [cur]
  | y :: r => if y.first ≤ cur.past then mergeFrom { cur with past := max cur.past y.past } r else cur :: mergeFrom y r

/-- The spans of all sources joined (R82). -/
def joinSpans (l : List Span) : List Span :=
  match sortSpans (l.filter fun x => decide (x.first < x.past)) with
  | [] => []
  | x :: r => mergeFrom x r

/-- The spans that a classifier names, under its policy (R83, R84). -/
def spansOf (o : ClassOut) : List Span :=
  o.spans.map fun x => { first := x.first, past := x.past, marker := x.marker, policy := o.policy }

/-- A span of prompt text widened to whole tokens (R84); none when it holds no token byte. -/
def widenToTokens (v : Vocab) (toks : List TokRec) (x : Span) : Option Span :=
  match toks.filter fun t => decide (t.off < x.past) && decide (x.first < t.off + tokBytes v t) with
  | [] => none
  | a :: r => let z := (a :: r).getLast?.getD a
    some { x with first := a.off, past := z.off + tokBytes v z }

/-- A marker of a set for a vocabulary slot (R282); one that the set does not hold has no text and no tokens. -/
def markerOf (r : SetRec) (vocab : Nat) (id : W16) : Marker :=
  (r.markers.find? fun m => decide (m.markid = id) && decide (m.vslot = vocab)).getD
    { markid := id, vslot := vocab, text := [], tokens := [] }

/-! ## The prompt verdict (R78, R82 to R84, R89, R92, R222) -/

/-- The answer's EOSTOK has arrived, or its text is full. -/
def answerEnded (v : Vocab) (x : Stream) : Bool := x.textEnded || x.ansIds.contains v.eostok

/-- The token IDs to forward: each span's tokens replaced by its marker's tokens (R84). -/
def forwardIds (r : SetRec) (vocab : Nat) (spans : List Span) (toks : List TokRec) : List Nat :=
  toks.flatMap fun t =>
    match spans.find? fun x => decide (x.first ≤ t.off) && decide (t.off < x.past) with
    | none => [t.id]
    | some x => if t.off = x.first then (markerOf r vocab x.marker).tokens else []

/-- The spans of a prompt's Redact: those of its sources, joined and widened to whole tokens (R82, R84). -/
def promptSpans (s : State) (x : Stream) : List Span := joinSpans (x.spans.filterMap (widenToTokens (vocabOf s x) x.tokens))

/-- The records of a prompt verdict of Pass or Redact (R87, R89). (DEDUCED, log entry 34) -/
def promptRecords (x : Stream) (spans : List Span) : List VRecord :=
  if spans.isEmpty then
    [{ recOf x vkPass sgPrompt x.policy with trunc := x.trunc, ooc := x.ooc, capped := x.capped, last := true }]
  else spans.zipIdx.map fun y =>
    { recOf x vkRedact sgPrompt y.1.policy with
        trunc := x.trunc, ooc := x.ooc, capped := x.capped, last := decide (y.2 + 1 = spans.length),
        spanStart := y.1.first, spanEnd := y.1.past, marker := y.1.marker }

/-- The cached verdict of an open stream's entry (R105). -/
def cacheVerdict (s : State) (c : Nat) (v : CachedVerdict) : State :=
  { s with reqs := s.reqs.map fun e => if e.ctx = c ∧ e.ended.isNone then { e with verdict := v } else e }

/-- The token IDs of a forwarded prompt go to the fabric, the position-0 mask of a grammar in front of them (R89, R222): it is that of START
with an empty stack, since the Hedge steps no token before. -/
def forwardTokens (s : State) (c : Nat) : State :=
  let x := streamOf s c
  let ids := forwardIds (recOfStream s x) x.vocab (if x.worst = .redact then promptSpans s x else []) x.tokens
  let s := modStream s c fun y => { y with maskDue := false, gramRead := false }
  let s := if x.gen then sendMask s c 0 else s
  if !(streamOf s c).inUse then s
  else modStream (fbSend s x.fbport (tokenFlits x ids)) c fun y => { y with fwdIds := ids.length }

/-- The tables of a grammar in the far tier are read before the position-0 mask is made (R228). (DESIGN CHOICE, log entry 48) -/
def forwardRest (s : State) (c : Nat) : State :=
  match farGrammar s (streamOf s c) with
  | some o => readGrammar (modStream s c fun y => { y with maskDue := true }) c o
  | none => forwardTokens s c

/-- A prompt verdict of Pass or Redact, whose cache entry keeps the POLICY of its last record, as the manual does not say which of several
it keeps (R105) (DESIGN CHOICE, log entry 90): recorded, told to the client as R89 states, and sent to the fabric with the
position-0 mask and the token IDs (R78, R222). -/
def forwardPrompt (s : State) (c : Nat) (spans : List Span) : State :=
  let x := streamOf s c
  let recs := promptRecords x spans
  let vk := if spans.isEmpty then vkPass else vkRedact
  let s := telInc s (telTen x.tenant (if spans.isEmpty then 3 else 5))
  let s := cacheVerdict s c { vkind := vk, trunc := x.trunc, ooc := x.ooc, capped := x.capped,
                              policy := ((recs.getLast?).map (·.policy)).getD x.policy }
  let told := !spans.isEmpty || x.trunc || x.ooc || x.capped
  let x' := { x with verdictDone := true, pending := if told then recs else [] }
  let s := setStream s c (if answerEnded (vocabOf s x) x then x' else restartDeadline s x')
  let s := fbSend s x.fbport (recs.map (recFlit x))
  forwardRest (if told then sendRecs s c recs false else s) c

/-- Combines the outcomes of the prompt path (R82, R83).  A Redact that has no span, or whose spans cover no token, redacts nothing: it is
forwarded and recorded as Pass, of which the manual says nothing (DESIGN CHOICE, log entry 90).  CAPREF makes a capped prompt Refuse
(R80).  A Hold, which R83 does not let a prompt have, refuses (DEDUCED, log entry 20). -/
def promptVerdict (s : State) (c : Nat) : State :=
  let x := streamOf s c
  let r := recOfStream s x
  let late := decide (x.endAt + 150000 < s.now) && !x.ooc && !x.waited
  let s := if late then telInc s (telTen x.tenant 10) else s
  match x.worst with
  | .refuse => endStream s c 0 sgPrompt x.worstPolicy
  | .hold => endStream s c 0 sgPrompt x.worstPolicy
  | w =>
    if r.capref && x.capped then endStream s c 0 sgPrompt x.policy
    else forwardPrompt s c (if w = .redact then promptSpans s x else [])

/-- A window or summary classifier has finished for a stream (R76, R82). (DEDUCED, log entry 20) -/
def promptPart (s : State) (c : Nat) (o : ClassOut) : State :=
  let x := streamOf s c
  if !x.inUse then s
  else
    let y := addVerdict x o.sev o.policy (if o.sev = .redact then spansOf o else [])
    let s := setStream s c { y with outstanding := x.outstanding - 1 }
    if x.outstanding ≤ 1 && x.finalQueued && !x.verdictDone then promptVerdict s c else s

/-! ## The Eddy (R99) -/

/-- What an Eddy action sends to the client, in order. -/
inductive EddyMsg where
  | text (b : Byte)
  | rec' (r : VRecord)
  deriving DecidableEq, Repr

/-- The text at the front of a list of messages, and what follows it. -/
def takeText : List EddyMsg → List Byte × List EddyMsg
  | .text b :: r => let (t, m) := takeText r; (b :: t, m)
  | m => ([], m)

/-- Sends an Eddy action's messages in order, text in runs (R90, R91), with fuel. -/
def sendMsgs : Nat → State → Nat → List EddyMsg → State
  | 0, s, _, _ => s
  | _, s, _, [] => s
  | n + 1, s, c, .rec' r :: m => sendMsgs n (sendRecs s c [r] false) c m
  | n + 1, s, c, m => let (t, m') := takeText m; sendMsgs n (sendText s c t) c m'

/-- A continuation byte of UTF-8. -/
def isCont (b : Byte) : Bool := decide (0x80 ≤ b.toNat) && decide (b.toNat ≤ 0xBF)

/-- Moves a start back to the first byte of its character (R84), with fuel. -/
def charStart (l : List EddyByte) : Nat → Nat → Nat
  | 0, i => i
  | n + 1, i => match l[i]? with
    | some b => if isCont b.byte && decide (0 < i) then charStart l n (i - 1) else i
    | none => i

/-- Moves an end on to the byte after its character (R84), with fuel. -/
def charEnd (l : List EddyByte) : Nat → Nat → Nat
  | 0, i => i
  | n + 1, i => match l[i]? with
    | some b => if isCont b.byte then charEnd l n (i + 1) else i
    | none => i

/-- A span of answer text as indices of a stretch of the Eddy, widened to whole characters (R84); the bytes of a marker stand for the
whole span that it replaced. -/
def widenToChars (l : List EddyByte) (x : Span) : Span :=
  let a := (l.takeWhile fun b => decide (b.past ≤ x.first)).length
  let b := (l.takeWhile fun b => decide (b.at' < x.past)).length
  if b ≤ a then { x with first := a, past := a }
  else { x with first := charStart l 3 a, past := charEnd l 3 b }

/-- The spans that fall in a stretch of the Eddy, as indices of it. (DEDUCED, log entry 33) -/
def eddySpans (l : List EddyByte) (spans : List Span) : List Span := joinSpans (spans.map (widenToChars l))

/-- The place in the answer text of indices `a` to `b` − 1 of a stretch (R87, R131). -/
def placeOf (l : List EddyByte) (a b : Nat) : Nat × Nat :=
  (((l[a]?).map (·.at')).getD 0, ((l[b - 1]?).map (·.past)).getD 0)

/-- A byte's wish at a verdict: it stays Held, or it may be released. -/
structure Wish where
  b    : EddyByte
  hold : Bool
  mark : Option Span := none           -- the first byte of a marker's text, or an empty marker: the span that it replaces
  ghost : Bool := false                -- the place of an empty marker: no byte
  deriving DecidableEq, Repr

/-- The bytes of a stretch with each span replaced by its marker's text, whose bytes stand where the span stood (R84, R99). (DEDUCED, log
entry 33) -/
def replaceSpans (r : SetRec) (vocab : Nat) (spans : List Span) (keep : EddyByte → Wish) (l : List EddyByte) : List Wish :=
  l.zipIdx.flatMap fun y =>
    match spans.find? fun x => decide (x.first ≤ y.2) && decide (y.2 < x.past) with
    | none => [keep y.1]
    | some x =>
      if y.2 ≠ x.first then []
      else
        let (a, z) := placeOf l x.first x.past
        let sp := { x with first := a, past := z }
        let mk (t : Byte) : EddyByte := { y.1 with byte := t, at' := a, past := z }
        match (markerOf r vocab x.marker).text with
        | [] => [{ b := y.1, hold := false, mark := some sp, ghost := true }]
        | t :: ts => { b := mk t, hold := false, mark := some sp } :: ts.map fun t => { b := mk t, hold := false }

/-- The record of a Redact or a Retract on the answer path: the span that is replaced or withdrawn (R87). -/
def spanRec (x : Stream) (vkind stage : BitVec 4) (sp : Span) : VRecord :=
  { recOf x vkind stage sp.policy with spanStart := sp.first, spanEnd := sp.past, marker := sp.marker }

/-- Runs through wishes in byte order: nothing is released behind a Held byte (R100).  Answers the new bytes and the
messages: text released now, a Hold record at the first byte of a new Held run, a Redact record before a marker's text. (DEDUCED, log entry 34) -/
def settleWishes (x : Stream) (stage : BitVec 4) (policy : W16) (blocked prevHeld : Bool) : List Wish → List EddyByte × List EddyMsg
  | [] => ([], [])
  | w :: rest =>
    let redact : List EddyMsg := match w.mark with
      | some sp => [.rec' { spanRec x vkRedact stage sp with last := rest.all fun z => z.mark.isNone }]
      | none => []
    if w.ghost then
      let (bs, ms) := settleWishes x stage policy blocked prevHeld rest
      (bs, redact ++ ms)
    else if w.b.st = .released then
      let (bs, ms) := settleWishes x stage policy blocked false rest
      (w.b :: bs, ms)
    else if w.hold || blocked then
      let newRun := !prevHeld && w.b.st ≠ .held && w.mark.isNone
      let run := rest.takeWhile fun z => z.hold && !z.ghost
      let rec1 : VRecord := { recOf x vkHold stage policy with
        spanStart := w.b.at', spanEnd := ((run.getLast?).getD w).b.past, last := true }
      let hold : List EddyMsg := if newRun then [.rec' rec1] else []
      let (bs, ms) := settleWishes x stage policy true true rest
      ({ w.b with st := .held } :: bs, redact ++ hold ++ ms)
    else
      let (bs, ms) := settleWishes x stage policy false false rest
      ({ w.b with st := .released } :: bs, redact ++ (.text w.b.byte :: ms))

/-- Buffers that a stretch of the Eddy needs. -/
def eddyNeed (n : Nat) : Nat := ceilDiv n 256

/-- Puts the Eddy of a stream back, cleared up to a place in the answer text; buffers that are no longer needed are freed. -/
def putEddy (s : State) (c : Nat) (l : List EddyByte) (clear : Nat) : State :=
  let x := streamOf s c
  let bufs := min x.eddyBufs (eddyNeed l.length)
  { setStream s c { x with eddy := l, eddyOff := clear, eddyBufs := bufs } with poolUsed := s.poolUsed - (x.eddyBufs - bufs) }

/-- The spans of a first-stage Redact as indices of a stretch: those it names, or the bytes of its token from index `mine` on, with a
marker of the tenant that the manual does not name (R84). (DESIGN CHOICE, log entry 4; DEDUCED, log entry 33) -/
def firstSpans (s : State) (r : SetRec) (x : Stream) (o : ClassOut) (part : List EddyByte) (mine : Nat) : List Span :=
  if o.sev ≠ .redact then []
  else if !o.spans.isEmpty then eddySpans part (spansOf o)
  else if mine < part.length then
    [{ first := mine, past := part.length, marker := someMarker r x.vocab (draw s).toNat, policy := o.policy }]
  else []

/-- A first-stage verdict on the token at position `pos` (R99, R101, R134).  While a deep overrun holds new text, a Pass is
taken as a Hold (R96). (DEDUCED, log entry 33) -/
def firstVerdict (s : State) (c pos : Nat) (o : ClassOut) : State :=
  let x := streamOf s c
  let at0 := x.ansAt.headD s.now
  let s := if at0 + 6000 < s.now ∧ !x.waited then telInc s (telTen x.tenant 11) else s
  let x := { x with stepped := pos + 1, stepping := none, ansAt := x.ansAt.drop 1 }
  let s := setStream s c x
  if o.sev = .refuse then endSpans s c 0 sgFirst o.policy (joinSpans (spansOf o))
  else
    let r := recOfStream s x
    let part := x.eddy.takeWhile fun b => b.tok ≤ pos
    let rest := x.eddy.drop part.length
    let done := (part.takeWhile fun b => b.st = .released).length
    let open' := part.drop done
    let mine := (open'.takeWhile fun b => b.tok < pos).length
    let spans := firstSpans s r x o open' mine
    let s := if o.sev = .redact ∧ o.spans.isEmpty then drawn s else s
    let hold := o.sev = .hold || x.deepHold
    let keep (b : EddyByte) : Wish := { b := b, hold := decide (b.st = .held) || (decide (b.tok = pos) && hold) }
    let (bs, ms) := settleWishes x sgFirst (if o.sev = .hold then o.policy else x.policy) false false
      (replaceSpans r x.vocab spans keep open')
    let s := if o.sev = .hold then telInc s (telTen x.tenant 4) else s
    let s := if spans.isEmpty then s else telInc s (telTen x.tenant 5)
    let s := putEddy s c (part.take done ++ bs ++ rest) x.eddyOff
    sendMsgs (ms.length + 1) s c ms

/-! ## Deep verdicts (R94 to R96, R99, R102) -/

/-- The Retract records of a deep Redact for the released-pending part of a stretch, up to index `n` (R99). -/
def deepRetracts (x : Stream) (part : List EddyByte) (n : Nat) (spans : List Span) : List EddyMsg :=
  let l := spans.filter fun y => decide (y.first < n)
  l.zipIdx.map fun y =>
    let (a, z) := placeOf part y.1.first (min y.1.past n)
    .rec' { spanRec x vkRetract sgDeep { y.1 with first := a, past := z } with
              last := decide (y.2 + 1 = l.length) && spans.all fun z => decide (z.past ≤ n) }

/-- The spans of a stretch that lie past its first `n` bytes, as indices of what follows them. -/
def heldSpans (n : Nat) (spans : List Span) : List Span :=
  (spans.filter fun y => decide (n < y.past)).map fun y => { y with first := max y.first n - n, past := y.past - n }

/-- The End record closes a stream (R88, R89, R102). -/
def endText (s : State) (c : Nat) : State :=
  let x := streamOf s c
  let r : VRecord := { recOf x vkEnd sgControl x.policy with trunc := x.ansTrunc, last := true }
  let s := sendRecs s c [r] true
  let s := fbSend s x.fbport [recFlit x r]
  let v : Option CachedVerdict := if x.verdictDone then none else some { vkind := vkRefuse, trunc := x.ansTrunc, policy := x.policy }
  freeStream (endEntry s c v) c

/-- The stream's text has ended, every token has its first-stage verdict, the snapshot took them all, and the last byte is
cleared (R102).  Where EOSTOK comes after the last byte was cleared, or there is no byte, the End waits for the next deep verdict whose
snapshot took EOSTOK: the manual names no other moment. (DESIGN CHOICE, log entry 91) -/
def textCleared (x : Stream) (snap : Nat) : Bool :=
  x.textEnded && decide (x.stepped = x.outToks) && decide (x.outToks ≤ snap) && x.eddy.isEmpty

/-- A deep verdict on a stream's snapshot of `snap` tokens: what is released-pending is retracted or kept and then cleared, what is Held
is released and stays in the Eddy until a later deep verdict clears it (R99).  A Hold, which R99 does not let the deep stage give, refuses
(DEDUCED, log entry 20). (DEDUCED, log entry 34)  A Redact that names no span, or whose spans hit no byte of the snapshot, withdraws
nothing, and the text is treated as under a Pass: the manual does not say. (DESIGN CHOICE, log entry 90) -/
def deepVerdict (s : State) (c snap : Nat) (o : ClassOut) : State :=
  let x := streamOf s c
  if !x.inUse then s
  else if o.sev = .refuse ∨ o.sev = .hold then endSpans s c 0 sgDeep o.policy (joinSpans (spansOf o))
  else
    let r := recOfStream s x
    let part := x.eddy.takeWhile fun b => decide (b.tok < snap) && decide (b.st ≠ .written)
    let rel := part.takeWhile fun b => b.st = .released
    let spans := if o.sev = .redact then eddySpans part (spansOf o) else []
    let upto := (rel.getLast?.map (·.past)).getD x.eddyOff
    let clear : List EddyMsg := if rel.isEmpty then [] else
      [.rec' { recOf x vkClear sgDeep x.policy with spanStart := x.eddyOff, spanEnd := upto, last := true }]
    let (bs, ms) := settleWishes x sgDeep x.policy false false
      (replaceSpans r x.vocab (heldSpans rel.length spans) (fun b => { b := b, hold := false }) (part.drop rel.length))
    let msgs := deepRetracts x part rel.length spans ++ clear ++ ms
    let s := putEddy s c (bs ++ x.eddy.drop part.length) upto
    let s := sendMsgs (msgs.length + 1) s c msgs
    let x := streamOf s c
    if textCleared x snap then endText s c else s

/-- HEDGE_STEP (R220): the Hedge steps the next committed token, none before the prompt verdict and its position-0 mask (R222); tables in the
far tier are read first, for the position-0 mask as for a step, which is taken once they have come (R228).  An ID of NTOK or more reaches no
Hedge step and reads no table. (DEDUCED, log entry 39; DESIGN CHOICE, log entry 48) -/
def execHedgeStep (c : Fin 32768) (s : State) : Result :=
  runningOn s (streamBrook s c) fun s =>
    let x := streamOf s c
    if !x.inUse || !x.gen || !x.verdictDone then s
    else if x.maskDue then forwardRest s c
    else match x.ansIds[x.hedged]? with
      | none => s
      | some t =>
        match (if (vocabOf s x).ntok ≤ t then none else farGrammar s x) with
        | some o => if x.gramRead then hedgeToken s c t else readGrammar s c o
        | none => hedgeToken s c t

end Sys2Proof.Machine
end

