-- ==== Sys2Proof/Machine/Rill.lean ====
section
/-! DEFINITION. Rill programs: dispatch (R34, R39, R274) and completion, with what the outputs do (R168, R187, R190 to R201,
R206). -/

namespace Sys2Proof.Machine

/-! ## Dispatch -/

/-- The streams that a job serves, with the tokens of a deep snapshot. -/
def jobStreams : Job → List (Nat × Nat)
  | .window c _ _ => [(c, 0)]
  | .summary c => [(c, 0)]
  | .firstStage c _ _ => [(c, 0)]
  | .deep _ _ l _ _ => l

/-- The open streams that a job serves. -/
def liveStreams (s : State) (j : Job) : List Nat :=
  (jobStreams j).filterMap fun x => if (streamOf s x.1).inUse then some x.1 else none

/-- The classifier object that a job runs (R282), and the tenant; none when every stream of the job has ended. -/
def jobObj (s : State) (j : Job) : Option (Nat × Nat) :=
  match liveStreams s j with
  | [] => none
  | c :: _ =>
    let x := streamOf s c
    let r := recOfStream s x
    some (match j with
      | .window _ _ _ => r.win
      | .summary _ => r.sum
      | .firstStage _ _ _ => r.fst
      | .deep _ _ _ _ _ => r.deep, x.tenant)

/-- The classifier of a job is in the slow tier (R274). -/
def jobSlow (s : State) (j : Job) : Bool :=
  match jobObj s j with
  | some (o, _) => decide ((objOf s o).home.tier = .slow)
  | none => false

/-- A program can be given these Rills: they are in the mask, not draining, and powered, and the Fords to their Brooks are open (R28, R34).
(DEDUCED, log entry 35) -/
def rillsReady (s : State) (l : List Nat) : Bool :=
  !l.isEmpty && decide l.Nodup && l.all fun n =>
    s.mask.contains n && !s.draining.contains n && decide ((plotOf s n).st ≠ .gated) && fordOpen s (n / 8)

/-- A queued program can start: its Rills are free, and their Brooks have their clocks (R21, R39). -/
def canStart (s : State) (p : Prog) : Bool :=
  p.rills.all fun n => s.mask.contains n && decide ((plotOf s n).st ≠ .gated) && rillFree s n && lockedOn s (n / 8)

/-- The reads of a classifier's weights from the far tier (R107); a near-tier classifier needs none, and none is issued while a port's
bound stalls it (R75). (DESIGN CHOICE, log entry 48) -/
def readWeights (s : State) (no obj : Nat) : Option State :=
  if (objOf s obj).home.tier = .far then memIssue s (objOf s obj).home.loc.toNat (objOf s obj).size false (.weights no obj) else some s

/-- A Rill is in use from now on, so the ladder no longer holds it as idle (R295). -/
def useRill (s : State) (n : Nat) : State := ladderRill (setPlot s n { plotOf s n with usedAt := s.now + 1 }) n

/-- Starts a program: its Rills are in use from now on, and are brought to the slowest setting among them first (R39, R295). -/
def startProg (s : State) (p : Prog) : Option State :=
  (readWeights s s.progNo p.obj).map fun s =>
    let s := evenRills (p.rills.foldl useRill s) p.rills
    { s with progNo := s.progNo + 1, progs := smSet [] s.progs s.progNo [p] }

/-- Starts what a compute Brook's dispatch queue allows, in order (R39), with fuel; a program that serves no stream any more is dropped, and
one whose classifier has gone to the slow tier waits for its demand move as work without Rills (R260, R274). -/
def startFuel : Nat → State → Nat → State
  | 0, s, _ => s
  | n + 1, s, b =>
    match smGet [] s.disp b with
    | [] => s
    | p :: r =>
      let out : State := { s with disp := smSet [] s.disp b r }
      if (liveStreams s p.job).isEmpty then startFuel n out b
      else if jobSlow s p.job then startFuel n { out with jobs := p.job :: s.jobs } b
      else if !canStart s p then s
      else match startProg out p with
        | none => s
        | some t => startFuel n t b

/-- Starts what the dispatch queues of all compute Brooks allow. -/
def startQueued (s : State) : State := (List.range 16).foldl (fun s b => startFuel (smGet [] s.disp b).length s b) s

/-- The streams of a job have waited for a demand move (R274). -/
def markWaited (s : State) (j : Job) : State := (liveStreams s j).foldl (fun s c => modStream s c fun x => { x with waited := true }) s

/-- Starts the demand move of every queued job whose classifier is in the slow tier; its streams wait for it (R274). (DEDUCED, log entry 31) -/
def demandJobs (s : State) : State :=
  s.jobs.foldl (fun s j => match jobObj s j with
    | some (o, t) => if jobSlow s j then demandMove (markWaited s j) o t else s
    | none => s) s

/-- The stream context of a first-stage step. -/
def stepCtx : Job → Nat
  | .firstStage c _ _ => c
  | _ => 65536

/-- Dispatches the first job whose classifier is not in the slow tier to the Rills given: it enters the dispatch queue of the first Rill's
Brook (R20, R39), which starts what it can; jobs that serve no stream any more are dropped. (DEDUCED, log entry 35) -/
def dispatch (s : State) (l : List Nat) : State :=
  let s := demandJobs { s with jobs := s.jobs.filter fun j => (jobObj s j).isSome }
  if !rillsReady s l then s
  else
    match s.jobs.findIdx? fun j => !jobSlow s j with
    | none => s
    | some i =>
      match s.jobs[i]? with
      | none => s
      | some j =>
        match jobObj s j with
        | none => s
        | some (o, t) =>
          let b := l.headD 0 / 8
          let p : Prog := { job := j, rills := l, obj := o, tenant := t, kvCtx := stepCtx j }
          startQueued { s with jobs := s.jobs.eraseIdx i, disp := smSet [] s.disp b (smGet [] s.disp b ++ [p]) }

/-- RILL_DISPATCH (R39). -/
def execRillDispatch (rills : List (Fin 128)) (s : State) : Result :=
  running s fun s => dispatch s (rills.map (·.val))

/-! ## Completion -/

/-- A program's verdict on its stream number `i`; one that is missing refuses. (DEDUCED, log entry 35) -/
def verdictAt (l : List ClassOut) (i : Nat) : ClassOut := l.getD i { sev := .refuse, policy := 0, spans := [] }

/-- A double-bit error in a Rill's SRAM (R168): logged, the Rill's counters are lost (R206), and an object that holds the word is lost and
keeps the Rill out of the mask until it is reloaded. -/
def rillDouble (s : State) (rill bank word : Nat) : State :=
  let s := loseCounters (note (telInc s (telEng 4)) stRillFault skRill rill [rill, bank, word]) rill
  match objAt s rill word with
  | some o =>
    let s := replace (loseObj s o stRillFault) rill
    { s with mask := s.mask.filter (· ≠ rill) }
  | none => s

/-- A double-bit error that a program meets (R168): its outputs are poisoned, so its streams end. (DEDUCED, log entry 37) -/
def sramError (s : State) (p : Prog) (e : SramErr) : State :=
  rillDouble ((liveStreams s p.job).foldl (fun s c => endControl s c stRillFault) s) e.rill e.bank e.word

/-- A request of a stream's KV cache or carried block is outstanding. -/
def stepRequest (s : State) (c : Nat) : Bool :=
  s.memTags.any fun t => match t.2 with
    | .used (.kv x) _ => decide (x = c)
    | .used (.block x) _ => decide (x = c)
    | _ => false

/-- A program starts from the SRAM of its Rills, with the bits that have flipped there since, and from the KV cache of its stream (R166,
R168, R187). (DEDUCED, log entry 37) -/
def runFrom (s : State) (p : Prog) (o : ProgOut) : RillRun :=
  { sram := s.sram, kv := smGet [] s.kv p.kvCtx,
    flips := (o.flips.map fun x => (p.rills.getD x.1 (p.rills.headD 0), x.2)).foldl
      (fun l x => if l.contains x then l else l ++ [x]) s.flips }

/-- What a program runs on, without carried scales. -/
def runOn (s : State) (p : Prog) (pos : Nat) : RillCtx :=
  let h := (objOf s p.obj).home
  { rills := p.rills, desc := classDesc s p.obj, homeAt := if homeInRill h.rill h then some (h.rill, h.loc.toNat) else none,
    pos := pos, carried := none }

/-- A program's run, and the event of a first-stage step (R200, R209). -/
def runProg (s : State) (p : Prog) (o : ProgOut) : RillRun × Option (Nat × Breach) :=
  match p.job with
  | .firstStage _ pos car => runStep (runOn s p pos) car o.ops (runFrom s p o)
  | _ => (runOps (runOn s p 0) o.ops (runFrom s p o), none)

/-- What a run leaves in the machine, whether or not a stream still waits for it: its SRAM, the errors corrected (R168), and its counts on
each Rill with its event (R205, R206). -/
def keepRun (s : State) (p : Prog) (x : RillRun) (ev : Option (Nat × Breach)) : State :=
  let s := countProgram (telAdd { s with sram := x.sram, flips := x.flips } (telEng 3) x.fixed) p.rills p.obj x.rows
  match ev with
  | some (pt, k) => countBreach s (p.rills.headD 0) p.obj p.tenant pt k
  | none => s

/-- Bytes of a carried block (R196). -/
def blockSize (points : List (Nat × List Nat)) : Nat := 16 + (points.map fun p => 2 + 2 * p.2.length).sum

/-- The KV slots and the carried block go back to the far tier (R187, R197, R201); none when a port's bound stalls them. (DEDUCED, log entry 36) -/
def writeBack (s : State) (c pos : Nat) (points : List (Nat × List Nat)) (kv : List Host.Cell) : Option State :=
  let s := { s with blocks := smIns c { pos := BitVec.ofNat 32 pos, points := points } s.blocks, kv := smSet [] s.kv c kv }
  match memIssue s ((objOf s (2 * c)).home.loc.toNat + 32 * (pos % 2048)) 32 true (.kv c) with
  | none => none
  | some s => (memIssue s (objOf s (2 * c + 1)).home.loc.toNat (blockSize points) true (.block c)).map fun s =>
      modStream s c fun x => { x with blockAck := false }

/-- The present words that a first-stage step leaves, by point (R196, R201). -/
def stepPoints (s : State) (p : Prog) (x : RillRun) : List (Nat × List Nat) :=
  presentBlock (classDesc s p.obj).points.length x.obs

/-- A first-stage step's write-back and verdict, while its stream is open (R197, R209); a write-back that stalls holds them. -/
def stepOut (s : State) (c pos : Nat) (points : List (Nat × List Nat)) (x : RillRun) (o : ProgOut) : State :=
  if !(streamOf s c).inUse then s
  else match writeBack s c pos points x.kv with
    | none => s
    | some s => firstVerdict s c pos (verdictAt o.verdicts 0)

/-- A first-stage step ends: its present words are those of the Rill's next refresh (R207), and its outputs go out (R190, R197 to R201).
(DEDUCED, log entry 36) -/
def stepDone (s : State) (p : Prog) (c pos : Nat) (x : RillRun) (o : ProgOut) : State :=
  stepOut (putBlock s { blockOf s (p.rills.headD 0) p.obj with words := stepPoints s p x }) c pos (stepPoints s p x) x o

/-- A deep pass ends: a verdict for every stream in it that is still open; one that ends in time lifts the hold of R96. -/
def deepDone (s : State) (l : List (Nat × Nat)) (startAt : Nat) (late : Bool) (o : ProgOut) : State :=
  let inTime := !late && decide (s.now ≤ startAt + 88000)
  l.zipIdx.foldl (fun s y =>
    let (c, snap) := y.1
    if !(streamOf s c).inUse then s
    else
      let s := if inTime then modStream s c fun x => { x with deepHold := false } else s
      deepVerdict s c snap (verdictAt o.verdicts y.2)) s

/-- What a finished program's outputs do for the streams that are still open (R209). -/
def jobDone (s : State) (p : Prog) (x : RillRun) (o : ProgOut) : State :=
  match p.job with
  | .window c _ _ => promptPart s c (verdictAt o.verdicts 0)
  | .summary c => promptPart s c (verdictAt o.verdicts 0)
  | .firstStage c pos _ => stepDone s p c pos x o
  | .deep _ _ l at0 late => deepDone s l at0 late o

/-- Reads of a program's weights are outstanding. -/
def weightsAsked (s : State) (no : Nat) : Bool :=
  s.memTags.any fun t => match t.2 with
    | .used (.weights n _) _ => decide (n = no)
    | _ => false

/-- The program cannot finish yet: reads of its weights or of its step are outstanding, or its write-back stalls on a port's bound (R75,
R107, R197, R202). -/
def stepStalls (s : State) (no : Nat) (p : Prog) (x : RillRun) : Bool :=
  weightsAsked s no || match p.job with
    | .firstStage c pos _ => (streamOf s c).inUse && (stepRequest s c || (writeBack s c pos (stepPoints s p x) []).isNone)
    | _ => false

/-- The double-bit error that a program met, on a Rill of its own (R167, R168). -/
def ownError (p : Prog) (o : ProgOut) : Option SramErr := o.sramErr.filter fun e => p.rills.contains e.rill

/-- The command's program is one that the job can have: a first-stage step is a whole one. -/
def progFits (s : State) (p : Prog) (o : ProgOut) : Bool :=
  match p.job with
  | .firstStage _ _ _ => wholeStep (classDesc s p.obj) o.ops
  | _ => true

/-- A finished program: it leaves its counts and its SRAM (R168, R206), and its outputs are used, or are poisoned (R168, R189). -/
def finishProg (s : State) (p : Prog) (o : ProgOut) (r : RillRun × Option (Nat × Breach)) : State :=
  let s := keepRun s p r.1 r.2
  match ownError p o with
  | some e => sramError s p e
  | none => jobDone s p r.1 o

/-- RILL_PROGRAM_COMPLETE (R16): a program's outputs are combined into verdicts; its Rills take what is queued for them, and drains that
waited for it go on. (DESIGN CHOICE, log entry 79) -/
def execRillProgramComplete (prog : Nat) (out : ProgOut) (s : State) : Result :=
  running s fun s =>
    match smGet [] s.progs prog with
    | [] => s
    | p :: _ =>
      let r := runProg s p out
      if stepStalls s prog p r.1 || !progFits s p out || p.rills.any fun n => !lockedOn s (n / 8) then s
      else startQueued (drainAll (finishProg { s with progs := smDel prog s.progs } p out r))

end Sys2Proof.Machine
end

