-- ==== Sys2Proof/Machine/Answer.lean ====
section
/-! DEFINITION. The answer path's commands: tokens from the fabric (R104, R135, R362), the outflow lane (R101, R131 to R136),
first-stage steps (R197, R203), the deep stage's ticks and passes (R94, R96), and stream deadlines (R104). -/

namespace Sys2Proof.Machine

/-! ## Tokens from the fabric -/

/-- The IDs up to and with the first EOSTOK. -/
def uptoEos (eos : Nat) : List Nat → List Nat
  | [] => []
  | t :: r => if t = eos then [t] else t :: uptoEos eos r

/-- The class-1 credit of a Tokens flit: returned, or withheld while a stream of the port waits for a buffer (R101, R109). (DEDUCED, log
entry 23) -/
def tokensCredit (s : State) (f : Nat) : State :=
  if portWants s f then modFb s f fun x => { x with owe1 := x.owe1 + 1 } else fbCredit s f 1 1

/-- Hub pool buffers that `n` waiting token IDs fill (R109): 64 IDs of 4 bytes to a buffer, for each stream by itself, of which the manual
says nothing. (DESIGN CHOICE, log entry 93) -/
def backNeed (n : Nat) : Nat := ceilDiv n 64

/-- The outflow lane has work: IDs of some stream wait for it. -/
def outlaneBusy (s : State) (lane : Nat) : Bool := s.streams.any fun x => x.2.inUse && decide (x.2.outlane = lane) && !x.2.ansIds.isEmpty

/-- Token IDs join those of their stream; an idle lane takes them itself, without a buffer, and behind other work they wait in
the Hub pool (R109). (DESIGN CHOICE, log entry 93) -/
def joinIds (s : State) (x : Stream) (l : List Nat) : Stream :=
  let ids := x.ansIds ++ l
  { x with ansIds := ids, ansAt := x.ansAt ++ l.map fun _ => s.now,
           backWant := if outlaneBusy s x.outlane then backNeed ids.length - x.backBufs else x.backWant }

/-- The deadline once token IDs have come (R104): suspended after EOSTOK, and from the prompt's end until its verdict. -/
def tokenDeadline (s : State) (x : Stream) (eos : Bool) : Stream :=
  if eos then { x with deadline := none }
  else if x.promptEnd && !x.verdictDone then x
  else restartDeadline s x

/-- Committed token IDs of an open stream go to its outflow lane up to EOSTOK (R131); of those that come after it, an ID of NTOK or more
ends the stream (R135) and the others are discarded and counted.  What comes for no open stream is discarded and counted (R135, R362).
(DEDUCED, log entry 39) -/
def takeTokens (s : State) (f tenant lport : Nat) (stag : W16) (ids : List Nat) : State :=
  match findStream s lport tenant stag with
  | none => telInc s (telFab f 6)
  | some (c, x) =>
    let v := vocabOf s x
    let l := if answerEnded v x then [] else uptoEos v.eostok ids
    let late := ids.drop l.length
    if late.any fun t => decide (v.ntok ≤ t) then endControl s c stTokenRange
    else
      let s := telAdd s (telTen tenant 23) l.length
      let s := if late.isEmpty then s else telInc s (telFab f 6)
      if l.isEmpty then s else setStream s c (tokenDeadline s (joinIds s x l) (l.contains v.eostok))

/-- FABRIC_TOKENS: a Tokens flit from the fabric (R361). (DEDUCED, log entry 39) -/
def execFabricTokens (fb : Fin 16) (tenant lport : BitVec 6) (stag : W16) (ids : List (BitVec 19)) (s : State) : Result :=
  runningOn s (24 + fb.val / 4) fun s =>
    if !fbLive (fbOf s fb) then s
    else tokensCredit (takeTokens (telInc s (telFab fb 1)) fb tenant.toNat lport.toNat stag (ids.map (·.toNat))) fb

/-! ## Outflow -/

/-- What the hold-back state machine makes of a token (R131 to R133). -/
def tokenText (v : Vocab) (h : HoldBack) (t : Nat) : HoldBack × List Byte :=
  if t = v.eostok then ({}, holdEnd h)
  else
    let e := v.tokens.getD t { bytes := [], emit := false }
    if e.emit then holdBytes h e.bytes else (h, [])

/-- The most bytes of answer text (R90). (DEDUCED, log entry 28) -/
def answerLimit : Nat := 2 ^ 32 - 1

/-- Pool buffers of waiting IDs that are no longer needed are freed. -/
def trimBack (s : State) (c : Nat) : State :=
  let x := streamOf s c
  let n := min x.backBufs (backNeed x.ansIds.length)
  let s := { setStream s c { x with backBufs := n, backWant := min x.backWant (backNeed x.ansIds.length - n) } with
               poolUsed := s.poolUsed - (x.backBufs - n) }
  releaseOwed s x.fbport

/-- The outflow lane takes the next token of a stream, once the Hedge has stepped it (R220): an ID of NTOK or more ends the
stream; a token whose bytes find no buffer waits (R101, R136). (DEDUCED, log entry 28) -/
def outflow (s : State) (c : Nat) : State :=
  let x := streamOf s c
  if !x.inUse || x.textEnded || (x.gen && x.hedged = 0) then s
  else match x.ansIds with
    | [] => s
    | t :: rest =>
      let v := vocabOf s x
      if v.ntok ≤ t then endControl s c stTokenRange
      else
        let (h, bytes) := tokenText v x.hb t
        let text := bytes.take (answerLimit - x.ansLen)
        let eddy := x.eddy ++ text.zipIdx.map fun b =>
          { byte := b.1, tok := x.outToks, st := .written, at' := x.ansLen + b.2, past := x.ansLen + b.2 + 1 }
        if x.eddyBufs < eddyNeed eddy.length then setStream s c { x with wantBuf := eddyNeed eddy.length - x.eddyBufs }
        else
          let full := decide (answerLimit - x.ansLen ≤ bytes.length)
          trimBack (setStream s c { x with
            ansIds := if full then [] else rest, hedged := x.hedged - 1, hb := h, eddy := eddy, outToks := x.outToks + 1,
            ansLen := x.ansLen + text.length,
            textEnded := t = v.eostok || full, ansTrunc := full, wantBuf := 0,
            deadline := if full then none else x.deadline }) c

/-- An outflow lane that saw Empty takes no token IDs until it has its buffer (R101). -/
def outlaneStopped (s : State) (lane c : Nat) : Bool :=
  s.streams.any fun x => decide (x.1 ≠ c) && x.2.inUse && decide (x.2.outlane = lane) && decide (0 < x.2.wantBuf)

/-- OUTFLOW_TOKEN (R131). -/
def execOutflowToken (c : Fin 32768) (s : State) : Result :=
  runningOn s (streamBrook s c) fun s => if outlaneStopped s (streamOf s c).outlane c then s else outflow s c

/-! ## First-stage steps -/

/-- The stream's next step can be dispatched: a token waits for its verdict, no step runs, and the last write-back is
acknowledged (R197). -/
def stepReady (s : State) (c : Nat) : Bool :=
  let x := streamOf s c
  x.inUse && decide (x.stepped < x.outToks) && x.stepping.isNone && x.blockAck && !stepRequest s c

/-- The carried block's object is created at the first step, in the last granule of the stream's KV space (R196, R266). -/
def makeBlock (s : State) (c : Nat) : State :=
  if (objOf s (2 * c + 1)).state ≠ .free then s
  else setObj s (2 * c + 1)
    { state := .home, kind := .pinned, owner := (streamOf s c).tenant, size := 65536,
      home := { tier := .far, loc := (objOf s (2 * c)).home.loc + 6684672 } }

/-- FIRST_STAGE_STEP: the reads of the KV cache and the carried block are issued and the step is queued for a Rill (R197,
R202, R203); it waits when a memory port has no tag (R75). -/
def execFirstStageStep (c : Fin 32768) (s : State) : Result :=
  running s fun s =>
    if !stepReady s c then s
    else
      let s1 := makeBlock s c
      match memIssue s1 (objOf s1 (2 * c.val)).home.loc.toNat (objOf s1 (2 * c.val)).size false (.kv c) with
      | none => s
      | some s2 =>
        match memIssue s2 (objOf s2 (2 * c.val + 1)).home.loc.toNat (blockSize (carriedOf s2 c).points) false (.block c) with
        | none => s
        | some s3 =>
          let x := streamOf s3 c
          let car := carriedOf s3 c
          { setStream s3 c { x with stepping := some x.stepped } with
              blocks := smIns c.val car s3.blocks, jobs := s3.jobs ++ [.firstStage c x.stepped (some car)] }

/-! ## The deep stage -/

/-- The answer streams of a tenant: open, with the prompt verdict forwarded or an answer token taken. -/
def answerStreams (s : State) (t : Nat) : List (Nat × Stream) :=
  (openStreams s).filter fun x => decide (x.2.tenant = t) && (x.2.verdictDone || decide (0 < x.2.outToks))

/-- Streams of a tenant in pass `k` + 1. -/
def inPass (s : State) (t k : Nat) : List (Nat × Stream) :=
  (answerStreams s t).filter fun x => decide (x.2.passNo = k + 1)

/-- The lowest pass with room for a stream; with none, the fifth (R94, R96). (DESIGN CHOICE, log entry 26) -/
def freePass (s : State) (t size : Nat) : Nat := (firstNat 5 fun k => decide ((inPass s t k).length < size)).getD 4

/-- DEEP_TICK: at a tenant's tick, 500 µs after its last, every answer stream without a pass is given one (R94). (DEDUCED, log entry 39) -/
def execDeepTick (t : Fin 64) (s : State) : Result :=
  running s fun s =>
    let last := smGet 0 s.tickAt t
    if (answerStreams s t).isEmpty || (decide (last ≠ 0) && decide (s.now < last - 1 + 500000)) then s
    else
      let s := { s with tickAt := smIns t (s.now + 1) s.tickAt }
      ((answerStreams s t).filter fun x => x.2.passNo = 0).foldl (fun s x =>
        modStream s x.1 fun y => { y with passNo := freePass s t (recOfStream s y).passstr + 1 }) s

/-- DEEP_PASS_START: at tick plus 88 × (k − 1) µs the snapshots of the pass's streams are taken and the deep classifier is
queued, once for each tick; streams of an older set run on their own set's classifier (R94, R287). (DEDUCED, log entry 39) -/
def execDeepPassStart (t : Fin 64) (k : Fin 5) (s : State) : Result :=
  running s fun s =>
    let tick := smGet 0 s.tickAt t
    if tick = 0 || smGet 0 s.passAt (5 * t + k) = tick || decide (s.now < tick - 1 + 88000 * k) then s
    else
      let s := { s with passAt := smIns (5 * t.val + k.val) tick s.passAt }
      [false, true].foldl (fun s b =>
        let l := (inPass s t k).filter fun x => x.2.tab = b
        if l.isEmpty then s
        else { s with jobs := s.jobs ++ [.deep t k (l.map fun x => (x.1, x.2.stepped)) s.now false] }) s

/-- The job is this pass, has run past 88 µs, and is not yet marked late. -/
def overdue (s : State) (t k : Nat) : Job → Bool
  | .deep t' k' _ at0 late => decide (t' = t) && decide (k' = k) && !late && decide (at0 + 88000 ≤ s.now)
  | _ => false

/-- A pass marked late. -/
def markLate (s : State) (t k : Nat) (j : Job) : Job :=
  match j with
  | .deep t' k' l at0 _ => if overdue s t k j then .deep t' k' l at0 true else j
  | _ => j

/-- DEEP_PASS_OVERRUN: the overrun is counted and logged, and the new text of the pass's streams is held (R96). (DEDUCED, log entry 34) -/
def execDeepPassOverrun (t : Fin 64) (k : Fin 5) (s : State) : Result :=
  running s fun s =>
    let late := (s.jobs ++ (progList s ++ dispList s).map (·.job)).filter (overdue s t k)
    if late.isEmpty then s
    else
      let hit := late.flatMap (liveStreams s)
      let mark (x : Nat × List Prog) : Nat × List Prog := (x.1, x.2.map fun p => { p with job := markLate s t k p.job })
      let s := { s with jobs := s.jobs.map (markLate s t k), progs := s.progs.map mark, disp := s.disp.map mark }
      let s := note (telInc s (telTen t 12)) evDeepOverrun skTenant t [t, 0, k]
      hit.foldl (fun s c => modStream s c fun x => { x with deepHold := true }) s

/-! ## Deadlines -/

/-- STREAM_DEADLINE: an expired deadline ends its stream with Timeout (R104). (DEDUCED, log entry 29) -/
def execStreamDeadline (c : Fin 32768) (s : State) : Result :=
  running s fun s =>
    let x := streamOf s c
    match x.deadline with
    | some d => if x.inUse && decide (d ≤ s.now) then endControl (telInc s (telTen x.tenant 15)) c stSTimeout else s
    | none => s

end Sys2Proof.Machine
end

