-- ==== Sys2Proof/Machine/FlashFmt.lean ====
section
/-! DEFINITION. What lies in flash: the layout (R300), bank trailers (R301, R302), compatibility descriptors (R308, R309),
and which bank a boot or a write takes (R304, R310, R329). -/

namespace Sys2Proof.Machine

/-! ## Layout (R300) -/

/-- The standard layout is used. -/
def stdLayout (s : State) : Bool := decide (0x04400000 ≤ s.boot.sfdp.sizeBytes)
/-- Flash offset of a bank: configuration or firmware pair, A or B. -/
def bankAt (s : State) (pair b : Bool) : Nat :=
  if pair then
    (if stdLayout s then (if b then 0x02000000 else 0x01000000) else (if b then 0x01400000 else 0x00800000))
  else (if b then 0x00200000 else 0x00100000)
/-- Size of a bank of a kind. -/
def bankSize (s : State) (pair : Bool) : Nat := if pair then (if stdLayout s then 0x01000000 else 0x00C00000) else 0x00100000
/-- Size of a body: the bank without its 4 KiB trailer (R301). -/
def bodySize (s : State) (pair : Bool) : Nat := bankSize s pair - 4096
/-- Flash offset of a log half. -/
def logAt (s : State) (half : Nat) : Nat := (if stdLayout s then 0x04000000 else 0x00300000) + 0x00200000 * half
/-- Bytes of flash; an erased byte reads 0xFF. -/
def flashRead (s : State) (a n : Nat) : List Byte := memRead 0xFF s.flash a n
/-- Programs bytes of flash. -/
def flashWrite (s : State) (a : Nat) (l : List Byte) : State := { s with flash := memWrite 0xFF s.flash a l }
/-- Erases a range of flash. -/
def flashErase (s : State) (a n : Nat) : State := { s with flash := memClear s.flash a n }

/-- The device may be used (R1, R300). (DEDUCED, log entry 60) -/
def sfdpGood (x : Sfdp) : Bool :=
  decide (32 * 1048576 ≤ x.sizeBytes) && decide (x.sizeBytes ≤ 256 * 1048576) && x.erase64k && x.eraseSuspend

/-- The flash device is used. (DEDUCED, log entry 60) -/
def flashOk (s : State) : Bool := sfdpGood s.boot.sfdp

/-! ## Signatures (R302, R349) -/

/-- A signature made with a key slot verifies: the slot is written and not revoked (R349). -/
def sigGood (s : State) (slot : Nat) (data r t : List Byte) : Bool :=
  decide (slot < 8) && bitAt s.fuses.keyset slot && !bitAt s.fuses.keyrev slot &&
    Config.ecdsaVerify (smGet 0 s.fuses.keys slot) (Config.sha384 data) (BitVec.ofNat 384 (beNat r))
      (BitVec.ofNat 384 (beNat t))

/-! ## Trailers (R301, R302) -/

/-- BODYLEN of a trailer. -/
def trBodyLen (t : List Byte) : Nat := leAt t 8 4
/-- SEQ of a trailer. -/
def trSeq (t : List Byte) : W32 := BitVec.ofNat 32 (leAt t 224 4)
/-- KEYID of a trailer. -/
def trKey (t : List Byte) : Nat := leAt t 64 2

/-- Identity, ranges and TCRC of a trailer (R301, R302). -/
def trailerForm (s : State) (pair : Bool) (t : List Byte) : Bool :=
  decide (leAt t 0 4 = 0x4B4E4142) && decide (leAt t 4 2 = if pair then 2 else 1) && decide (leAt t 6 2 = 1) &&
  decide (trBodyLen t ≤ bodySize s pair) && decide (trKey t ≤ 7) && allZero (slice t 66 62) &&
  decide (crc32c (t.take 228) = BitVec.ofNat 32 (leAt t 228 4))

/-- The signature of a trailer over its bytes 0 to 127. -/
def trailerSig (s : State) (t : List Byte) : Bool :=
  sigGood s (trKey t) (t.take 128) (slice t 128 48) (slice t 176 48)

/-- BODYCRC and BODYDIG of a trailer fit a body. -/
def trailerBody (t body : List Byte) : Bool :=
  let b := body.take (trBodyLen t)
  decide (crc32c b = BitVec.ofNat 32 (leAt t 12 4)) && decide (Config.sha384 b = BitVec.ofNat 384 (leAt t 16 48))

/-- A trailer with its SEQ assigned and TCRC made anew (R301, R304). -/
def withSeq (t : List Byte) (seq : W32) : List Byte :=
  let h := t.take 224 ++ leBytes 4 seq.toNat
  h ++ leBytes 4 (crc32c h).toNat ++ List.replicate 3864 0xFF#8

/-- The trailer that a bank holds. -/
def bankTrailer (s : State) (pair b : Bool) : List Byte := flashRead s (bankAt s pair b + bodySize s pair) 4096
/-- The body that a bank holds, as far as its BODYLEN. -/
def bankBody (s : State) (pair b : Bool) : List Byte := flashRead s (bankAt s pair b) (trBodyLen (bankTrailer s pair b))

/-- A bank is valid (R302); one whose write began and did not finish is not (R306, R324). (DEDUCED, log entry 61) -/
def bankValid (s : State) (pair b : Bool) : Bool :=
  let t := bankTrailer s pair b
  !s.spoilt.contains (pair, b) && trailerForm s pair t && trailerSig s t && trailerBody t (bankBody s pair b)

/-- A configuration bank is valid when its body begins with CMAGIC and CFORMAT too (R329). -/
def cfgBankValid (s : State) (b : Bool) : Bool :=
  bankValid s false b && decide (leAt (bankBody s false b) 0 4 = 0x47464E43) && decide (leAt (bankBody s false b) 4 2 = 1)

/-- Of two valid banks bank B is the newer (R302). -/
def newerIsB (s : State) (pair : Bool) : Bool := newer (trSeq (bankTrailer s pair true)) (trSeq (bankTrailer s pair false))

/-- The valid banks of a kind, newer first, under a test of validity. -/
def banksByAge (s : State) (pair : Bool) (valid : Bool → Bool) : List Bool :=
  ((if newerIsB s pair then [true, false] else [false, true])).filter valid

/-! ## Compatibility descriptors (R308) -/

/-- A descriptor as read. -/
structure Desc where
  role    : Nat
  version : Nat
  svn     : Nat
  stepMin : Nat
  stepMax : Nat
  imgOff  : Nat
  imgLen  : Nat
  imgDig  : BitVec 384
  npeer   : Nat
  nbale   : Nat
  peers   : List (Nat × Nat)
  bales   : List W16
  deriving DecidableEq, Repr

/-- Reads a descriptor. -/
def descOf (l : List Byte) : Desc :=
  { role := leAt l 4 1, version := leAt l 8 4, svn := leAt l 12 2, stepMin := leAt l 14 1, stepMax := leAt l 15 1,
    imgOff := leAt l 16 4, imgLen := leAt l 20 4, imgDig := BitVec.ofNat 384 (leAt l 24 48), npeer := leAt l 72 1,
    nbale := leAt l 73 1, peers := (List.range 8).map fun i => (leAt l (80 + 8 * i) 4, leAt l (84 + 8 * i) 4),
    bales := (List.range 8).map fun i => BitVec.ofNat 16 (leAt l (144 + 2 * i) 2) }

/-- Two ranges of bytes share none. -/
def apart (a n b m : Nat) : Bool := decide (a + n ≤ b) || decide (b + m ≤ a)

/-- A descriptor is valid by itself, within a body of `len` bytes, the whole of it (R301, R308). -/
def descForm (role : Nat) (l : List Byte) (len : Nat) : Bool :=
  let d := descOf l
  decide (leAt l 0 4 = 0x43534544) && decide (d.role = role) && decide (leAt l 5 1 = 0) && decide (leAt l 6 2 = 1) &&
  decide (d.imgLen ≤ (if role = 1 then 320 * 1024 else 8 * 1048576)) && decide (1 ≤ d.npeer) && decide (d.npeer ≤ 8) &&
  (if role = 1 then decide (1 ≤ d.nbale) && decide (d.nbale ≤ 8) else decide (d.nbale = 0)) && allZero (slice l 74 6) &&
  allZero (slice l 160 96) && ((d.peers.drop d.npeer).all fun p => p = (0, 0)) && ((d.bales.drop d.nbale).all (· = 0)) &&
  decide (d.imgOff + d.imgLen ≤ len) && apart d.imgOff d.imgLen 0 256 && apart d.imgOff d.imgLen 0x100000 256

/-- Both descriptors of a firmware-pair body are valid and their images do not overlap (R308). -/
def descsForm (h m : List Byte) (len : Nat) : Bool :=
  descForm 1 h len && descForm 2 m len &&
    apart (descOf h).imgOff (descOf h).imgLen (descOf m).imgOff (descOf m).imgLen

/-- in_ranges of R309. -/
def inRanges (v : Nat) (d : Desc) : Bool := (d.peers.take d.npeer).any fun p => decide (p.1 ≤ v) && decide (v ≤ p.2)

/-- pair_ok of R309 apart from the digests. -/
def pairFits (s : State) (h m : Desc) : Bool :=
  decide (h.role = 1) && decide (m.role = 2) && decide (h.stepMin ≤ s.fuses.step.toNat) &&
  decide (s.fuses.step.toNat ≤ h.stepMax) && decide (m.stepMin ≤ s.fuses.step.toNat) &&
  decide (s.fuses.step.toNat ≤ m.stepMax) && decide (s.fuses.floor1 ≤ h.svn) && decide (s.fuses.floor2 ≤ m.svn) &&
  inRanges m.version h && inRanges h.version m

/-- digest_ok of R309 for the bank at flash offset `a`: the image is read from flash. -/
def digestOk (s : State) (a : Nat) (d : Desc) : Bool := decide (Config.sha384 (flashRead s (a + d.imgOff) d.imgLen) = d.imgDig)

/-- The descriptors at their places in a body. -/
def hayDesc (body : List Byte) : List Byte := slice body 0 256
def rillDesc (body : List Byte) : List Byte := slice body 0x100000 256

/-- The descriptors of the firmware-pair bank at flash offset `a`. -/
def hayDescAt (s : State) (a : Nat) : List Byte := flashRead s a 256
def rillDescAt (s : State) (a : Nat) : List Byte := flashRead s (a + 0x100000) 256

/-- The first check that the pair of the bank at flash offset `a` fails: 1 descriptors, 2 compatibility, 3 digests; 0 when it is
compatible (R309). -/
def pairCheck (s : State) (a : Nat) : Nat :=
  let h := hayDescAt s a
  let m := rillDescAt s a
  if !descsForm h m (bodySize s true) then 1
  else if !pairFits s (descOf h) (descOf m) then 2
  else if !(digestOk s a (descOf h) && digestOk s a (descOf m)) then 3
  else 0

/-! ## Targets (R304) -/

/-- Validity of a bank of a kind (R302, R329). -/
def kindValid (s : State) (pair b : Bool) : Bool := if pair then bankValid s pair b else cfgBankValid s b

/-- A firmware pair runs. -/
def pairRuns (s : State) : Bool := s.boot.phase = .running && !s.boot.fenced

/-- The target of a bank write (R304). -/
def targetBank (s : State) (pair : Bool) : Bool :=
  let pick : Bool :=
    if !kindValid s pair false then false
    else if !kindValid s pair true then true
    else !(newerIsB s pair)
  if pair && pairRuns s && pick = s.boot.pairBank then !pick else pick

/-- The SEQ of a bank write (R304). -/
def newSeq (s : State) (pair : Bool) : W32 :=
  match banksByAge s pair (kindValid s pair) with
  | b :: _ => trSeq (bankTrailer s pair b) + 1
  | [] => 1

end Sys2Proof.Machine
end

