-- ==== Sys2Proof/Machine/BaleFmt.lean ====
section
/-! DEFINITION. What lies in a Bale image: the header (R277, R278), shards and their repair (R280, R283), the manifest (R281), and
the objects, read and checked: vocabulary (R111 to R118), grammar (R212 to R218), classifier (R176, R191, R195), seed (R196)
and classifier-set record (R282). -/

namespace Sys2Proof.Machine

/-! ## Header (R277, R278) -/

/-- A header block as read. -/
structure BaleHdr where
  format : W16
  k      : Nat
  shard  : Nat                         -- bytes of a shard
  paylen : Nat
  seq    : W32
  id     : W64
  keyid  : Nat
  nobj   : Nat
  manoff : Nat
  manlen : Nat
  deriving DecidableEq, Repr

/-- Reads a header block. -/
def baleHdr (l : List Byte) : BaleHdr :=
  { format := BitVec.ofNat 16 (leAt l 4 2), k := leAt l 6 1, shard := 4096 * leAt l 8 4, paylen := leAt l 12 8,
    seq := BitVec.ofNat 32 (leAt l 20 4), id := BitVec.ofNat 64 (leAt l 24 8), keyid := leAt l 32 2, nobj := leAt l 34 2,
    manoff := leAt l 36 4, manlen := leAt l 40 4 }

/-- Every field of a header is within its range. (DEDUCED, log entry 50) -/
def hdrRanges (l : List Byte) : Bool :=
  let h := baleHdr l
  decide (2 ≤ h.k) && decide (h.k ≤ 64) && decide (leAt l 7 1 = 0) && decide (1 ≤ leAt l 8 4) &&
  decide (leAt l 8 4 ≤ 1048576) && decide (1 ≤ h.paylen) && decide (h.paylen ≤ min (h.k * h.shard) (2 ^ 36)) &&
  decide (h.keyid ≤ 7) && decide (1 ≤ h.nobj) && decide (h.nobj ≤ 4096) && allZero (slice l 44 84) &&
  allZero (slice l 3728 240) && allZero (slice l 4072 24)

/-- A header copy is good (R278). -/
def hdrGood (s : State) (l : List Byte) : Bool :=
  decide (l.length = 4096) && decide (leAt l 0 4 = 0x4C424156) && hdrRanges l &&
  decide (crc64 (l.take 4064) = BitVec.ofNat 64 (leAt l 4064 8)) &&
  sigGood s (baleHdr l).keyid (l.take 3968) (slice l 3968 48) (slice l 4016 48)

/-- The copy that the loader uses: A if it is good, else B (R278). -/
def usedHdr (s : State) (m : BaleImage) : Option (List Byte) :=
  if hdrGood s m.hdrA then some m.hdrA else if hdrGood s m.hdrB then some m.hdrB else none

/-- The bytes of an image (R276). -/
def imageLen (h : BaleHdr) : Nat := 8192 + (h.k + 2) * h.shard

/-- Bytes of the object heap that staging takes (R284). -/
def stagingLen (h : BaleHdr) : Nat := granules h.paylen

/-! ## Shards (R280) -/

/-- SCRC and SDIG of a shard. -/
def scrc (l : List Byte) (i : Nat) : BitVec 64 := BitVec.ofNat 64 (leAt l (128 + 8 * i) 8)
def sdig (l : List Byte) (i : Nat) : BitVec 384 := BitVec.ofNat 384 (leAt l (656 + 48 * i) 48)
/-- A shard's bytes in the image. -/
def shardOf (m : BaleImage) (i : Nat) : List Byte := m.shards.getD i []
/-- The shard is missing (R280). -/
def shardMissing (s : State) (i : Nat) : Bool := !(bitsOf s.load.present i 1 = 1) || s.load.missing.contains i
/-- A data shard matches its digest. -/
def digGood (h : List Byte) (i : Nat) (d : List Byte) : Bool := decide (Config.sha384 d = sdig h i)
/-- A shard is missing or corrupt (R280). -/
def shardBad (s : State) (h : List Byte) (m : BaleImage) (i : Nat) : Bool :=
  let d := shardOf m i
  shardMissing s i || decide (crc64 d ≠ scrc h i) || (decide (i < (baleHdr h).k) && !digGood h i d)

/-! ## GF(2^8) and repair (R283) -/

/-- Twice an element of GF(2^8) under 0x11D. -/
def gf2 (x : Byte) : Byte := if x.getLsbD 7 then (x <<< 1) ^^^ 0x1D else x <<< 1
/-- A product in GF(2^8). -/
def gfMul (a b : Byte) : Byte :=
  ((List.range 8).foldl (fun (p : Byte × Byte) i => (if b.getLsbD i then p.1 ^^^ p.2 else p.1, gf2 p.2)) (0, a)).1
/-- 2^j in GF(2^8). -/
def gfPow (j : Nat) : Byte := (List.range j).foldl (fun x _ => gf2 x) 1
/-- The inverse in GF(2^8): the power 254. -/
def gfInv (a : Byte) : Byte :=
  let sq (x : Byte) : Byte := gfMul x x
  ((List.range 7).foldl (fun (p : Byte × Byte) _ => let q := sq p.2; (gfMul p.1 q, q)) (1, a)).1
/-- Two shards added bytewise. -/
def xorBytes (a b : List Byte) : List Byte := List.zipWith (· ^^^ ·) a b
/-- A shard times a constant. -/
def mulBytes (c : Byte) (l : List Byte) : List Byte := l.map (gfMul c)
/-- The sum over the data shards outside `bad`, each times a power of two where `q` is set: P and Q of R283. -/
def paritySum (q : Bool) (len : Nat) (data : List (List Byte)) (bad : List Nat) : List Byte :=
  (data.zipIdx).foldl (fun a x => if bad.contains x.2 then a
    else xorBytes a (if q then mulBytes (gfPow x.2) x.1 else x.1)) (zeros len)
/-- One data shard from P. -/
def rebuildP (len : Nat) (data : List (List Byte)) (a : Nat) (p : List Byte) : List Byte :=
  xorBytes p (paritySum false len data [a])
/-- One data shard from Q. -/
def rebuildQ (len : Nat) (data : List (List Byte)) (a : Nat) (q : List Byte) : List Byte :=
  mulBytes (gfInv (gfPow a)) (xorBytes q (paritySum true len data [a]))
/-- Two data shards from P and Q. -/
def rebuildPQ (len : Nat) (data : List (List Byte)) (a b : Nat) (p q : List Byte) : List Byte × List Byte :=
  let pv := xorBytes p (paritySum false len data [a, b])
  let qv := xorBytes q (paritySum true len data [a, b])
  let da := mulBytes (gfInv (gfPow a ^^^ gfPow b)) (xorBytes qv (mulBytes (gfPow b) pv))
  (da, xorBytes pv da)

/-- What the loader knows after its reads so far: the data, a shard to read next, or too many failures. -/
inductive Repair where
  | good (data : List (List Byte)) (failed : List Nat)
  | need (shard : Nat)
  | lost (failed : List Nat)
  deriving DecidableEq, Repr

/-- Repair with one failed data shard from Q, after P failed or gave a wrong rebuild. (DEDUCED, log entry 51) -/
def repairQ (s : State) (h : List Byte) (m : BaleImage) (data : List (List Byte)) (a : Nat) : Repair :=
  let k := (baleHdr h).k
  if !(s.load.asked.contains (k + 1)) && !shardMissing s (k + 1) then .need (k + 1)
  else if shardBad s h m (k + 1) then .lost [a, k, k + 1]
  else
    let d := rebuildQ (baleHdr h).shard data a (shardOf m (k + 1))
    if digGood h a d then .good (data.set a d) [a, k] else .lost [a, k, k + 1]

/-- The repair of R283: P, and then Q, are read only as far as it needs them; a rebuilt shard that does not match its digest is
one more failure, charged to the parity shard used. (DEDUCED, log entry 51) -/
def repair (s : State) (h : List Byte) (m : BaleImage) : Repair :=
  let k := (baleHdr h).k
  let len := (baleHdr h).shard
  let data := (List.range k).map (shardOf m)
  let unread (i : Nat) : Bool := !s.load.asked.contains i && !shardMissing s i
  match (List.range k).filter (shardBad s h m) with
  | [] => .good data []
  | [a] =>
    if unread k then .need k
    else if shardBad s h m k then repairQ s h m data a
    else
      let d := rebuildP len data a (shardOf m k)
      if digGood h a d then .good (data.set a d) [a] else repairQ s h m data a
  | [a, b] =>
    if unread k then .need k
    else if shardBad s h m k then .lost ([a, b, k] ++ ([k + 1].filter (shardMissing s)))
    else if unread (k + 1) then .need (k + 1)
    else if shardBad s h m (k + 1) then .lost [a, b, k + 1]
    else
      let (da, db) := rebuildPQ len data a b (shardOf m k) (shardOf m (k + 1))
      if digGood h a da && digGood h b db then .good ((data.set a da).set b db) [a, b] else .lost [a, b, k + 1]
  | l => .lost (l ++ ([k, k + 1].filter (shardMissing s)))

/-! ## Manifest (R281) -/

/-- A manifest entry. -/
structure ManEnt where
  otype : Nat
  slot  : Nat
  sub   : Nat
  home  : Nat
  rill  : Nat
  off   : Nat
  len   : Nat
  deriving DecidableEq, Repr

/-- Reads entry `i` of a manifest. -/
def manEnt (m : List Byte) (i : Nat) : ManEnt :=
  let x := leNat (slice m (16 + 32 * i) 32)
  { otype := bitsOf x 0 8, slot := bitsOf x 8 8, sub := bitsOf x 16 8, home := bitsOf x 24 2, rill := bitsOf x 32 7,
    off := bitsOf x 64 64, len := bitsOf x 128 64 }

/-- The reserved bits of a manifest entry are zero. -/
def manResv (m : List Byte) (i : Nat) : Bool :=
  let x := leNat (slice m (16 + 32 * i) 32)
  decide (bitsOf x 26 6 = 0) && decide (bitsOf x 39 25 = 0) && decide (bitsOf x 192 64 = 0)

/-- An entry keeps to its ranges, and its home is one that R264 allows for its kind. -/
def manEntGood (paylen : Nat) (e : ManEnt) : Bool :=
  decide (1 ≤ e.otype) && decide (e.otype ≤ 6) &&
  decide (e.slot < (if e.otype = 1 then 16 else if e.otype = 2 then 256 else 64)) &&
  (if e.otype = 3 then decide (e.sub ≤ 3) else if e.otype = 5 then decide (1 ≤ e.sub) && decide (e.sub ≤ 3) else decide (e.sub = 0)) &&
  (if e.otype = 4 ∨ e.otype = 5 then decide (e.home = 0) else if e.otype = 6 then decide (e.home = 1) else true) &&
  decide (e.off % 65536 = 0) && decide (e.off + e.len ≤ paylen)

/-- No two objects overlap. -/
def noOverlap : List ManEnt → Bool
  | [] => true
  | e :: r => (r.all fun f => apart e.off e.len f.off f.len) && noOverlap r

/-- The manifest's entries, when it keeps its rules. -/
def manifest (h : BaleHdr) (pay : List Byte) : Option (List ManEnt) :=
  let m := slice pay h.manoff h.manlen
  let es := (List.range h.nobj).map (manEnt m)
  if decide (h.manoff + h.manlen ≤ h.paylen) && decide (h.manlen = 16 + 32 * h.nobj) && decide (leAt m 0 2 = 1) &&
      decide (leAt m 2 2 = h.nobj) && allZero (slice m 4 12) && ((List.range h.nobj).all (manResv m)) &&
      es.all (manEntGood h.paylen) && noOverlap es then some es else none

/-! ## Vocabulary (R111 to R118) -/

/-- A merge: left, right, result. -/
abbrev Merge := Nat × Nat × Nat

/-- Whether a table of `n` entries of `w` bytes at `off` lies inside an object. -/
def tableIn (o : List Byte) (off n w : Nat) : Bool := decide (off + n * w ≤ o.length)

/-- The fields of a vocabulary header. -/
structure VHdr where
  ntok : Nat
  nmerge : Nat
  nrange : Nat
  eostok : Nat
  ixbits : Nat
  ixseed : Nat
  offtok : Nat
  offpool : Nat
  poollen : Nat
  offmerge : Nat
  offix : Nat
  offbase : Nat
  offrange : Nat
  deriving DecidableEq, Repr

/-- Reads a vocabulary header (R111). -/
def vHdr (o : List Byte) : VHdr :=
  let x := leNat (o.take 64)
  { ntok := bitsOf x 32 20, nmerge := bitsOf x 64 21, nrange := bitsOf x 96 13, eostok := bitsOf x 128 19,
    ixbits := bitsOf x 160 5, ixseed := bitsOf x 165 3, offtok := bitsOf x 192 32, offpool := bitsOf x 224 32,
    poollen := bitsOf x 256 32, offmerge := bitsOf x 288 32, offix := bitsOf x 320 32, offbase := bitsOf x 352 32,
    offrange := bitsOf x 384 32 }

/-- The ranges of R111 and R118 hold and every table lies inside the object. (DEDUCED, log entry 50) -/
def vHdrGood (o : List Byte) (h : VHdr) : Bool :=
  decide (64 ≤ o.length) && decide (leAt o 0 2 = 1) && decide (1 ≤ h.ntok) && decide (h.ntok ≤ 524288) &&
  decide (h.nmerge ≤ 1048576) && decide (h.nrange ≤ 4096) && decide (h.ixbits ≤ 18) && decide (h.poollen ≤ 16777216) &&
  decide (h.nmerge ≤ 6 * 2 ^ h.ixbits) && decide (h.eostok < h.ntok) && tableIn o h.offtok h.ntok 8 &&
  tableIn o h.offpool h.poollen 1 && tableIn o h.offmerge h.nmerge 8 && tableIn o h.offix (2 ^ h.ixbits) 64 &&
  tableIn o h.offbase 512 4 && tableIn o h.offrange (h.nrange * 8 + 32) 1

/-- Token `i` with its bytes; none when they lie outside the string pool (R112). -/
def vToken (o : List Byte) (h : VHdr) (i : Nat) : Option TokEnt :=
  let x := leAt o (h.offtok + 8 * i) 8
  let off := bitsOf x 0 32
  let len := bitsOf x 32 8 + 1
  if bitsOf x 40 1 = 0 then some { bytes := [], emit := false }
  else if off + len ≤ h.poollen then some { bytes := slice o (h.offpool + off) len, emit := true }
  else none

/-- Every element, when none is missing. -/
def allSome {α : Type} : List (Option α) → Option (List α)
  | [] => some []
  | a :: r => match a, allSome r with
    | some a, some r => some (a :: r)
    | _, _ => none

/-- The merges in rank order (R113). -/
def vMerges (o : List Byte) (h : VHdr) : List Merge :=
  (List.range h.nmerge).map fun i =>
    let x := leAt o (h.offmerge + 8 * i) 8
    (bitsOf x 0 19, bitsOf x 19 19, bitsOf x 38 19)

/-- Bytes of a text token, none for any other ID. -/
def textOf (toks : List TokEnt) (i : Nat) : Option (List Byte) :=
  match toks[i]? with
  | some t => if t.emit then some t.bytes else none
  | none => none

/-- The merge table is well ordered (R114): `made` holds the results of lower rank. -/
def mergesGood (toks : List TokEnt) (base : List Nat) : List Nat → List (Nat × Nat) → List Merge → Bool
  | _, _, [] => true
  | made, pairs, (l, r, x) :: rest =>
    (match textOf toks l, textOf toks r, textOf toks x with
      | some a, some b, some c => decide (c = a ++ b)
      | _, _, _ => false) &&
    (base.contains l || made.contains l) && (base.contains r || made.contains r) && !made.contains x &&
    !pairs.contains (l, r) && mergesGood toks base (x :: made) ((l, r) :: pairs) rest

/-- The base or fallback table: each entry a text token whose bytes are the byte (R115). -/
def byteTable (o : List Byte) (h : VHdr) (toks : List TokEnt) (k : Nat) : Option (List Nat) :=
  allSome ((List.range 256).map fun b =>
    let id := bitsOf (leAt o (h.offbase + 1024 * k + 4 * b) 4) 0 19
    if textOf toks id = some [BitVec.ofNat 8 b] then some id else none)

/-- The class ranges (R116). -/
def vRanges (o : List Byte) (h : VHdr) : List (Nat × Nat × Nat) :=
  (List.range h.nrange).map fun i =>
    let x := leAt o (h.offrange + 8 * i) 8
    (bitsOf x 0 21, bitsOf x 21 21, bitsOf x 42 4)

/-- The class ranges are sorted, apart and within the code points (R116). -/
def rangesGood : Nat → List (Nat × Nat × Nat) → Bool
  | _, [] => true
  | lo, (a, b, _) :: r => decide (lo ≤ a) && decide (a ≤ b) && decide (b ≤ 0x10FFFF) && rangesGood (b + 1) r

/-- The bucket of a pair (R117). -/
def pairBucket (h : VHdr) (l r : Nat) : Nat :=
  (l * 0x9E3779B1 + r * 0x85EBCA6B + (h.ixseed + 1) * 0xC2B2AE35) % 2 ^ 32 / 2 ^ (32 - h.ixbits)

/-- The valid slots of the pair index, each with its bucket (R117). -/
def vSlots (o : List Byte) (h : VHdr) : List (Nat × PairSlot) :=
  (List.range (2 ^ h.ixbits)).flatMap fun b => (List.range 6).filterMap fun j =>
    let x := leAt o (h.offix + 64 * b + 10 * j) 10
    if bitsOf x 77 1 = 1 then
      some (b, { left := bitsOf x 0 19, right := bitsOf x 19 19, result := bitsOf x 38 19, rank := bitsOf x 57 20 })
    else none

/-- The pair index covers every merge exactly once, in the bucket of R117. -/
def slotsGood (h : VHdr) (ms : List Merge) (l : List (Nat × PairSlot)) : Bool :=
  decide (l.length = ms.length) && decide ((l.map fun x => x.2.rank).Nodup) &&
  l.all fun x => decide (ms[x.2.rank]? = some (x.2.left, x.2.right, x.2.result)) &&
    decide (pairBucket h x.2.left x.2.right = x.1)

/-- A vocabulary object as loaded, unless R118 rejects it. (DESIGN CHOICE, log entry 9) -/
def parseVocab (o : List Byte) : Option Vocab :=
  let h := vHdr o
  if !vHdrGood o h then none
  else match allSome ((List.range h.ntok).map (vToken o h)) with
    | none => none
    | some toks => match byteTable o h toks 0, byteTable o h toks 1 with
      | some base, some fb =>
        let ms := vMerges o h
        let slots := vSlots o h
        if mergesGood toks base [] [] ms && rangesGood 0 (vRanges o h) && slotsGood h ms slots then
          some { ntok := h.ntok, eostok := h.eostok, tokens := toks, base := base, fallback := fb, ranges := vRanges o h,
                 matrix := (List.range 16).map fun i => BitVec.ofNat 16 (leAt o (h.offrange + 8 * h.nrange + 2 * i) 2),
                 pairs := slots.map (·.2) }
        else none
      | _, _ => none

/-! ## Grammar (R212 to R218) -/

/-- The fields of a grammar header. -/
structure GHdr where
  vslot : Nat
  vntok : Nat
  nstate : Nat
  nclass : Nat
  nsymm1 : Nat
  start : Nat
  ntrans : Nat
  nref : Nat
  nmaskm1 : Nat
  masklen : Nat
  offcmap : Nat
  offstate : Nat
  offtrans : Nat
  offref : Nat
  offmask : Nat
  deriving DecidableEq, Repr

/-- Reads a grammar header (R212). -/
def gHdr (o : List Byte) : GHdr :=
  let x := leNat (o.take 64)
  { vslot := bitsOf x 16 4, vntok := bitsOf x 32 20, nstate := bitsOf x 64 17, nclass := bitsOf x 96 17,
    nsymm1 := bitsOf x 128 8, start := bitsOf x 136 16, ntrans := bitsOf x 160 32, nref := bitsOf x 192 32,
    nmaskm1 := bitsOf x 224 16, masklen := bitsOf x 240 16, offcmap := bitsOf x 256 32, offstate := bitsOf x 288 32,
    offtrans := bitsOf x 320 32, offref := bitsOf x 352 32, offmask := bitsOf x 384 32 }

/-- The header is in range, its reserved fields are zero, and every table lies inside the object (R212, R218). -/
def gHdrGood (o : List Byte) (h : GHdr) : Bool :=
  let x := leNat (o.take 64)
  decide (64 ≤ o.length) && decide (o.length ≤ 2 ^ 30) && decide (bitsOf x 0 16 = 1) && decide (1 ≤ h.vntok) &&
  decide (h.vntok ≤ 524288) && decide (1 ≤ h.nstate) && decide (h.nstate ≤ 65536) && decide (1 ≤ h.nclass) &&
  decide (h.nclass ≤ 65536) && decide (h.start < h.nstate) && decide (1 ≤ h.ntrans) && decide (h.ntrans ≤ 16777216) &&
  decide (h.nref ≤ 16777216) && decide (h.masklen = ceilDiv h.vntok 512) && decide (bitsOf x 20 12 = 0) &&
  decide (bitsOf x 52 12 = 0) && decide (bitsOf x 81 15 = 0) && decide (bitsOf x 113 15 = 0) && decide (bitsOf x 152 8 = 0) &&
  decide (bitsOf x 416 96 = 0) && tableIn o h.offcmap h.vntok 2 && tableIn o h.offstate h.nstate 16 &&
  tableIn o h.offtrans h.ntrans 24 && tableIn o h.offref h.nref 4 && tableIn o h.offmask (h.nmaskm1 + 1) (64 * h.masklen)

/-- Transition `i`, unless it breaks R215 or leaves its ranges. -/
def gTrans (o : List Byte) (h : GHdr) (i : Nat) : Option Trans :=
  let x := leNat (slice o (h.offtrans + 24 * i) 24)
  let npop := bitsOf x 32 4
  let npush := bitsOf x 36 4
  let syms (lo n : Nat) : List Byte := leBytes n (bitsOf x lo 64)
  let cls := bitsOf x 0 16
  let next := bitsOf x 16 16
  if decide (1 ≤ cls) && decide (cls < h.nclass) && decide (next < h.nstate) && decide (npop ≤ 8) && decide (npush ≤ 8) &&
      decide (bitsOf x 40 24 = 0) && decide (bitsOf x 64 64 < 2 ^ (8 * npop)) && decide (bitsOf x 128 64 < 2 ^ (8 * npush)) &&
      ((syms 64 npop ++ syms 128 npush).all fun b => decide (b.toNat ≤ h.nsymm1)) then
    some { cls := cls, next := next, pop := syms 64 npop, push := syms 128 npush }
  else none

/-- One pop list is the start of the other: both transitions can apply to one stack. -/
def popsMeet (a b : List Byte) : Bool := a.isPrefixOf b || b.isPrefixOf a

/-- The transitions of one state are sorted by class, and no two of a class can apply to one stack (R215, R218).  An
unconditional transition has no pops and so meets every other of its class. -/
def transGood : List Trans → Bool
  | [] => true
  | a :: r => (r.all fun b => decide (a.cls ≤ b.cls) && !(decide (a.cls = b.cls) && popsMeet a.pop b.pop)) && transGood r

/-- The list rises strictly. -/
def risesStrictly : List Nat → Bool
  | a :: b :: r => decide (a < b) && risesStrictly (b :: r)
  | _ => true

/-- State `q` with its own transitions and refinement tokens, unless it breaks R214 to R218. -/
def gState (o : List Byte) (h : GHdr) (cmap : List Nat) (masks : List (List Byte)) (q : Nat) : Option GState :=
  let x := leNat (slice o (h.offstate + 16 * q) 16)
  let maskid := bitsOf x 0 16
  let trb := bitsOf x 32 24
  let trc := bitsOf x 56 13
  let rfb := bitsOf x 72 24
  let rfc := bitsOf x 96 13
  let ref (i : Nat) : Nat := leAt o (h.offref + 4 * (rfb + i)) 4
  let refs := (List.range rfc).map fun i => bitsOf (ref i) 0 19
  match allSome ((List.range trc).map fun i => gTrans o h (trb + i)) with
  | none => none
  | some ts =>
    let hard (t : Nat) : Bool := ts.any fun y => decide (y.cls = cmap.getD t 0) && !y.pop.isEmpty
    let free (t : Nat) : Bool := ts.any fun y => decide (y.cls = cmap.getD t 0) && y.pop.isEmpty
    let bit (t : Nat) : Bool := bitAt ((masks.getD maskid []).getD (t / 8) 0) (t % 8)
    if decide (bitsOf x 17 15 = 0) && decide (bitsOf x 69 3 = 0) && decide (bitsOf x 109 19 = 0) && decide (maskid ≤ h.nmaskm1) &&
        decide (trc ≤ 4096) && decide (rfc ≤ 4096) && decide (trb + trc ≤ h.ntrans) && decide (rfb + rfc ≤ h.nref) &&
        transGood ts && risesStrictly refs && (refs.all fun t => decide (t < h.vntok)) &&
        ((List.range rfc).all fun i => decide (bitsOf (ref i) 31 1 = 0) &&
          decide (some (bitsOf (ref i) 19 12) = ts.findIdx? fun y => decide (y.cls = cmap.getD (refs.getD i 0) 0))) &&
        ((List.range h.vntok).all fun t => decide (refs.contains t = hard t) && decide (bit t = free t)) then
      some { maskid := maskid, accept := bitsOf x 16 1 = 1, trans := ts, refs := refs }
    else none

/-- Every entry of the transition and refinement tables keeps its ranges, whether or not a state's block covers it (R218). -/
def gEntriesGood (o : List Byte) (h : GHdr) : Bool :=
  ((List.range h.ntrans).all fun i => (gTrans o h i).isSome) &&
  ((List.range h.nref).all fun i => let x := leAt o (h.offref + 4 * i) 4
    decide (bitsOf x 0 19 < h.vntok) && decide (bitsOf x 31 1 = 0))

/-- Class 0 holds every token that is no text token, and EOSTOK whatever its entry says (R213, R218). -/
def controlsGood (v : Vocab) (cmap : List Nat) : Bool :=
  (List.range v.ntok).all fun t =>
    ((textOf v.tokens t).isSome && decide (t ≠ v.eostok)) || decide (cmap.getD t 0 = 0)

/-- A grammar object as loaded, unless R218 rejects it; `vocab` gives the vocabulary of a slot of the set being built. (DESIGN CHOICE, log entry 9) -/
def parseGrammar (vocab : Nat → Option Vocab) (o : List Byte) : Option Grammar :=
  let h := gHdr o
  match vocab h.vslot with
  | none => none
  | some v =>
    let cmap := (List.range h.vntok).map fun t => leAt o (h.offcmap + 2 * t) 2
    let masks := (List.range (h.nmaskm1 + 1)).map fun i => slice o (h.offmask + 64 * h.masklen * i) (64 * h.masklen)
    if !(gHdrGood o h && decide (v.ntok = h.vntok) && (cmap.all fun c => decide (c < h.nclass)) &&
        controlsGood v cmap && gEntriesGood o h &&
        masks.all fun m => decide (leNat m < 2 ^ h.vntok)) then none
    else (allSome ((List.range h.nstate).map (gState o h cmap masks))).map fun qs =>
      { vslot := h.vslot, vntok := h.vntok, start := h.start, cmap := cmap, states := qs, masks := masks }

/-! ## Classifier, seed, set record -/

/-- A weight tensor keeps R176. -/
def tensorGood (t : TensorDesc) : Bool :=
  decide (t.outputs % 32 = 0) && decide (t.reduction % 32 = 0) && decide (t.gsize = 32 ∨ t.gsize = 64 ∨ t.gsize = 128) &&
  decide (t.reduction % t.gsize = 0) && decide (t.reduction ≤ 32768) &&
  decide (t.codes.length = t.outputs * t.reduction / 2) &&
  decide (t.scales.length = t.outputs * (t.reduction / t.gsize)) && decide (t.chans.length = t.outputs) &&
  (t.scales.all fun w => decide (fld w 12 4 = 0)) && t.chans.all fun w => decide (fld w 44 20 = 0)

/-- WEXP is the same in every channel of each output group of a point (R191). -/
def equalWexp (d : ClassDesc) (p : PointDesc) : Bool :=
  match p.tensor with
  | none => true
  | some (i, g) => match d.tensors[i]? with
    | none => false
    | some t => decide (1 ≤ g) && (chunksOf g t.chans).all fun l => l.all fun w => decide (chanWexp w = chanWexp (l.headD 0))

/-- A classifier object keeps R176, R191 and R195. -/
def classGood (d : ClassDesc) : Bool :=
  d.tensors.all tensorGood && decide (1 ≤ d.points.length) && decide (d.points.length ≤ 128) &&
  (d.points.all fun p => decide (p.groups ≤ 128) && equalWexp d p) && d.kbases.all fun k => decide (k.1 = k.2 + 2)

/-- The points of a carried block or seed for given group counts (R196): an exponent word, then one word for each group. -/
def seedPoints : List Nat → List Byte → Option (List (Nat × List Nat))
  | [], l => if l.isEmpty then some [] else none
  | g :: r, l =>
    let e := leAt l 0 2
    let ws := (List.range g).map fun i => leAt l (2 + 2 * i) 2
    if decide (2 + 2 * g ≤ l.length) && decide (e < 64) && ws.all fun w => decide (w < 4096) then
      (seedPoints r (l.drop (2 + 2 * g))).map fun x => (e, ws) :: x
    else none

/-- A seed object against the points of its classifier (R196). (DESIGN CHOICE, log entry 9) -/
def parseSeed (d : ClassDesc) (o : List Byte) : Option Carried :=
  if decide (16 ≤ o.length) && decide (leAt o 0 2 = 1) && decide (leAt o 2 1 = d.points.length) && decide (leAt o 3 1 = 0) &&
      decide (leAt o 4 4 = 0xFFFFFFFF) && allZero (slice o 8 8) then
    (seedPoints (d.points.map (·.groups)) (o.drop 16)).map fun p => { points := p }
  else none

/-- A seed that no record names follows the layout of R196, with no points to hold it against. -/
def seedForm (o : List Byte) : Bool :=
  decide (16 ≤ o.length) && decide (leAt o 0 2 = 1) && decide (1 ≤ leAt o 2 1) && decide (leAt o 2 1 ≤ 128) && decide (leAt o 3 1 = 0) &&
    decide (leAt o 4 4 = 0xFFFFFFFF) && allZero (slice o 8 8) && decide (16 + 4 * leAt o 2 1 ≤ o.length)

/-- A marker entry (R282). -/
def parseMarker (l : List Byte) : Option Marker :=
  let n := leAt l 3 1
  let k := leAt l 132 2
  if decide (leAt l 0 2 ≠ 0) && decide (leAt l 2 1 < 16) && decide (n ≤ 128) && decide (k ≤ 64) && allZero (slice l 390 122) then
    some { markid := BitVec.ofNat 16 (leAt l 0 2), vslot := leAt l 2 1, text := slice l 4 n,
           tokens := (List.range k).map fun i => leAt l (134 + 4 * i) 4 }
  else none

/-- A classifier-set record (R282): the record with manifest indices in its object fields. (DESIGN CHOICE, log entry 9; DEDUCED, log entry 50) -/
def parseRec (o : List Byte) : Option SetRec :=
  let x := leNat (o.take 64)
  let nm := bitsOf x 144 8
  match allSome ((List.range nm).map fun i => parseMarker (slice o (64 + 512 * i) 512)) with
  | none => none
  | some ms =>
    if decide (64 + 512 * nm ≤ o.length) && decide (bitsOf x 0 16 = 1) && decide (bitsOf x 22 2 = 0) &&
        decide (1 ≤ bitsOf x 24 8) && decide (bitsOf x 24 8 ≤ 128) && decide (1 ≤ bitsOf x 64 7) && decide (bitsOf x 64 7 ≤ 64) &&
        decide (bitsOf x 72 24 = 0) && decide (1 ≤ bitsOf x 128 16) && decide (bitsOf x 128 16 ≤ 6553) &&
        decide (bitsOf x 152 8 = 0) && decide (bitsOf x 220 292 = 0) then
      some { tenant := bitsOf x 16 6, minRills := bitsOf x 24 8, thresh := bitsOf x 32 32, cap := bitsOf x 64 7,
             capref := bitsOf x 71 1 = 1, fscap := bitsOf x 96 32, passstr := bitsOf x 128 16, markers := ms,
             win := bitsOf x 160 12, sum := bitsOf x 172 12, fst := bitsOf x 184 12, deep := bitsOf x 196 12,
             seed := bitsOf x 208 12, obj := 0 }
    else none

/-- The index fields of a record name objects of this manifest, of their role and tenant (R282). -/
def recIndices (es : List ManEnt) (r : SetRec) : Bool :=
  let isAt (i t sub : Nat) : Bool := match es[i]? with
    | some e => decide (e.otype = t) && decide (e.sub = sub) && decide (e.slot = r.tenant)
    | none => false
  isAt r.win 3 0 && isAt r.sum 3 1 && isAt r.fst 3 2 && isAt r.deep 3 3 && isAt r.seed 4 0

/-- Each marker has exactly one entry for every vocabulary slot that is filled (R282). (DEDUCED, log entry 50) -/
def markersGood (filled : List Nat) (r : SetRec) : Bool :=
  r.markers.all fun m => filled.all fun v =>
    decide ((r.markers.filter fun n => decide (n.markid = m.markid) && decide (n.vslot = v)).length = 1)

end Sys2Proof.Machine
end

