-- ==== Sys2Proof/Machine/BaleOps.lean ====
section
/-! DEFINITION. The Bale loader: the checks of a whole Bale and the shadow table it builds (R279, R281, R282, R284), the banks of
its Fen entry sets (R151), how a load ends (R285), and the epoch switch (R208, R288). -/

namespace Sys2Proof.Machine

/-! ## Objects of the payload -/

/-- A check that fails with a status, or goes on. -/
abbrev Checked (α : Type) := Except W16 α

/-- A condition, or a status. -/
def need (c : Bool) (st : W16) : Checked Unit := if c then .ok () else .error st

/-- A value, or a status. -/
def require {α : Type} (o : Option α) (st : W16) : Checked α := match o with | some a => .ok a | none => .error st

/-- The bytes of an object. -/
def objBytes (pay : List Byte) (e : ManEnt) : List Byte := slice pay e.off e.len

/-- The free object IDs for a Bale, lowest first (R263). (DESIGN CHOICE, log entry 26; DEDUCED, log entry 49) -/
def freeIds (s : State) : List Nat :=
  ((List.range 65534).map (65538 + ·)).filter fun i => decide ((objOf s i).state = .free)

/-- The vocabularies of the set being built: those of the Bale, else those of the active set. -/
def newVocab (s : State) (vs : List (Nat × Vocab)) (slot : Nat) : Option Vocab :=
  match vs.find? fun x => x.1 = slot with
  | some x => some x.2
  | none =>
    let o := smGet 0 (actTab s).vocabs slot
    if o = 0 then none else match (objOf s (o - 1)).content with
      | .vocab v => some v
      | _ => none

/-- The vocabularies that a Bale carries, by slot. -/
def baleVocabs (pay : List Byte) (es : List ManEnt) : Checked (List (Nat × Vocab)) :=
  require (allSome ((es.filter fun e => e.otype = 1).map fun e => (parseVocab (objBytes pay e)).map fun v => (e.slot, v)))
    stObjectInvalid

/-- The classifier descriptors by manifest index, each of them good, with tensors that lie inside the object (R176). -/
def baleClasses (m : BaleImage) (es : List ManEnt) : Checked (List (Nat × ClassDesc)) :=
  require (allSome ((es.zipIdx.filter fun x => x.1.otype = 3).map fun x =>
    match m.classes.find? fun d => d.manIdx = x.2 with
    | some d => if classGood d && decide ((d.tensors.map tensorSize).sum ≤ x.1.len) then some (x.2, d) else none
    | none => none)) stObjectInvalid

/-- The classifier-set records of a Bale, by manifest index: their indices are good, and no tenant has two (R282). -/
def baleRecs (pay : List Byte) (es : List ManEnt) : Checked (List (Nat × SetRec)) := do
  let rs ← require (allSome ((es.zipIdx.filter fun x => x.1.otype = 6).map fun x =>
    (parseRec (objBytes pay x.1)).map fun r => (x.2, r))) stObjectInvalid
  need (rs.all fun x => recIndices es x.2) stObjectInvalid
  need (decide ((rs.map fun x => x.2.tenant).Nodup)) stObjectInvalid
  return rs

/-- The content of a seed: it fits the points of its set's first-stage classifier (R196).  A seed that no record names has its layout
checked, with no points to hold it against. (DEDUCED, log entry 50) -/
def seedOfEnt (pay : List Byte) (rs : List (Nat × SetRec)) (cs : List (Nat × ClassDesc)) (i : Nat) (e : ManEnt) :
    Checked Content :=
  match rs.find? fun x => x.2.seed = i with
  | none => if seedForm (objBytes pay e) then .ok (.seed {}) else .error stObjectInvalid
  | some x => do
    let d ← require ((cs.find? fun y => y.1 = x.2.fst).map (·.2)) stObjectInvalid
    let c ← require (parseSeed d (objBytes pay e)) stObjectInvalid
    return .seed c

/-! ## Fen entry sets (R141, R147, R151) -/

/-- An entry set is legal for its key type and tenant: entries and their uniqueness, at most two banks of indices. -/
def fenSetGood (kt tenant : Nat) (l : List (Nat × FenEntry)) : Bool :=
  (l.all fun x => entryLegal kt (some tenant) (entryBits x.2) && decide (x.1 < 16384)) && decide ((l.map (·.1)).Nodup) &&
  (decide (kt = ktHeader) || decide ((l.map fun x => countIdent (kt = ktHashed) x.2).Nodup))

/-- The banks of a tenant and key type that a Bale may load (R151). (DEDUCED, log entry 52) -/
def freeBanks (s : State) (tenant kt : Nat) (taken : List Nat) : List Nat :=
  (List.range 64).filter fun b =>
    let c := bankCfgOf s b
    c.used && !c.shared && decide (c.owner = tenant) && decide (c.ktype = kt) && !(namedBanks s taken).contains b

/-- The lowest free bank, or the lowest two of one pipeline group when the set needs two (R150, R151). (DESIGN CHOICE, log entry 88) -/
def pickBanks (free : List Nat) (two : Bool) : Option (List Nat) :=
  if two then free.findSome? fun a => (free.find? fun b => decide (a < b) && decide (a / 4 = b / 4)).map fun b => [a, b]
  else free.head?.map fun a => [a]

/-- The bank-mask entry that selects these banks (R150). -/
def maskFor : List Nat → W16
  | [a] => BitVec.ofNat 16 (a + at' 1 13)
  | [a, b] => BitVec.ofNat 16 (a + at' b 6 + at' 1 12 + at' 1 13)
  | _ => 0

/-- The banks for each entry set of a Bale, by manifest index. -/
def placeFens (s : State) (m : BaleImage) : List (ManEnt × Nat) → List Nat →
    Checked (List (Nat × List Nat × List (Nat × FenEntry)))
  | [], _ => .ok []
  | (e, i) :: r, taken => do
    let d ← require (m.fens.find? fun d => d.manIdx = i) stObjectInvalid
    need (fenSetGood e.sub e.slot d.entries) stObjectInvalid
    let bs ← require (pickBanks (freeBanks s e.slot e.sub taken) (d.entries.any fun x => 8192 ≤ x.1)) stNoFenBanks
    let rest ← placeFens s m r (taken ++ bs)
    return (i, bs, d.entries) :: rest

/-- Empties a bank: every entry is empty, with its shadow record (R161). -/
def clearBank (s : State) (b : Nat) : State :=
  { blankShadow { s with fen := s.fen.filter fun x => decide (x.1 / 8192 ≠ b) } b with opLog := smDel b s.opLog }

/-- Writes an entry set into its banks, with its shadow records (R161, R284). -/
def loadBanks (s : State) (bs : List Nat) (l : List (Nat × FenEntry)) : State :=
  l.foldl (fun s x =>
    let b := bs.getD (x.1 / 8192) 0
    putShadow (writeEntry s b (x.1 % 8192) x.2) b (x.1 % 8192)) (bs.foldl clearBank s)

/-! ## Building the shadow table (R284) -/

/-- The kind of an object, from its OTYPE. -/
def kindOf (t : Nat) : ObjKind :=
  if t = 1 then .vocabulary else if t = 2 then .grammar else if t = 3 then .classifier else if t = 4 then .seed
  else if t = 5 then .fenSet else .setRecord

/-- The home that a manifest names (R281). -/
def prefHome (e : ManEnt) (banks : List Nat) : Home :=
  if e.otype = 5 then { tier := .fen, loc := BitVec.ofNat 64 (banks.headD 0) }
  else if e.home = 0 then { tier := .far }
  else if e.home = 1 then { tier := .near, pool := true }
  else if e.home = 2 then { tier := .near, rill := e.rill }
  else { tier := .slow }

/-- A Rill's home needs the Rill's dispatch-mask bit (R271). (DEDUCED, log entry 52) -/
def homeOpen (s : State) (h : Home) : Bool := decide (h.tier ≠ .near) || h.pool || s.mask.contains h.rill

/-- Puts one object of a Bale into the object table: a Fen entry set in its banks, every other object in its staging granules, from which
it moves to its home (R284). (DEDUCED, log entry 52) -/
def placeObj (s : State) (id : Nat) (e : ManEnt) (c : Content) (banks : List Nat) (who : W64 × W32) : State :=
  let h : Home := if e.otype = 5 then prefHome e banks else { tier := .far, loc := BitVec.ofNat 64 (s.load.stageAt + e.off) }
  let s := if e.otype ≠ 5 ∧ e.home ≠ 0 then { s with load := { s.load with moving := s.load.moving ++ [id] } } else s
  setObj s id { state := .home, kind := kindOf e.otype, home := h, owner := e.slot, size := e.len, pref := prefHome e banks, content := c,
                bale := who, off := e.off }

/-- The objects of a Bale. (DEDUCED, log entry 49) -/
def placeAll (who : W64 × W32) (l : List (Nat × ManEnt × Content × List Nat)) (s : State) : State :=
  l.foldl (fun s x => placeObj s x.1 x.2.1 x.2.2.1 x.2.2.2 who) s

/-- The home that an object of a load moves to: the slow tier's lowest region with room, else the home that its manifest names. -/
def loadHome (s : State) (id : Nat) : Home :=
  let o := objOf s id
  if o.pref.tier = .slow then slowHome s o.size else o.pref

/-- The moves of a load's objects out of the staging area to their preferred homes (R271, R284); a Rill's home needs its dispatch-mask
bit. (DEDUCED, log entry 52) -/
def loadMoves : List Nat → State → Checked State
  | [], s => .ok s
  | id :: r, s => do
    let h := loadHome s id
    need (homeOpen s h) stDoesNotFit
    let (s, st) := startLoadMove s id h
    need (decide (st = 0)) stDoesNotFit
    loadMoves r s

/-- The content of each object of a Bale, by manifest index. -/
def contents (s : State) (pay : List Byte) (es : List ManEnt) (vs : List (Nat × Vocab))
    (cs : List (Nat × ClassDesc)) (rs : List (Nat × SetRec)) (fens : List (Nat × List Nat × List (Nat × FenEntry)))
    (ids : List Nat) : Checked (List Content) :=
  let idOf (i : Nat) : Nat := ids.getD i 0
  (es.zipIdx).mapM fun x =>
    let e := x.1
    let i := x.2
    if e.otype = 1 then (require ((parseVocab (objBytes pay e)).map Content.vocab) stObjectInvalid)
    else if e.otype = 2 then require ((parseGrammar (newVocab s vs) (objBytes pay e)).map Content.grammar) stObjectInvalid
    else if e.otype = 3 then require ((cs.find? fun y => y.1 = i).map fun y => .classifier e.sub y.2) stObjectInvalid
    else if e.otype = 4 then seedOfEnt pay rs cs i e
    else if e.otype = 5 then require ((fens.find? fun y => y.1 = i).map fun y => .fenSet e.sub y.2.1 y.2.2) stObjectInvalid
    else require ((rs.find? fun y => y.1 = i).map fun y => .setRec { y.2 with
      win := idOf y.2.win, sum := idOf y.2.sum, fst := idOf y.2.fst, deep := idOf y.2.deep, seed := idOf y.2.seed,
      obj := idOf i }) stObjectInvalid

/-- The shadow table with the slots of one object pointed at it. (DEDUCED, log entry 52) -/
def pointAt (t : SetTab) (id : Nat) (e : ManEnt) (c : Content) (banks : List Nat) : SetTab :=
  match c with
  | .vocab _ => { t with vocabs := smSet 0 t.vocabs e.slot (id + 1) }
  | .grammar _ => { t with grams := smSet 0 t.grams e.slot (id + 1) }
  | .setRec r => { t with recs := smSet {} t.recs r.tenant r }
  | .fenSet kt _ _ => { t with fens := smSet 0 t.fens (4 * e.slot + kt) (id + 1),
                               masks := smSet 0 t.masks (4 * e.slot + kt) (maskFor banks) }
  | _ => t

/-- The Bales whose objects a table still names. (DEDUCED, log entry 57) -/
def liveBales (s : State) (t : SetTab) : List BaleRef :=
  t.bales.filter fun b => (tabObjs t).any fun o => decide ((objOf s o).bale = (b.baleid, b.baleseq))

/-- The active set holds the Bale with a BALESEQ that is not older (R279). -/
def notNewer (s : State) (h : BaleHdr) : Bool :=
  (liveBales s (actTab s)).any fun b => decide (b.baleid = h.id) && !older b.baleseq h.seq

/-- The estimate tables that the set's classifiers will need (R208, R263). -/
def tablesFor (es : List ManEnt) : Nat := es.countP fun e => decide (e.otype = 3)

/-- The classifiers of a record. -/
def recClasses (r : SetRec) : List Nat := [r.win, r.sum, r.fst, r.deep]

/-- Room in the object heap for the estimate tables that the set's classifiers will need (R208, R279): it is held until the switch. -/
def reserveTables : List Nat → State → Checked State
  | [], s => .ok s
  | o :: r, s =>
    if (s.ests.any fun y => y.1 = o) || s.load.tables.any fun y => y.1 = o then reserveTables r s
    else do
      let n := tableSize (freshTable ((classRole s o).getD 0) (classDesc s o))
      let a ← require (placeIn s { tier := .far } n) stDoesNotFit
      reserveTables r { s with load := { s.load with tables := s.load.tables ++ [(o, a.toNat, n)] } }

/-- Checks the payload and builds the shadow table; a status when any check fails (R279, R281, R282, R284). (DEDUCED, log entries 49, 50) -/
def buildSet (s : State) (m : BaleImage) (hb : List Byte) (data : List (List Byte)) : Checked State := do
  let h := baleHdr hb
  let all := data.flatten
  let pay := all.take h.paylen
  need (allZero (all.drop h.paylen)) stBadPadding
  let es ← require (manifest h pay) stObjectInvalid
  let vs ← baleVocabs pay es
  let cs ← baleClasses m es
  let rs ← baleRecs pay es
  let ids := (freeIds s).take es.length
  let room := es.length + tablesFor es
  need (decide (((freeIds s).take room).length = room)) stOutOfIds
  let fens ← placeFens s m (es.zipIdx.filter fun x => x.1.otype = 5) []
  let conts ← contents s pay es vs cs rs fens ids
  let banksOf (i : Nat) : List Nat := ((fens.find? fun y => y.1 = i).map (·.2.1)).getD []
  let items := (ids.zip (es.zip conts)).zipIdx.map fun x => (x.1.1, x.1.2.1, x.1.2.2, banksOf x.2)
  let tab := items.foldl (fun t x => pointAt t x.1 x.2.1 x.2.2.1 x.2.2.2) (otherTab s)
  let filled := tab.vocabs.map (·.1)
  need (tab.recs.all fun x => markersGood filled x.2) stObjectInvalid
  need (tab.recs.all fun x => decide (x.2.minRills ≤ rillsOn s)) stBTooFewRills
  let s := placeAll (h.id, h.seq) items { s with load := { s.load with stageLen := 0 } }
  let s ← loadMoves s.load.moving s
  let s ← reserveTables (tab.recs.flatMap fun x => recClasses x.2) s
  let s := fens.foldl (fun s x => loadBanks s x.2.1 x.2.2) s
  let tab := { tab with bales := liveBales s tab ++ [{ baleid := h.id, baleseq := h.seq, hdr := hb, base := s.load.base }] }
  return setOtherTab { s with load := { s.load with banks := fens.flatMap (·.2.1) } } tab

/-! ## The end of a load (R285) -/

/-- Requests of the loader that are still outstanding. -/
def loadTag : TagState → Bool
  | .used (.shard _) _ => true
  | .used .stage _ => true
  | _ => false

/-- The read of the staging area, once a tag is free for it (R75). (DESIGN CHOICE, log entry 48) -/
def readStage (s : State) : State :=
  if s.load.staged then s
  else match memIssue s s.load.stageAt s.load.stageLen false .stage with
    | some s => { s with load := { s.load with staged := true } }
    | none => s

/-- The loader waits for a request, or for an operation of a bank that it may load (R158, R165). -/
def loadWaits (s : State) : Bool :=
  !s.load.staged || (s.conTags.any fun x => loadTag x.2) || (s.memTags.any fun x => loadTag x.2) ||
    (List.range 64).any fun b => spareBank s b && bankBusy s b

/-- A tag that nobody waits for any more. -/
def nobodyTag : TagState → TagState
  | .used _ d => .used .nobody d
  | t => t

/-- The shadow build and all its space are discarded, and the requests of the loader have no issuer any more.  The banks set aside are
emptied once its entry sets have gone into them, which is when the staging area has been left. -/
def discardBuild (s : State) : State :=
  let s := (if s.load.stageLen = 0 then s.load.banks else []).foldl clearBank s
  freeOrphans (setOtherTab { s with
    conTags := s.conTags.map fun x => if loadTag x.2 then (x.1, nobodyTag x.2) else x,
    memTags := s.memTags.map fun x => if loadTag x.2 then (x.1, nobodyTag x.2) else x } {})

/-- The shards that cannot be read: absent from the image, or with a read that failed (R280). -/
def shardsGone (s : State) : List Nat :=
  match s.load.image.bind (usedHdr s) with
  | some hb => (List.range ((baleHdr hb).k + 2)).filter (shardMissing s)
  | none => s.load.missing

/-- The end of a load that failed: the build is discarded, the status is reported with every shard found failed, and MBX is set (R285). -/
def closeLoad (s : State) (status : W16) (failed : List Nat) : State :=
  raise { discardBuild s with load := { state := .failed, status := status, failed := failed } } intMbx

/-- An object of the load moves to its home. -/
def loadMoving (s : State) : Bool := s.load.moving.any fun o => decide ((objOf s o).state = .moving)

/-- A load fails: at once, or once the objects of it that move have ended their moves (R285, R289). -/
def failLoad (s : State) (status : W16) (failed : List Nat) : State :=
  let all := (List.range 66).filter fun i => failed.contains i || (shardsGone s).contains i || s.load.failed.contains i
  if loadMoving s then { s with load := { s.load with ending := some (s.load.ending.getD (status, all)) } }
  else closeLoad s status all

/-- A load runs, or a completed load waits for its commit (R284). -/
def loadHeld (s : State) : Bool := s.load.image.isSome

/-- A mask of shards as three words. -/
def shardWords (l : List Nat) : List Nat := (List.range 3).map fun w => (l.filter fun i => decide (i / 32 = w)).foldl
  (fun a i => a + 2 ^ (i % 32)) 0

/-- The loader reads a shard; a read that no tag is free for is left for later. (DESIGN CHOICE, log entry 48) -/
def readShard (s : State) (h : BaleHdr) (i : Nat) : State :=
  match conIssue s (s.load.base + 8192 + i * h.shard) h.shard false (.shard i) with
  | some s => { s with load := { s.load with asked := s.load.asked ++ [i] } }
  | none => s

/-- The data shards that are present and not yet asked for (R283). -/
def unaskedData (s : State) (h : BaleHdr) : List Nat :=
  (List.range h.k).filter fun i => !s.load.asked.contains i && !shardMissing s i

/-- Reads of those shards. -/
def readData (s : State) (h : BaleHdr) : State := (unaskedData s h).foldl (fun s i => readShard s h i) s

/-- Shards lost beyond repair are logged with the Bale (R283, R382). -/
def noteLost (s : State) (h : BaleHdr) (failed : List Nat) : State :=
  note s stShardsLost skBale 0 ([h.id.toNat % 2 ^ 32, h.id.toNat / 2 ^ 32, h.seq.toNat] ++ shardWords failed)

/-- The objects of the load have come to their homes: the set is complete (R284, R285).  One whose move failed fails the load, and so does one
that is lost since; one that a power-down has moved on counts as it did (R289). -/
def loadDone (s : State) : State :=
  if loadMoving s then s
  else match s.load.ending with
    | some (st, f) => closeLoad s st f
    | none =>
      if s.load.moving.any fun o => !s.load.arrived.contains o || decide ((objOf s o).state ≠ .home) then failLoad s stUncorrectable []
      else raise { s with load := { s.load with state := .loaded, status := 0, moving := [], arrived := [] } } intMbx

/-- A load that has failed ends with the last of its moves (R289). -/
def endEnding (s : State) : State := if s.load.ending.isSome then loadDone s else s

/-- The shards of those read that have failed (R280): reported even if the load ends before it has repaired them (R285). -/
def badShards (s : State) (hb : List Byte) (m : BaleImage) (h : BaleHdr) : List Nat :=
  (List.range (h.k + 2)).filter fun i => s.load.asked.contains i && shardBad s hb m i

/-- A parity shard that is missing, and is not among the failed ones already. -/
def lostParity (s : State) (f : List Nat) (i : Nat) : Bool := shardMissing s i && !f.contains i

/-- The load goes on to its end, as far as its reads and its moves allow: the header first, then every shard, then the build, then the moves
of its objects (R278 to R285). (DEDUCED, log entry 49) -/
def endLoad (s : State) : State :=
  match s.load.state, s.load.image with
  | .loading, some m =>
    if !s.load.moving.isEmpty then loadDone s
    else match usedHdr s m with
    | none => failLoad s stNoGoodHeader []
    | some hb =>
      let h := baleHdr hb
      if !s.boot.baleFmts.contains h.format then failLoad s stFormatRefused []
      else if notNewer s h then failLoad s stNotNewer []
      else
        let s := readStage (readData s h)
        if loadWaits s || !(unaskedData s h).isEmpty then s
        else match repair s hb m with
          | .need i => readShard { s with load := { s.load with failed := badShards s hb m h } } h i
          | .lost f => noteLost (failLoad s stShardsLost f) h f
          | .good data f =>
            match buildSet s m hb data with
            | .error st => failLoad s st f
            | .ok t => loadDone { t with load := { t.load with failed := f ++ ([h.k, h.k + 1].filter (lostParity s f)) } }
  | _, _ => s

/-! ## The epoch switch (R208, R288) -/

/-- An empty estimate table for a classifier, with its object, in the room held for it (R204, R208, R264). -/
def enterTable (s : State) (o : Nat) : State :=
  if s.ests.any fun y => y.1 = o then s
  else
    let t := freshTable ((classRole s o).getD 0) (classDesc s o)
    let s := { s with ests := smIns o t s.ests }
    match (freeIds s).head?, s.load.tables.find? fun y => y.1 = o with
    | some id, some y => setObj s id { state := .home, kind := .pinned, owner := (objOf s o).owner, size := tableSize t,
                                       content := .estTable o, home := { tier := .far, loc := BitVec.ofNat 64 y.2.1 } }
    | _, _ => s

/-- Empty estimate tables for the classifiers that enter the active set (R208). -/
def enterTables (s : State) : State := ((actTab s).recs.flatMap fun x => recClasses x.2).foldl enterTable s

/-- The bank-mask table copy after the switch: the entries of the sets that the Bale has brought are rewritten, and every other entry stands
as FEN_MASK has left it meanwhile (R151, R288). -/
def switchMasks (s : State) : SMap W16 :=
  let t := otherTab s
  t.fens.foldl (fun m x => if smGet 0 (actTab s).fens x.1 = x.2 then m else smSet 0 m x.1 (smGet 0 t.masks x.1)) (actTab s).masks

/-- The switch: the pointer and the masks flip together, the epoch rises, and the old set stays for its streams. -/
def switchSets (s : State) : State :=
  let s := setOtherTab s { otherTab s with masks := switchMasks s }
  enforceMinRills <| freeOrphans (enterTables { s with
    actB := !s.actB, setAct := true, setEpoch := s.setEpoch + 1,
    load := { s.load with image := none, commit := false, deferred := false, banks := [], tables := [] } })

end Sys2Proof.Machine
end

