-- ==== Sys2Proof/Machine/Bale.lean ====
section
/-! DEFINITION. The Bale commands: BALE_LOAD, BALE_COMMIT, BALE_ABORT and BALE_STATUS (R269, R284, R285, R288, R378), the end of a
load, and the epoch switch. -/

namespace Sys2Proof.Machine

/-- A BALE_LOAD may not start now: the lifecycle refuses it (R348, R352), the loader or the other table is busy (R284), or the far
tier, the window or the heap does not allow it (R284); 0 when it is accepted. (DEDUCED, log entry 53) -/
def loadRefusal (s : State) (m : BaleImage) (base : Nat) : W16 :=
  let h := usedHdr s m
  let len := match h with | some l => imageLen (baleHdr l) | none => 8192
  if (s.fuses.lc ≠ 1 ∧ s.fuses.lc ≠ 2) ∨ advancing s then stNotAvailable
  else if loadHeld s || (openStreams s).any fun x => decide (x.2.tab ≠ s.actB) then stBBusy
  else if s.boot.farBad then stPartitionAbsent
  else if windowSize < base + len then stOutOfRange
  else match h with
    | some l => if heapUse s + granules (baleHdr l).paylen ≤ storeSize s { tier := .far } then 0 else stDoesNotFit
    | none => 0

/-- Starts a load (R284): the active table is copied into the shadow table, staging space is taken, and the reads of the data shards and of the
staging area start.  The staging area is one run of granules: a heap with room in pieces only does not fit the set (R279). (DESIGN CHOICE,
log entries 30, 48) -/
def startLoad (s : State) (m : BaleImage) (base present : Nat) : State :=
  let s := freeOrphans (setOtherTab s (actTab s))
  let s := { s with load := { state := .loading, image := some m, base := base, present := present } }
  match usedHdr s m with
  | none => s
  | some l =>
    let h := baleHdr l
    match placeIn s { tier := .far } (stagingLen h) with
    | none => failLoad s stDoesNotFit []
    | some a => readStage (readData { s with load := { s.load with stageAt := a.toNat, stageLen := stagingLen h } } h)

/-- BALE_LOAD. -/
def execBaleLoad (a : MbxArgs) (img : BaleImage) (s : State) : Result :=
  runningHw s fun s => mbxStart s 0x08 a fun s =>
    let base := (par64 s 0).toNat
    let present := (par s 2).toNat + at' (par s 3).toNat 32 + at' (fld (par s 4) 0 2) 64
    let st := loadRefusal s img base
    if st = 0 then startLoad (mbxComplete s 0 []) img base present else mbxComplete s st []

/-- BALE_LOAD_END: the load goes on to its end (R283, R285); it waits while its reads are outstanding. -/
def execBaleLoadEnd (s : State) : Result :=
  runningHw s fun s => endLoad s

/-- BALE_COMMIT: refused with no completed load; deferred in sag state (R288). -/
def execBaleCommit (a : MbxArgs) (s : State) : Result :=
  runningHw s fun s => mbxStart s 0x09 a fun s =>
    if s.load.state = .loaded ∧ loadHeld s then
      mbxComplete { s with load := { s.load with commit := true, deferred := s.hay.sag } } 0 []
    else mbxComplete s stNothingToCommit []

/-- BALE_ABORT: a load that runs, or a completed one that waits for its commit, ends with Aborted (R269, R285). -/
def execBaleAbort (a : MbxArgs) (s : State) : Result :=
  runningHw s fun s => mbxStart s 0x0A a fun s =>
    if loadHeld s then mbxComplete (failLoad s stAborted []) 0 [] else mbxComplete s 0 []

/-- BALE_STATUS (R378). -/
def execBaleStatus (a : MbxArgs) (s : State) : Result :=
  runningHw s fun s => mbxStart s 0x0B a fun s =>
    let st : Nat := match s.load.state with | .idle => 0 | .loading => 1 | .loaded => 2 | .failed => 3
    mbxComplete s 0 ([BitVec.ofNat 32 st, s.load.status.setWidth 32] ++ (shardWords s.load.failed).map (BitVec.ofNat 32))

/-- SET_EPOCH_SWITCH: at a batch boundary, outside sag state, a committed load becomes the active set (R288). (DEDUCED, log entry 52) -/
def execSetEpochSwitch (s : State) : Result :=
  runningHw s fun s => if s.load.commit && !s.hay.sag && s.adms.isEmpty then switchSets s else s

end Sys2Proof.Machine
end

