-- ==== Sys2Proof/Machine/CfgFmt.lean ====
section
/-! DEFINITION. The configuration record (R329 to R335): read from a bank's body, clamped, applied, and read back. -/

namespace Sys2Proof.Machine

/-! ## Reading (R331 to R334) -/

/-- A list as a table: the parts equal to the default are not listed. -/
def smOfList {α : Type} [DecidableEq α] (d : α) (l : List α) : SMap α :=
  (l.zipIdx.map fun x => (x.2, x.1)).filter fun x => decide (x.2 ≠ d)

/-- A field clamped under R12. -/
def fieldAt (l : List Byte) (o n lo hi : Nat) : Nat := clamp lo hi (leAt l o n)

/-- A PROLE byte. -/
def roleOfCode (x : Nat) : Role :=
  match x % 4 with
  | 0 => .off | 1 => .client | 2 => .peer | _ => .opened

/-- A route entry. -/
def routeOfCode (x : Nat) : RouteEnt :=
  { pri := if bitsOf x 6 1 = 1 then some (bitsOf x 0 6) else none, alt := if bitsOf x 14 1 = 1 then some (bitsOf x 8 6) else none,
    priRaw := bitsOf x 0 6, altRaw := bitsOf x 8 6 }

/-- The bits of a route entry; a half that is unset keeps its port number (R330, R332). -/
def routeCode (e : RouteEnt) : Nat :=
  (match e.pri with | some p => p + at' 1 6 | none => e.priRaw) + (match e.alt with | some p => at' p 8 + at' 1 14 | none => at' e.altRaw 8)

/-- A tenant entry at an offset. -/
def tenAt (l : List Byte) (o : Nat) : TenCfg :=
  { en := bitsOf (leAt l o 1) 0 1 = 1, ctxq := fieldAt l (o + 2) 2 0 32768, weirs := fieldAt l (o + 4) 2 0 16384,
    sluices := fieldAt l (o + 6) 2 0 256, kvq := fieldAt l (o + 8) 4 0 4194304, rate := fieldAt l (o + 12) 4 1 32000,
    burst := fieldAt l (o + 16) 4 4 65536, reqlim := fieldAt l (o + 20) 4 1024 8388608,
    deadline := fieldAt l (o + 24) 4 50 10000000 }

/-- A Fen bank entry. (DEDUCED, log entry 41) -/
def bankOfCode (x : Nat) : BankCfg :=
  { owner := bitsOf x 0 6, used := bitsOf x 6 1 = 1, shared := bitsOf x 7 1 = 1, ktype := clamp 1 3 (bitsOf x 8 4) }

/-- The bits of a Fen bank entry. -/
def bankCode (b : BankCfg) : Nat := b.owner + at' (b2n b.used) 6 + at' (b2n b.shared) 7 + at' b.ktype 8

/-- The record in a body, every field clamped to its range: step 1 of R335. (DEDUCED, log entry 64) -/
def readCfg (l : List Byte) : Cfg :=
  { nten := fieldAt l 6 1 0 64, memberid := BitVec.ofNat 6 (fieldAt l 7 1 0 63), managed := decide (1 ≤ leAt l 8 1),
    i3c := decide (1 ≤ leAt l 9 1), busaddr := BitVec.ofNat 8 (fieldAt l 10 1 0x08 0x77),
    epid := BitVec.ofNat 8 (fieldAt l 11 1 0x08 0xFE), deltaid := BitVec.ofNat 32 (leAt l 12 4),
    fargib := fieldAt l 16 2 16 256, objmib := fieldAt l 18 1 4 28, pcapw := fieldAt l 19 1 30 75,
    memtmo := fieldAt l 20 4 8 1000000, contmo := fieldAt l 24 4 8 1000000, fabtmo := fieldAt l 28 4 8 1000000,
    fben := BitVec.ofNat 16 (leAt l 32 2),
    role := smOfList .off ((List.range 64).map fun p => roleOfCode (leAt l (64 + p) 1)),
    route := smOfList {} ((List.range 64).map fun m => routeOfCode (leAt l (128 + 4 * m) 4)),
    ten := smOfList {} ((List.range 64).map fun t => tenAt l (4096 + 64 * t)),
    bank := smOfList {} ((List.range 64).map fun b => bankOfCode (leAt l (8192 + 2 * b) 2)),
    idlen := fieldAt l 16384 4 0 16384, idchain := slice l 16448 16384 }

/-! ## Applying (R335) -/

/-- Quotas in tenant order whose running sum stays within what is left; the one that would pass it is reduced, and every later one
becomes zero (R229, R268, R335). -/
def clampSums (left : Nat) : List Nat → List Nat
  | [] => []
  | q :: r => if q ≤ left then q :: clampSums (left - q) r else left :: r.map fun _ => 0

/-- Step 2: the partition size is a bound; an unusable far tier shows 0. -/
def farSize (c : Cfg) (far : Option Nat) : Nat := match far with | some g => min c.fargib g | none => 0

/-- Step 3: a tenant that may not run holds no quota. -/
def enabledTen (nten : Nat) (far : Option Nat) (t : Nat) (x : TenCfg) : TenCfg :=
  if x.en ∧ t < nten then { x with kvq := if far.isSome then x.kvq else 0 }
  else { x with en := false, ctxq := 0, weirs := 0, sluices := 0, kvq := 0 }

/-- KV granules that leave 4 GiB of heap in a partition (R262, R268). -/
def kvRoom (gib : Nat) : Nat := (gib * 1073741824 - 67108864 - 4294967296) / 65536

/-- Step 4: the running sums. -/
def clampTens (gib : Nat) (l : List TenCfg) : List TenCfg :=
  let cx := clampSums 32768 (l.map (·.ctxq))
  let ws := clampSums 16384 (l.map (·.weirs))
  let sl := clampSums 256 (l.map (·.sluices))
  let kv := clampSums (kvRoom gib) (l.map (·.kvq))
  l.zipIdx.map fun x => { x.1 with ctxq := cx.getD x.2 0, weirs := ws.getD x.2 0, sluices := sl.getD x.2 0, kvq := kv.getD x.2 0 }

/-- A used bank that R334 calls illegal. -/
def bankIllegal (ten : SMap TenCfg) (b : BankCfg) : Bool :=
  b.used && ((b.shared && decide (b.ktype ≠ 1)) || (!b.shared && !(smGet {} ten b.owner).en))

/-- A port that a route entry may name (R332). -/
def routable (role : SMap Role) (p : Nat) : Bool :=
  decide (smGet .off role p = .peer) || decide (smGet .off role p = .opened)

/-- A route entry as applied: a half that names another kind of port is unset; the entry of this member is ignored, and stays as it is
(R332). (DEDUCED, log entry 64) -/
def routeApplied (c : Cfg) (m : Nat) (e : RouteEnt) : RouteEnt :=
  if m = c.memberid.toNat then e else { e with pri := e.pri.filter (routable c.role), alt := e.alt.filter (routable c.role) }

/-- Steps 2 to 5 of R335 over a clamped record, for a partition of `far` GiB; none when the far tier is unusable. -/
def applyCfg (c : Cfg) (far : Option Nat) : Cfg :=
  let gib := farSize c far
  let tens := (List.range 64).map fun t => enabledTen c.nten far t (smGet {} c.ten t)
  let ten := smOfList {} (clampTens gib tens)
  { c with
    fargib := gib, ten := ten,
    bank := smOfList {} ((List.range 64).map fun b =>
      let x := smGet {} c.bank b
      if bankIllegal ten x then { x with used := false } else x),
    route := smOfList {} ((List.range 64).map fun m => routeApplied c m (smGet {} c.route m)) }

/-! ## The record in use -/

/-- The configuration bank that a boot uses (R329); none when neither is valid, or the flash is not used (R1). -/
def cfgChoice (s : State) : Option Bool := if flashOk s then (banksByAge s false (cfgBankValid s)).head? else none

/-- The record chosen at step 6, clamped field by field: that of the bank in use, or the default record. -/
def cfgRecord (s : State) : Cfg := if s.boot.defCfg then {} else readCfg (bankBody s false s.boot.cfgBank)

/-! ## Reading back (R330) -/

/-- The 64 bytes of a tenant entry. -/
def encodeTen (x : TenCfg) : List Byte :=
  leBytes 2 (b2n x.en) ++ leBytes 2 x.ctxq ++ leBytes 2 x.weirs ++ leBytes 2 x.sluices ++ leBytes 4 x.kvq ++ leBytes 4 x.rate ++
  leBytes 4 x.burst ++ leBytes 4 x.reqlim ++ leBytes 4 x.deadline ++ zeros 36

/-- The fixed fields of a record, bytes 0 to 63. -/
def encodeHead (s : State) : List Byte :=
  let c := s.cfg
  (if s.boot.defCfg then zeros 6 else leBytes 4 0x47464E43 ++ leBytes 2 1) ++ leBytes 1 c.nten ++ leBytes 1 c.memberid.toNat ++
  leBytes 1 (b2n c.managed) ++ leBytes 1 (b2n c.i3c) ++ leBytes 1 c.busaddr.toNat ++ leBytes 1 c.epid.toNat ++
  leBytes 4 c.deltaid.toNat ++ leBytes 2 c.fargib ++ leBytes 1 c.objmib ++ leBytes 1 c.pcapw ++ leBytes 4 c.memtmo ++
  leBytes 4 c.contmo ++ leBytes 4 c.fabtmo ++ leBytes 2 c.fben.toNat ++ zeros 30

/-- The 32,832 bytes of the record as applied, each tenant's context quota at its effective value (R96, R330, R331). (DEDUCED, log entry 64) -/
def encodeCfg (s : State) : List Byte :=
  let c := s.cfg
  encodeHead s ++ ((List.range 64).flatMap fun p => leBytes 1 (roleCode (roleOf s p))) ++
  ((List.range 64).flatMap fun m => leBytes 4 (routeCode (routeEnt s m))) ++ zeros 3712 ++
  ((List.range 64).flatMap fun t => encodeTen { tenOf s t with ctxq := ctxQuota s t }) ++
  ((List.range 64).flatMap fun b => leBytes 2 (bankCode (bankCfgOf s b))) ++ zeros 8064 ++
  leBytes 4 c.idlen ++ zeros 60 ++ (c.idchain ++ zeros (16384 - c.idchain.length))

end Sys2Proof.Machine
end

