-- ==== Sys2Proof/Machine/PoolOps.lean ====
section
/-! DEFINITION. The Hub pool (R69 to R71): its regions, who asks for a buffer, the rotating pointer, and what a grant does. -/

namespace Sys2Proof.Machine

/-- Buffers of the shared region (R69, R331). -/
def sharedBuffers (s : State) : Nat := 131072 - 256 - s.cfg.objmib * 4096

/-- An Eddy of the fabric port's streams, or a backlog of its outflow lanes, asks for a buffer (R101, R109). -/
def wantsAt (x : Nat × Stream) (f : Nat) : Bool := x.2.inUse && decide (0 < x.2.wantBuf + x.2.backWant) && decide (x.2.fbport = f)

/-- The flit at the head of an input's class-0 lane stands in its Ford and asks for a reserve buffer (R68). -/
def c0Asks (s : State) (g : Nat) : Bool :=
  match c0Head s g with
  | some i => match s.c0wait[i]? with | some w => w.inFord && decide (w.egress ≠ 80) && fordOpen s (inputBrook g) | none => false
  | none => false

/-- Who asks the allocator in a Hub cycle: the standard lanes of link ports 0–63 and of fabric ports 64–79, the writers of outflow
lanes 80–95 by fabric port, and the class-0 lanes of the Hub's inputs from 96.  A Ford held in reset is empty to its reader (R28). -/
def requesters (s : State) : List Nat :=
  (s.ports.filterMap fun x => if laneReady x.2.rxq && fordOpen s (inputBrook x.1) then some x.1 else none) ++
  (s.fbs.filterMap fun x => if laneReady x.2.rxw && fordOpen s (inputBrook (64 + x.1)) then some (64 + x.1) else none) ++
  ((List.range 16).filterMap fun f =>
    if s.streams.any (fun x => wantsAt x f) && fordOpen s (24 + f / 4) then some (80 + f) else none) ++
  ((List.range 80).filterMap fun g => if c0Asks s g then some (96 + g) else none)

/-- The first requester at or after the rotating pointer (R70). (DESIGN CHOICE, log entry 26) -/
def rotPick (ptr : Nat) (l : List Nat) : Option Nat :=
  match least (l.filter fun x => ptr ≤ x) with
  | some x => some x
  | none => least l

/-- Signals and arrivals that have come to the head of a fabric port's class-2 lane join the queue of their egress (R243). -/
def passSignals : Nat → State → Nat → State
  | 0, s, _ => s
  | n + 1, s, f =>
    match (fbOf s f).rxw with
    | i :: r =>
      if i.flits = 0 then passSignals n (sendFenced (modFb s f fun x => { x with rxw := r }) i.frame.dst.toNat i.frame) f else s
    | [] => s

/-- A class-2 message from the fabric that is stored goes to its link port (R361, R362). -/
def passMessage (s : State) (f : Nat) (i : RxItem) : State :=
  match routeTo s i.frame.dst.toNat with
  | none => freeBufs (telInc s (telFab f 6)) i.bufs
  | some q => offer s q { i.frame with bufs := i.bufs }

/-- A buffer for the head of a link port's standard lane: a frame that is stored whole has its credit returned, and goes on or waits
to be taken (R70, R72). -/
def grantPort (s : State) (p : Nat) : State :=
  match laneHead (portOf s p).rxq with
  | none => s
  | some i =>
    let s := modPort s p fun x => { x with rxq := laneTake (fordDepth .link) x.rxq }
    let i := takeBuf i
    if !i.stored then s
    else
      let s := returnCredit s p i.frame.cls.toNat i.flits
      if i.pass then passOn (modPort s p fun x => { x with rxq := x.rxq.filter fun j => !(j.pass && j.stored) }) p i else pump s p

/-- A buffer for the head of a fabric port's standard lane. -/
def grantMessage (s : State) (f : Nat) : State :=
  match laneHead (fbOf s f).rxw with
  | none => s
  | some i =>
    let s := modFb s f fun x => { x with rxw := (laneTake (fordDepth .io) x.rxw).filter fun j => !j.stored }
    let i := takeBuf i
    if !i.stored then s else passSignals (fbOf s f).rxw.length (passMessage (fbCredit s f 2 i.flits) f i) f

/-- A class-0 buffer of region `b` for the flit at the head of an input's class-0 lane: its credit is returned, and a fenced one joins the
queue of its egress (R62, R68, R244). -/
def grantC0 (s : State) (g : Nat) (b : C0Buf) : State :=
  match c0Head s g with
  | none => s
  | some i =>
    match s.c0wait[i]? with
    | none => s
    | some w =>
      settleC0 (if w.egress = 81 then
          sendFenced (creditBack { s with c0wait := s.c0wait.eraseIdx i } g 0 1) w.frame.dst.toNat { w.frame with c0 := b }
        else creditBack { s with c0wait := updAt s.c0wait i fun w => { w with buf := b } } g 0 1)

/-- Gives one buffer to a requester; a class-0 buffer is of region `b` (R69). -/
def grantTo (s : State) (r : Nat) (b : C0Buf) : State :=
  if 96 ≤ r then grantC0 s (r - 96) b
  else if 80 ≤ r then
    match s.streams.find? fun x => wantsAt x (r - 80) with
    | some (c, x) => releaseOwed (setStream s c (
        if 0 < x.wantBuf then { x with eddyBufs := x.eddyBufs + 1, wantBuf := x.wantBuf - 1 }
        else { x with backBufs := x.backBufs + 1, backWant := x.backWant - 1 })) (r - 80)
    | none => s
  else if 64 ≤ r then grantMessage s (r - 64)
  else grantPort s r

end Sys2Proof.Machine
end

