-- ==== Sys2Proof/Machine/Link.lean ====
section
/-! DEFINITION. The link family: the port states (R44), Hello (R386), frames received (R49 to R62), replay (R57 to R60),
and frames sent (R46). -/

namespace Sys2Proof.Machine

/-- The output lnkNN_pwr_en: 0 while the port's role is Off (R356, R357). -/
def lanePower (s : State) (p : Nat) : Bool := decide (roleOf s p ≠ .off)

/-- LNK_LOCK_RISE: a Down port that is not Off enters Training once the ports have left reset (R44, R326); a PHY in reset
has no lock (R357). (DEDUCED, log entry 17) -/
def execLnkLockRise (p : Fin 64) (s : State) : Result :=
  runningOn s (16 + p.val / 8) fun s =>
    let x := portOf s p
    if x.phyRst then s
    else
      let s := setPort s p { x with lock := true }
      if s.boot.phase = .running ∧ s.fuses.lc ≠ 4 ∧ x.state = .down ∧ roleOf s p ≠ .off then enterTraining s p else s

/-- LNK_LOCK_FALL: Training goes to Down, Up to Retrain; Retrain is unchanged; a Failed port whose partner detaches goes to Down (R44).
(DEDUCED, log entry 17) -/
def execLnkLockFall (p : Fin 64) (s : State) : Result :=
  runningOn s (16 + p.val / 8) fun s =>
    let s := modPort s p fun x => { x with lock := false }
    match (portOf s p).state with
    | .training | .failed => portDown s p
    | .up => enterRetrain s p
    | _ => s

/-- FEC_UNCORRECTABLE: only adds to a counter (R357). -/
def execFecUncorrectable (p : Fin 64) (s : State) : Result :=
  runningOn s (16 + p.val / 8) fun s => telInc s (telLnk p 12)

/-- HELLO_REPEAT: a further Hello every 640 ns in Training and Retrain (R386). -/
def execHelloRepeat (p : Fin 64) (s : State) : Result :=
  runningOn s (16 + p.val / 8) fun s =>
    let x := portOf s p
    if (x.state = .training ∨ x.state = .retrain) ∧ x.lastHello + 640 ≤ s.now then sendHello s p false else s

/-- The values of a refused Hello as log arguments (R54, R340, R382). (DEDUCED, log entry 17) -/
def offeredArgs (l : List Byte) : List Nat := (List.range 6).map fun i => leAt l (4 * i) 4

/-- TRAINING_TIMEOUT: 1 ms without a valid Hello (R44); what was offered is logged (R54, R340). (DEDUCED, log entry 17) -/
def execTrainingTimeout (p : Fin 64) (s : State) : Result :=
  runningOn s (16 + p.val / 8) fun s =>
    let x := portOf s p
    if x.state = .training ∧ x.since + 1000000 ≤ s.now then
      let s := if x.offered.isEmpty then s
        else note s stTraining skLink p ([p.val, leAt x.offered 12 1 % 64, 0] ++ offeredArgs x.offered)
      portFailed s p
    else s

/-- RETRAIN_TIMEOUT: Retrain did not end within 100 µs (R44, R61). -/
def execRetrainTimeout (p : Fin 64) (s : State) : Result :=
  runningOn s (16 + p.val / 8) fun s =>
    let x := portOf s p
    if x.state = .retrain ∧ x.since + 100000 ≤ s.now then portFailed s p else s

/-- A port reset: Down, the PHY reset pulsed, counted (R341, R357). (DEDUCED, log entry 24) -/
def resetLinkPort (s : State) (p : Nat) : State :=
  modPort (telInc s (telLnk p 14)) p fun x => { x with
    state := .down, since := s.now, phyRst := true, pulseAt := some s.now, lock := false }

/-- FAILED_PORT_RESET: the Hayward resets a port that has been Failed for 100 ms and is not Off (R341). -/
def execFailedPortReset (p : Fin 64) (s : State) : Result :=
  runningHw s fun s =>
    let x := portOf s p
    if x.state = .failed ∧ roleOf s p ≠ .off ∧ x.since + 100000000 ≤ s.now then resetLinkPort s p else s

/-- HELLO: a received Hello frame (R386, R54, R60, R340, R346). -/
def execHello (p : Fin 64) (f : WireFrame) (s : State) : Result :=
  runningOn s (16 + p.val / 8) fun s => rxFrame s p f

/-- DATA_FRAME: a received Data frame (R49 to R52, R55, R57, R58). -/
def execDataFrame (p : Fin 64) (f : WireFrame) (s : State) : Result :=
  runningOn s (16 + p.val / 8) fun s => rxFrame s p f

/-- STRAY_BODY_FLIT: discarded and counted; outside an episode it starts one (R43, R58).  Outside Up a port takes Hello frames only, and
the flit is not counted. (DESIGN CHOICE, log entry 87) -/
def execStrayBodyFlit (p : Fin 64) (s : State) : Result :=
  runningOn s (16 + p.val / 8) fun s => if (portOf s p).state = .up then startEpisode (telInc s (telLnk p 11)) p else s

/-- ACK: a received Ack frame (R57). -/
def execAck (p : Fin 64) (f : WireFrame) (s : State) : Result :=
  runningOn s (16 + p.val / 8) fun s => rxFrame s p f

/-- NAK: a received NAK frame (R58, R59). -/
def execNak (p : Fin 64) (f : WireFrame) (s : State) : Result :=
  runningOn s (16 + p.val / 8) fun s => rxFrame s p f

/-- CREDIT: a received Credit frame (R55). -/
def execCredit (p : Fin 64) (f : WireFrame) (s : State) : Result :=
  runningOn s (16 + p.val / 8) fun s => rxFrame s p f

/-- REPLAY_TIMER: the oldest unacknowledged frame was last sent 500 ns ago (R58, R59). -/
def execReplayTimer (p : Fin 64) (s : State) : Result :=
  runningOn s (16 + p.val / 8) fun s =>
    let x := portOf s p
    match x.replay with
    | f :: _ => if x.state = .up ∧ !f.pend ∧ f.sentAt + 500 ≤ s.now then resendTrigger s p else s
    | [] => s

/-- EPISODE_TIMEOUT: 1.5 µs since the episode started (R59). -/
def execEpisodeTimeout (p : Fin 64) (s : State) : Result :=
  runningOn s (16 + p.val / 8) fun s =>
    let x := portOf s p
    match x.txEp with
    | some e => if x.state = .up ∧ e.start + 1500 ≤ s.now then replayFailed s p else s
    | none => s

/-- LINK_FRAME_SEND: one frame leaves the port (R46, R54, R57, R58, R62, R387). -/
def execLinkFrameSend (p : Fin 64) (cls : BitVec 2) (s : State) : Result :=
  runningOn s (16 + p.val / 8) fun s => sendOne s p cls

/-- FENCED_HANDOVER: the oldest fenced frame is handed on once every earlier frame of its port has been (R62). -/
def execFencedHandover (p : Fin 64) (s : State) : Result :=
  runningOn s (16 + p.val / 8) fun s =>
    let x := portOf s p
    match x.rxFenced with
    | (no, arr, f) :: r =>
      if earlierHanded s p no then handOn (setPort s p { x with rxFenced := r }) p arr noSeq f else s
    | [] => s

/-- FENCED_ROUTE_RELEASE: the frames held toward a member are queued on its new route (R244, R388). (DEDUCED, log entry 82) -/
def execFencedRouteRelease (m : Fin 64) (s : State) : Result :=
  running s fun s =>
    if oldRouteClear s m then
      (smGet [] s.routeHold m).foldl (fun s f => sendFenced s m f) { s with routeHold := smSet [] s.routeHold m [] }
    else s

/-- CLASS0_RESERVE_RELEASE: the oldest flit that waits in a reserve buffer for an egress leaves ahead of all other traffic
once credit has returned (R68). -/
def execClass0ReserveRelease (e : Fin 80) (s : State) : Result :=
  running s fun s =>
    match s.c0wait.findIdx? (fun w => decide (w.egress = e.val) && w.buffered) with
    | none => s
    | some i =>
      let w := s.c0wait.getD i { egress := 0, ingress := 0, frame := {}, flit := { fclass := 0, fkind := 0 } }
      let s' := freeC0 { s with c0wait := s.c0wait.eraseIdx i } w.buf
      if e.val < 64 then
        let x := portOf s e
        if keepsRoute s e then
          (if linkC0Room s e then setPort s' e { x with txq := w.frame :: x.txq } else s)
        else reportLost s' e noSeq w.frame
      else
        let x := fbOf s (e.val - 64)
        if !fbUsable s (e.val - 64) then telInc s' (telLnk w.ingress 13)
        else if fabricClock s (e.val - 64) && decide (0 < x.txCred.c0 ∧ x.c0Out < 32) then fbDrain (setFb s' (e.val - 64) { x with q0 := w.flit :: x.q0 }) (e.val - 64)
        else s

/-- POOL_ALLOCATE: at most one buffer each Hub cycle, class 0 first, then the rotating pointer (R69 to R71). -/
def execPoolAllocate (s : State) : Result :=
  running s fun s =>
    let all := requesters s
    let shared := decide (s.poolUsed < sharedBuffers s)
    let give (s : State) (r : Nat) (b : C0Buf) : State := grantTo { s with rotPtr := r + 1 } r b
    match rotPick s.rotPtr (all.filter (96 ≤ ·)), rotPick s.rotPtr (all.filter (· < 96)) with
    | some r, _ =>
      if s.poolRes < 256 || shared then
        let s := if 1 < all.length then telInc s (telEng 0) else s
        if s.poolRes < 256 then give { s with poolRes := s.poolRes + 1 } r .reserve
        else give { s with poolUsed := s.poolUsed + 1 } r .shared
      else telInc s (telEng 0)
    | none, some r =>
      if shared then
        let s := if 1 < all.length then telInc s (telEng 0) else s
        give { s with poolUsed := s.poolUsed + 1 } r .none
      else telInc s (telEng 0)
    | none, none => s

end Sys2Proof.Machine
end

