-- ==== Sys2Proof/Machine/Fabric.lean ====
section
/-! DEFINITION. The fabric ports: Pass and Data messages from the fabric (R361, R362), credits (R359), held ports and their
resets (R363), and the resets of link ports by command (R341, R357, R378). -/

namespace Sys2Proof.Machine

/-! ## Held ports and resets (R54, R359, R362, R363) -/

/-- The fabric port is held idle: logged once in each held period, and the streams routed to it end (R107, R363). (DEDUCED, log entry 21) -/
def holdFabric (s : State) (f : Nat) : State :=
  let x := fbOf s f
  if x.held then s
  else
    let s := setFb s f { x with
      active := false, held := true, idleLogged := true, heldAt := if x.idleLogged then x.heldAt else s.now,
      lastRst := if x.idleLogged then x.lastRst else 0 }
    let s := if x.idleLogged then s else note s stFabricIdle skFabric f [f]
    endWhere s (fun y => decide (y.fbport = f)) stFabricPortIdle

/-- A reset of a fabric port in use: fbNN_rst_n is asserted, and the flits in flight and both sides' credits are gone; signals that waited
behind them go on. (DEDUCED, log entry 21) -/
def resetFabric (s : State) (f : Nat) (timer : Bool) : State :=
  let x := fbOf s f
  let gone (w : Reserve) : Bool := decide (w.egress = 64 + f) || (decide (w.ingress = 64 + f) && !w.buffered)
  let s := (s.c0wait.filter gone).foldl (fun s w => if w.buffered then freeC0 s w.buf else creditBack s w.ingress 0 1) s
  let s := settleC0 { s with c0wait := s.c0wait.filter fun w => !gone w }
  let s := freeBufs s ((x.q2.map (·.bufs)).sum + (x.rxw.map (·.bufs)).sum)
  let signals := x.rxw.filter fun i => decide (i.flits = 0)
  let s := signals.foldl (fun s i => sendFenced s i.frame.dst.toNat i.frame) (modFb s f fun x => { x with rxw := [] })
  setFb (telInc s (telFab f 7)) f { held := x.held, heldAt := x.heldAt, idleLogged := x.idleLogged,
                                    lastRst := if timer then s.now else x.lastRst, pulseAt := some s.now }

/-- The credits that the engine returns after a release (R53, R359), at most 255 flits in a credit cycle. -/
def advertise (s : State) (f : Nat) : State :=
  let one (s : State) (k : Nat) : State := (List.range (ceilDiv (crGet fabricAdvertised k) 255)).foldl (fun s i =>
    fbCredit s f (BitVec.ofNat 2 k) (min 255 (crGet fabricAdvertised k - 255 * i))) s
  [0, 1, 2].foldl one s

/-- The release of fbNN_rst_n. (DEDUCED, log entry 21) -/
def releaseFabric (s : State) (f : Nat) : State :=
  advertise (modFb s f fun x => { x with inReset := false, held := false, pulseAt := none, relAt := s.now, got0 := 0 }) f

/-! ## Flits from the fabric -/

/-- A flit taken in at a live fabric port: counted, and its credit returned. (DEDUCED, log entry 25) -/
def takeFlit (s : State) (f : Nat) (cls : BitVec 2) : State := telInc (fbCredit s f cls 1) (telFab f 1)

/-- The link frame of a Pass flit (R361). -/
def passFrame (s : State) (f : Nat) (tenant eng : BitVec 6) (csf : W16) (fence : Bool) (payload : List Byte) : Frame :=
  { cls := 0, fence := fence, src := s.cfg.memberid, dst := eng, tenant := tenant, epoch := s.view.epoch, csf := csf,
    payload := payload, origin := .agent f }

/-- A fabric message toward this engine or toward a member without a route. (DESIGN CHOICE, log entry 22) -/
def unroutable (s : State) (eng : BitVec 6) : Bool := decide (eng = s.cfg.memberid) || (routeTo s eng.toNat).isNone

/-- A Pass flit on its way to a link: it waits in a reserve buffer when the egress has no credit (R68), and a fenced one keeps
to R244.  Without a route it is logged (R50). (DESIGN CHOICE, log entry 22) -/
def sendPass (s : State) (f : Nat) (x : Frame) : State :=
  if unroutable s x.dst then note (fbCredit s f 0 1) stNoRoute skFabric f [f, x.dst.toNat]
  else match routeTo s x.dst.toNat with
    | none => s
    | some q =>
      if x.fence then passFenced s (64 + f) x.dst.toNat 0 0 x
      else if linkClass0Free s q && c0LaneFree s (64 + f) then offer (fbCredit s f 0 1) q x
      else waitC0 s { egress := q, ingress := 64 + f, frame := x, flit := { fclass := 0, fkind := 1 } }

/-- FABRIC_PASS (R361); a body of more than 40 bytes is no class-0 payload (R47) and is discarded and counted. -/
def execFabricPass (fb : Fin 16) (tenant eng : BitVec 6) (csf : W16) (fence : Bool) (payload : List Byte) (s : State) : Result :=
  runningOn s (24 + fb.val / 4) fun s =>
    if !fbLive (fbOf s fb) then s
    else
      let s := telInc s (telFab fb 1)
      if 40 < payload.length then telInc (fbCredit s fb 0 1) (telFab fb 6)
      else sendPass s fb (passFrame s fb tenant eng csf fence payload)

/-- No link frame can carry a class-2 message of this body (R47), or it is toward this engine or has no route (R362). (DESIGN CHOICE, log
entry 22) -/
def cannotCarry (s : State) (m : OpenMsg) : Bool := unroutable s m.eng || decide (4096 < m.body.length)

/-- The link frame of a class-2 message (R361). -/
def dataFrame (s : State) (f : Nat) (m : OpenMsg) : Frame :=
  { cls := 2, src := s.cfg.memberid, dst := m.eng, epoch := s.view.epoch, csf := m.dfb.setWidth 16, payload := m.body,
    origin := .agent f }

/-- What has come of a message cuts through to its link port (R70). -/
def messagePasses (s : State) (f : Nat) (m : OpenMsg) : Bool :=
  laneFree (fbOf s f).rxw && (match routeTo s m.eng.toNat with | some q => linkPasses s q (dataFrame s f m) | none => false)

/-- One more flit of a message: its credit is returned when it leaves the port, which it does when all of the message so far cuts through,
or when the message will be discarded (R70, R359). -/
def messageFlit (s : State) (f : Nat) (m : OpenMsg) : State × OpenMsg :=
  if cannotCarry s m then (fbCredit s f 2 (m.kept + 1), { m with kept := 0 })
  else if decide (m.kept = 0) && messagePasses s f m then (fbCredit s f 2 1, { m with sent := if m.poison then m.sent else m.body.length })
  else (s, { m with kept := m.kept + 1 })

/-- What has been forwarded of a message that is discarded is stomped (R52, R362): the stomped frame carries what has come. (DESIGN CHOICE,
log entry 87) -/
def stompMessage (s : State) (f : Nat) (m : OpenMsg) : State :=
  match routeTo s m.eng.toNat with
  | some q => if 0 < m.sent then offer s q { dataFrame s f { m with body := m.body.take m.sent } with stomp := true } else s
  | none => s

/-- A class-2 message that is complete: poisoned ones are discarded (R52); so are those toward this engine or without a route
(R362), and those that no link frame can carry, with what was forwarded of them stomped; one that does not cut through waits for buffers of
the Hub pool (R70). -/
def finishData (s : State) (f : Nat) (m : OpenMsg) : State :=
  let back (s : State) : State := if m.kept = 0 then s else fbCredit s f 2 m.kept
  if m.poison then telInc (back (stompMessage s f m)) (telFab f 4)
  else if cannotCarry s m then telInc (back (stompMessage s f m)) (telFab f 6)
  else match routeTo s m.eng.toNat with
    | none => back s
    | some q => if m.kept = 0 then offer s q (dataFrame s f m) else waitFb s f { frame := dataFrame s f m, pass := true, flits := m.kept }

/-- A message whose EOM never came is discarded and counted when another begins; what has been forwarded of it is stomped (R52, R362). -/
def dropMessage (s : State) (f : Nat) : Option OpenMsg → State
  | none => s
  | some m => telInc (if m.kept = 0 then stompMessage s f m else fbCredit (stompMessage s f m) f 2 m.kept) (telFab f 6)

/-- FABRIC_DATA: one class-2 flit of a message (R359, R361, R362). (DESIGN CHOICE, log entry 22) -/
def execFabricData (fb : Fin 16) (fl : DataFlit) (s : State) : Result :=
  runningOn s (24 + fb.val / 4) fun s =>
    let x := fbOf s fb
    if !fbLive x then s
    else
      let s := telInc s (telFab fb 1)
      let s := if fl.som then dropMessage s fb x.open2 else s
      let old : Option OpenMsg := if fl.som then some { eng := fl.eng, dfb := fl.dfb, body := [] } else x.open2
      match old with
      | none => telInc (fbCredit s fb 2 1) (telFab fb 6)
      | some m =>
        let (s, m) := messageFlit s fb { m with body := m.body ++ fl.body, poison := m.poison || fl.poison }
        if fl.eom then finishData (modFb s fb fun x => { x with open2 := none }) fb m
        else modFb s fb fun x => { x with open2 := some m }

/-- FABRIC_FHCRC_FAIL: the flit is discarded and the port held idle (R362). -/
def execFabricFhcrcFail (fb : Fin 16) (s : State) : Result :=
  runningOn s (24 + fb.val / 4) fun s =>
    if !fbLive (fbOf s fb) then s else holdFabric (telInc (telInc s (telFab fb 1)) (telFab fb 3)) fb

/-- FABRIC_RESERVED_FLIT: discarded on its own and counted (R362); a poisoned message of one flit is discarded too (R360). (DESIGN CHOICE, log entry 22) -/
def execFabricReservedFlit (fb : Fin 16) (bad : BadFlit) (s : State) : Result :=
  runningOn s (24 + fb.val / 4) fun s =>
    let x := fbOf s fb
    if !fbLive x then s
    else match bad with
      | .reservedClass => telInc (telInc s (telFab fb 1)) (telFab fb 6)
      | .poisoned c => telInc (takeFlit s fb c) (telFab fb 4)
      | .reservedKind c => telInc (takeFlit s fb c) (telFab fb 6)
      | .noSom c => if c = 2 ∧ x.open2.isSome then s else telInc (takeFlit s fb c) (telFab fb 6)

/-! ## Credits (R54, R359, R363) -/

/-- The port becomes active; the return of a held port is logged. -/
def activate (s : State) (f : Nat) : State :=
  let x := fbOf s f
  let s := setFb s f { x with active := true, idleLogged := false }
  if x.idleLogged then note s stFabricActive skFabric f [f] else s

/-- FABRIC_CREDIT_RETURN: credits of a class; 8 of class 0 within 10 µs of the release make the port active. -/
def execFabricCreditReturn (fb : Fin 16) (cls : BitVec 2) (cnt : Byte) (s : State) : Result :=
  runningOn s (24 + fb.val / 4) fun s =>
    let x := fbOf s fb
    if !fbLive x || decide (cls = 3) then s
    else
      let n := cnt.toNat
      let got := if cls = 0 then x.got0 + n else x.got0
      let s := setFb s fb { x with
        txCred := crMod x.txCred cls.toNat (· + n), c0Out := if cls = 0 then x.c0Out - n else x.c0Out, got0 := got }
      let s := if !x.active && decide (8 ≤ got) && decide (s.now ≤ x.relAt + 10000) then activate s fb else s
      fbDrain s fb

/-- FABRIC_CREDIT_TIMEOUT: fewer than 8 class-0 credits within 10 µs of the release (R359, R363). -/
def execFabricCreditTimeout (fb : Fin 16) (s : State) : Result :=
  runningOn s (24 + fb.val / 4) fun s =>
    let x := fbOf s fb
    if fbInUse s fb && fbLive x && !x.active && decide (x.relAt + 10000 ≤ s.now) then holdFabric s fb else s

/-- FABRIC_PORT_RESET_TIMER: 10 ms after the port was held, and every 100 ms after that (R363). (DEDUCED, log entry 21) -/
def execFabricPortResetTimer (fb : Fin 16) (s : State) : Result :=
  runningHw s fun s =>
    let x := fbOf s fb
    let due := if x.lastRst = 0 then x.heldAt + 10000000 else x.lastRst + 100000000
    if x.held && !x.inReset && decide (due ≤ s.now) then resetFabric s fb true else s

/-! ## Port resets by command (R341, R357, R363, R378) -/

/-- A link port reset by command: a port that was Up or in Retrain is lost first (R61, R347). (DEDUCED, log entry 24) -/
def resetLink (s : State) (p : Nat) : State :=
  let x := portOf s p
  resetLinkPort (if x.state = .up ∨ x.state = .retrain then portLost s p .down else s) p

/-- PORT_RESET (R363, R378): for a link port, complete once it is Down; for a fabric port in use, once its reset is released. (DEDUCED, log entry 21) -/
def execPortReset (a : MbxArgs) (s : State) : Result :=
  runningHw s fun s => mbxStart s 0x22 a fun s =>
    let p := par s 0
    if bitAt p 8 then
      let f := fld p 0 4
      if fbInUse s f then mbxWait (resetFabric s f false) (.portReset true f) else mbxComplete s 0 []
    else mbxComplete (resetLink s (fld p 0 6)) 0 []

/-- PORT_RESET_RELEASE: the pulse of 1 µs is over; an Off port's PHY stays in reset (R357, R363). -/
def execPortResetRelease (fabric : Bool) (n : Nat) (s : State) : Result :=
  runningHw s fun s =>
    if fabric then
      match (fbOf s n).pulseAt with
      | some t => if t + 1000 ≤ s.now then mbxFinish (releaseFabric s n) (.portReset true n) 0 [] else s
      | none => s
    else
      match (portOf s n).pulseAt with
      | some t => if t + 1000 ≤ s.now then
            modPort s n fun x => { x with pulseAt := none, phyRst := decide (roleOf s n = .off) }
          else s
      | none => s

end Sys2Proof.Machine
end

