-- ==== Sys2Proof/Machine/FlashOps.lean ====
section
/-! DEFINITION. The flash at work: which command comes next (R307, R314), how one ends (R305, R315, R318), bank writes (R303 to
R306) and log programs (R318, R319). -/

namespace Sys2Proof.Machine

/-! ## Unknown bytes -/

/-- `n` bytes that nothing constrains, eight from each free value. (DESIGN CHOICE, log entry 4) -/
def drawBytes (s : State) : Nat → List Byte × State
  | 0 => ([], s)
  | n + 1 =>
    let (l, s') := drawBytes (drawn s) n
    (BitVec.ofNat 8 (draw s).toNat :: l, s')

/-- A range of flash whose program did not finish holds unknown bytes (R315). (DESIGN CHOICE, log entry 4; DEDUCED, log entry 42) -/
def flashUnknown (s : State) (a n : Nat) : State :=
  let (l, s') := drawBytes s n
  flashWrite s' a l

/-- A flash command that is cut off, by a reset, a timeout or a restart: what was being programmed or erased holds unknown bytes (R306,
R315). (DEDUCED, log entry 61) -/
def cutFlash (s : State) (c : FlashCmd) : State :=
  match c with
  | .eraseBank a => flashUnknown s a 65536
  | .pageBank a d => flashUnknown s a d.length
  | .trailer a d => flashUnknown s a d.length
  | .eraseLog h => flashUnknown s (logAt s h) 0x00200000
  | .slotLog a d => flashUnknown s a d.length
  | .headerLog h d => flashUnknown s (logAt s h) d.length
  | _ => s

/-! ## Log work (R317 to R319) -/

/-- The oldest record that is not yet programmed. -/
def oldestUnwritten (l : Log) : Option (Nat × LogRec) :=
  (unwritten l).foldl (fun best x =>
    match best with
    | none => some x
    | some b => if older x.2.lseq b.2.lseq then some x else some b) none

/-- The half that is not active; half 0 while the log is being started. -/
def otherHalf (l : Log) : Nat := if l.starting then 0 else 1 - l.actHalf

/-- The next log command, if any: a record in the next free slot, the erase of the other half once 24,576 slots are filled, or
the header of the other half once the last slot is used (R318).  A log erase waits behind a bank erase (R324). -/
def logWork (s : State) : Option FlashCmd :=
  let l := s.log
  let full := l.starting || decide (32768 ≤ l.nextSlot)
  match (if full then none else oldestUnwritten l) with
  | some (_, r) => some (.slotLog (logAt s l.actHalf + 64 * l.nextSlot) (encodeLog r))
  | none =>
    if !l.otherErased && (l.starting || decide (24576 < l.nextSlot)) then
      (if s.flashSusp.isNone then some (.eraseLog (otherHalf l)) else none)
    else if full && l.otherErased then
      some (.headerLog (otherHalf l)
        (encodeHalf (l.hseq + 1) (((oldestUnwritten l).map fun x => x.2.lseq).getD l.nextSeq)))
    else none

/-! ## Bank work (R305) -/

/-- The next command of a bank write; none while a PLDM body has not come far enough (R323), or an erase is suspended. -/
def bankWork (s : State) (w : BankWrite) : Option FlashCmd :=
  if s.flashSusp.isSome then none
  else
    let base := bankAt s w.pair w.target
    match w.stage with
    | .erase b => some (.eraseBank (base + 65536 * b))
    | .page n => if min (256 * (n + 1)) w.len ≤ w.body.length then some (.pageBank (base + 256 * n) (slice w.body (256 * n) 256))
        else none
    | .verify => some .verifyBank
    | .trailer => some (.trailer (base + bodySize s w.pair) (withSeq w.trailer w.seq))

/-- The command is a read, which sag does not hold back (R314). -/
def isRead : FlashCmd → Bool
  | .verifyBank => true
  | .window => true
  | _ => false

/-- A command that sag does not hold back. -/
def allowed (s : State) (c : FlashCmd) : Option FlashCmd := if s.hay.sag && !isRead c then none else some c

/-- The command is an erase of a log half. -/
def isLogErase : FlashCmd → Bool
  | .eraseLog _ => true
  | _ => false

/-- The next command in priority order: log programs, the log window's read, an erase of a log half, a suspended erase, then the bank
write (R307). (DEDUCED, log entry 42) -/
def nextFlash (s : State) : Option FlashCmd :=
  match ((logWork s).bind (allowed s)).filter (fun c => !isLogErase c) with
  | some c => some c
  | none =>
  if s.logWin.fetching then some .window
  else match (logWork s).bind (allowed s) with
    | some c => some c
    | none => match s.flashSusp.bind (allowed s) with
      | some c => some c
      | none => s.bankWr.bind fun w => (bankWork s w).bind (allowed s)

/-- From its first erase on the target of a bank write is not valid (R306, R315). -/
def spoil (s : State) (c : FlashCmd) : State :=
  match c, s.bankWr with
  | .eraseBank _, some w => if s.spoilt.contains (w.pair, w.target) then s else { s with spoilt := s.spoilt ++ [(w.pair, w.target)] }
  | _, _ => s

/-- A flash command starts, or a suspended one resumes, and its time runs (R306). -/
def startFlash (s : State) (c : FlashCmd) : State := { s with flashCmd := some c, flashAt := s.now }

/-- The maximum time that SFDP reports for a command, in ns; a read has none (R306).  A log half takes one erase for each of its 32 blocks.
(DEDUCED, log entry 42) -/
def flashMax (s : State) : FlashCmd → Option Nat
  | .eraseBank _ => some s.boot.sfdp.eraseMax
  | .eraseLog _ => some (32 * s.boot.sfdp.eraseMax)
  | .pageBank _ _ | .trailer _ _ | .slotLog _ _ | .headerLog _ _ => some s.boot.sfdp.programMax
  | .verifyBank | .window => none

/-- The running command has run for 110 % of its maximum time (R306). -/
def flashLate (s : State) (c : FlashCmd) : Bool :=
  match flashMax s c with
  | some t => decide (11 * t ≤ 10 * (s.now - s.flashAt))
  | none => false

/-- Starts the next command when the flash is free (R307). -/
def flashNext (s : State) : State :=
  if s.flashCmd.isSome || !flashOk s then s
  else match nextFlash s with
    | none => s
    | some c => spoil (startFlash { s with flashSusp := if s.flashSusp = some c then none else s.flashSusp } c) c

/-! ## Answers of the management endpoint (R320 to R323) -/

/-- MCTP message type, code, data and signature of a message, from which its bytes are formed. -/
def mgmtParts : MgmtOut → Byte × Nat × List Byte × Option (BitVec 768)
  | .control cmd code data => (0x00, 256 * cmd.toNat + code.toNat, data, none)
  | .spdm code data sig => (0x05, code.toNat, data, sig)
  | .pldm kind code data => (0x01, 65536 * kind.toNat + code.toNat, data, none)
  | .event lseq => (0x01, lseq.toNat, [], none)

/-- The bytes of a message. -/
def mgmtBytes (m : MgmtOut) : List Byte := let (a, b, c, d) := mgmtParts m; Config.mctpBytes a b c d

/-- A message of the endpoint: over the bus, or in class-3 frames to where the request came from, in packets of the transmission unit (R320).
(DEDUCED, log entry 56) -/
def mgmtSend (s : State) (via : Option MgmtIn) (m : MgmtOut) : State :=
  match via with
  | none => emit s (.mgmt busUnit m)
  | some v => (chunksOf linkUnit (mgmtBytes m)).foldl (fun s l => offer s v.port
      { cls := 3, src := s.cfg.memberid, dst := v.src, tenant := v.tenant, epoch := s.view.epoch, payload := l, origin := .mgmt }) s

/-! ## Bank writes (R303 to R306) -/

/-- A bank write ends with a status: reported, logged unless it succeeded, and MBX set again (R305, R306, R375). -/
def endBank (s : State) (st : W16) : State :=
  match s.bankWr with
  | none => s
  | some w =>
    let s := raise { s with bankWr := none, bankSt := 3, bankErr := st, bankTgt := w.target } intMbx
    let s := if w.pldm then mgmtSend s w.via (.pldm 5 st []) else s
    if st = 0 then s else note s st skFlash (b2n w.target) [b2n w.target, 0, 0, b2n w.target, 0, w.seq.toNat]

/-- The checks before anything is erased: trailer, signature, descriptors and pair_ok (R305); 0 when all hold. (DEDUCED, log entry 42) -/
def imageCheck (s : State) (pair : Bool) (t h m : List Byte) : W16 :=
  if t.length ≠ 4096 ∨ !trailerForm s pair t then stImageCheck
  else if !trailerSig s t then stSignature
  else if pair && !(descsForm h m (bodySize s true) && pairFits s (descOf h) (descOf m)) then stImageCheck
  else 0

/-- Starts a bank write, whose checks end it before anything is erased when one fails (R304, R305). -/
def startBank (s : State) (pair pldm : Bool) (body t h m : List Byte) (len : Nat) : State :=
  let w : BankWrite := { pair := pair, body := body, trailer := t, len := len, target := targetBank s pair,
                         seq := newSeq s pair, stage := .erase 0, pldm := pldm, via := if pldm then s.mgmt.via else none }
  let s := { s with bankWr := some w, bankSt := 1, bankErr := 0, bankTgt := w.target }
  let st := imageCheck s pair t h m
  if st ≠ 0 ∨ bodySize s pair < len then endBank s (if st ≠ 0 then st else stImageCheck) else flashNext s

/-- The write goes on to another stage. -/
def bankStage (s : State) (st : BankStage) : State :=
  { s with bankWr := s.bankWr.map fun w => { w with stage := st } }

/-- The stage after erase of block `b`. -/
def afterErase (s : State) (w : BankWrite) (b : Nat) : BankStage :=
  if 65536 * (b + 1) < bankSize s w.pair then .erase (b + 1) else if w.len = 0 then .verify else .page 0

/-- The body and, for a pair, both images read back good (R305). -/
def bodyVerifies (s : State) (w : BankWrite) : Bool :=
  let body := flashRead s (bankAt s w.pair w.target) (trBodyLen w.trailer)
  trailerBody w.trailer body &&
    (!w.pair || (digestOk s (bankAt s w.pair w.target) (descOf (hayDescAt s (bankAt s w.pair w.target))) &&
      digestOk s (bankAt s w.pair w.target) (descOf (rillDescAt s (bankAt s w.pair w.target)))))

/-- A command of a bank write has finished. -/
def bankDoneCmd (s : State) (w : BankWrite) (c : FlashCmd) (r : FlashRes) : State :=
  match c, w.stage with
  | .eraseBank a, .erase b => bankStage (flashErase s a 65536) (afterErase s w b)
  | .pageBank a d, .page n =>
    if r = .railLow then bankStage (flashUnknown s a d.length) (.erase 0)
    else bankStage (flashWrite s a d) (if 256 * (n + 1) < w.len then .page (n + 1) else .verify)
  | .verifyBank, .verify => if bodyVerifies s w then bankStage s .trailer else endBank s stImageCheck
  | .trailer a d, .trailer =>
    if r = .railLow then bankStage (flashUnknown s a d.length) (.erase 0)
    else
      let s := { flashWrite s a d with spoilt := s.spoilt.filter (· ≠ (w.pair, w.target)) }
      endBank s (if bankValid s w.pair w.target then 0 else stImageCheck)
  | _, _ => s

/-! ## Log programs -/

/-- The record with an LSEQ in the ring is programmed. -/
def markWritten (l : Log) (seq : Nat) : Log :=
  { l with ring := l.ring.map fun x => if x.2.lseq.toNat = seq then (x.1, { x.2 with written := true }) else x }

/-- The ring has room and drops are counted: a record of them is written and the counter cleared (R319). -/
def reportDrops (s : State) : State :=
  if s.log.drops = 0 then s
  else
    let n := s.log.drops.toNat
    note { s with log := { s.log with drops := 0 } } evDropped skHayward 0 [0, 0, n]

/-- A command of the log has finished; a torn slot is skipped and its record is programmed again (R315, R318). -/
def logDoneCmd (s : State) (c : FlashCmd) (r : FlashRes) : State :=
  match c with
  | .slotLog a d =>
    if r = .railLow then
      let s := flashUnknown s a d.length
      { s with log := { s.log with nextSlot := s.log.nextSlot + 1 } }
    else
      let s := flashWrite s a d
      reportDrops { s with log := { markWritten s.log (leAt d 0 4) with nextSlot := s.log.nextSlot + 1 } }
  | .eraseLog h => let s := flashErase s (logAt s h) 0x00200000; { s with log := { s.log with otherErased := true } }
  | .headerLog h d =>
    if r = .railLow then
      let s := flashUnknown s (logAt s h) d.length
      { s with log := { s.log with otherErased := false } }
    else
      let s := flashWrite s (logAt s h) d
      { s with log := { s.log with actHalf := h, hseq := s.log.hseq + 1, nextSlot := 1, otherErased := false,
                                   starting := false } }
  | _ => s

/-- A piece of the body may be asked for: outside sag state at once, in sag state at the pace of programming, when the page to be
programmed next lacks it (R323, R324). -/
def pieceDue (s : State) (w : BankWrite) : Bool :=
  w.pldm && !w.want && decide (w.body.length < w.len) && (!s.hay.sag || (match w.stage with
    | .page n => decide (w.body.length < min (256 * (n + 1)) w.len)
    | _ => false))

/-- The request for the next piece of the body, of 64 to 4,096 bytes where the body has as many left. (DEDUCED, log entry 59) -/
def askPiece (s : State) : State :=
  match s.bankWr with
  | some w => if pieceDue s w then
        mgmtSend { s with bankWr := some { w with want := true } } w.via
          (.pldm 0x15 0 (leBytes 4 w.body.length ++ leBytes 4 (min 4096 (w.len - w.body.length))))
      else s
  | none => s

/-- The running command has finished: its effect, then the next command (R307). -/
def flashDone (s : State) (r : FlashRes) : State :=
  match s.flashCmd with
  | none => s
  | some .window => s
  | some c =>
    let s := { s with flashCmd := none }
    let s := match c with
      | .slotLog _ _ => logDoneCmd s c r
      | .eraseLog _ => logDoneCmd s c r
      | .headerLog _ _ => logDoneCmd s c r
      | _ => match s.bankWr with
        | some w => bankDoneCmd s w c r
        | none => s
    flashNext (askPiece s)

/-- The command belongs to a bank write. -/
def isBankCmd : FlashCmd → Bool
  | .eraseBank _ => true
  | .pageBank _ _ => true
  | .verifyBank => true
  | .trailer _ _ => true
  | _ => false

/-- The running and the suspended command of a bank write are cut off. -/
def cutBank (s : State) : State :=
  let s := match s.flashCmd with | some c => if isBankCmd c then cutFlash s c else s | none => s
  let s := match s.flashSusp with | some c => if isBankCmd c then cutFlash s c else s | none => s
  { s with flashCmd := s.flashCmd.filter fun c => !isBankCmd c, flashSusp := s.flashSusp.filter fun c => !isBankCmd c }

/-- A bank write is abandoned: its target stays without a valid trailer (R306, R324). (DEDUCED, log entry 44) -/
def abandonBank (s : State) : State := { cutBank s with bankWr := none }

end Sys2Proof.Machine
end

