-- ==== Sys2Proof/Machine/FuseOps.lean ====
section
/-! DEFINITION. Lifecycle fuses: what an accepted request starts and what a finished fuse program leaves (R349 to R352). -/

namespace Sys2Proof.Machine

/-- Starts the fuse program of an accepted request.  An advance ends every open stream, and its command completes before the reset
that follows (R352, R378). -/
def beginFuse (s : State) (op : FuseOp) : State :=
  let s := { s with fuseOp := some op }
  match op with
  | .advance _ => mbxFinish (endWhere s (fun _ => true) stLifecycle) .fuse 0 []
  | _ => s

/-- The request that waits starts, outside sag state and when no fuse program runs (R314, R352). -/
def beginWaiting (s : State) : State :=
  if s.fuseOp.isSome || s.hay.sag then s
  else match s.fuseWait with
    | some op => beginFuse { s with fuseWait := none } op
    | none => s

/-- The fuses once a program has run (R349, R350, R352). -/
def fuseWritten (f : Fuses) : FuseOp → Fuses
  | .advance t => { f with lcGroups := updAt f.lcGroups (t - 1) fun _ => [true, true, true] }
  | .floors a b => { f with floor1 := min 63 (max f.floor1 a), floor2 := min 63 (max f.floor2 b) }
  | .revoke k => { f with keyrev := f.keyrev ||| (1#8 <<< k) }
  | .key k x => { f with keys := smIns k x f.keys, keyset := f.keyset ||| (1#8 <<< k) }

end Sys2Proof.Machine
end

