-- ==== Sys2Proof/Machine/BootOps.lean ====
section
/-! DEFINITION. Resets and the power-up sequence (R325 to R329, R353): what a reset interrupts and wipes, the log scan (R316 to
R318), the configuration record (R329, R335), the firmware pair (R310), and the start of the Hayward firmware. -/

namespace Sys2Proof.Machine

/-! ## What a reset interrupts -/

/-- The flash once the running and the suspended command have been cut off. -/
def cutFlashAll (s : State) : State :=
  let s := match s.flashCmd with | some c => cutFlash s c | none => s
  match s.flashSusp with | some c => cutFlash s c | none => s

/-- A fuse program that a reset interrupts reads afterwards as programmed or as not programmed (R352). (DESIGN CHOICE, log entries 4, 45) -/
def cutFuse (s : State) : State :=
  match s.fuseOp with
  | some op => { drawn s with fuses := if (draw s).getLsbD 0 then fuseWritten s.fuses op else s.fuses, fuseOp := none }
  | none => s

/-! ## The wipe (R353) -/

/-- The log ring that warm_n keeps (R327, R353). (DEDUCED, log entry 65) -/
def keptLog (l : Log) : Log := { ring := l.ring, newPos := l.newPos, any := l.any }

/-- Everything but flash, fuses and the power-grant pin is wiped; warm_n keeps the timer and the log ring (R291, R327, R353).
The model's own fields stay. (DEDUCED, log entry 61) -/
def wiped (s : State) (warm : Bool) : State :=
  let s := cutFuse (cutFlashAll s)
  { pending := s.pending, out := s.out, free := s.free, fuses := s.fuses, flash := s.flash, spoilt := s.spoilt, hay := { grant := s.hay.grant },
    now := if warm then s.now else 0, log := if warm then keptLog s.log else {} }

/-! ## The log scan (R316 to R318) -/

/-- The slots of a log half that are not erased. -/
def usedSlots (s : State) (half : Nat) : List Nat :=
  let base := logAt s half
  ((s.flash.filter fun c => decide (base ≤ c.1) && decide (c.1 < base + 0x00200000)).map fun c => (c.1 - base) / 64).eraseDups

/-- The bytes of a slot. -/
def slotBytes (s : State) (half i : Nat) : List Byte := flashRead s (logAt s half + 64 * i) 64

/-- LSEQ and BOOT of the good records of a half. (DEDUCED, log entry 65) -/
def recordsIn (s : State) (half : Nat) : List (W32 × W16) :=
  (((usedSlots s half).filter (1 ≤ ·)).map (slotBytes s half)).filterMap fun l =>
    if logGood l then some (BitVec.ofNat 32 (leAt l 0 4), BitVec.ofNat 16 (leAt l 12 2)) else none

/-- The newest of some records; LSEQ 0 and BOOT 0 when there is none. -/
def newestRec (l : List (W32 × W16)) : W32 × W16 :=
  match l with
  | [] => (0, 0)
  | x :: r => r.foldl (fun b y => if newer y.1 b.1 then y else b) x

/-- HSEQ of a half with a good header. -/
def halfSeq (s : State) (half : Nat) : Option W32 :=
  let l := slotBytes s half 0
  if leAt l 0 4 = hmagic ∧ crc32c (l.take 60) = BitVec.ofNat 32 (leAt l 60 4) then some (BitVec.ofNat 32 (leAt l 4 4)) else none

/-- The active half and its HSEQ; none when neither half has a good header (R317). -/
def activeHalf (s : State) : Option (Nat × W32) :=
  match halfSeq s 0, halfSeq s 1 with
  | some a, some b => if newer b a then some (1, b) else some (0, a)
  | some a, none => some (0, a)
  | none, some b => some (1, b)
  | none, none => none

/-- The next free slot of a half: the first erased one from slot 1; 32,768 when there is none (R318). -/
def nextFreeSlot (s : State) (half : Nat) : Nat :=
  let used := usedSlots s half
  (firstFrom (fun i => !used.contains i) 32767 1).getD 32768

/-- The log as the Hayward finds it at a reset (R316 to R318). (DEDUCED, log entry 65) -/
def scanLog (s : State) : State :=
  let inRing := s.log.ring.map fun x => (x.2.lseq, x.2.boot)
  let (seq, boot) := newestRec ((if flashOk s then recordsIn s 0 ++ recordsIn s 1 else []) ++ (if s.log.any then inRing else []))
  let l := { s.log with nextSeq := seq + 1, boot := boot + 1 }
  let l := match (if flashOk s then activeHalf s else none) with
    | some (h, q) =>
      let n := nextFreeSlot s h
      { l with actHalf := h, hseq := q, nextSlot := n,
               otherErased := decide (24576 < n) && (usedSlots s (1 - h)).isEmpty }
    | none => { l with starting := true, otherErased := (usedSlots s 0).isEmpty }
  { s with log := l }

/-! ## Configuration and firmware pair -/

/-- The record of step 6 is chosen (R329): the bank in use, or the default record. -/
def chooseRecord (s : State) : State :=
  match cfgChoice s with
  | some b => { s with boot := { s.boot with
      cfgBank := b, defCfg := false, cfgDig := BitVec.ofNat 384 (leAt (bankTrailer s false b) 16 48) } }
  | none => { s with boot := { s.boot with defCfg := true } }

/-- The record is applied for a partition of `far` GiB (R335). -/
def useCfg (s : State) (far : Option Nat) : State := { s with cfg := applyCfg (cfgRecord s) far }

/-- The first bank of a list whose pair passes every check, and those passed over before it (R310). -/
def pickPair (s : State) : List Bool → Option Bool × List (Bool × Nat)
  | [] => (none, [])
  | b :: r =>
    let c := pairCheck s (bankAt s true b)
    if c = 0 then (some b, [])
    else
      let (p, l) := pickPair s r
      (p, (b, c) :: l)

/-- The firmware pair of step 8 is chosen; without one, and in Blank, the engine boots fenced (R310, R311, R348). (DEDUCED, log entry 61) -/
def choosePair (s : State) : State :=
  let (p, l) := if s.fuses.lc = 0 then (none, []) else pickPair s (if flashOk s then banksByAge s true (bankValid s true) else [])
  match p with
  | none => { s with boot := { s.boot with fenced := true, passed := l } }
  | some b =>
    let h := descOf (hayDescAt s (bankAt s true b))
    let m := descOf (rillDescAt s (bankAt s true b))
    { s with boot := { s.boot with
      fenced := false, passed := l, pairBank := b, fwVer := BitVec.ofNat 32 h.version, mcVer := BitVec.ofNat 32 m.version,
      baleFmts := h.bales.take h.nbale, imgDig := h.imgDig, mcDig := m.imgDig } }

/-! ## Steps 1 to 6 and 8 -/

/-- Plots 128 to 159 are On, every Brook is locked, and the Rill Plots are powered up, under a grant of 30 W or more (R325, R371). -/
def powerPlots (s : State) : State :=
  let s := { s with locks := List.range 36 }
  let s := (List.range 32).foldl (fun s i => setPlot s (128 + i) { plotOf s (128 + i) with st := .on }) s
  if grantLow s then { s with hay := { s.hay with powerUps := List.range 128 } } else (List.range 128).foldl powerUp s

/-- A new challenge (R351). (DESIGN CHOICE, log entry 4) -/
def newChal (s : State) : State := { drawn s with chal := draw s }

/-- The boot state at the start of the sequence. -/
def beginBoot (s : State) (sfdp : Sfdp) (warm : Bool) : State :=
  { s with boot := { phase := .recordChosen, porLow := false, warm := warm, recordAt := s.now, sfdp := sfdp } }

/-- The Delta view holds this engine alone, and the endpoint has the identifier of the record (R320, R342). -/
def ownView (s : State) : State :=
  { s with view := { members := oneBit s.cfg.memberid.toNat }, mgmt := { eid := s.cfg.epid } }

/-- Steps 1 to 6 of R325, and the choice of the pair, which starts when step 6 is done. -/
def bringUp (s : State) (sfdp : Sfdp) (warm : Bool) : State :=
  choosePair (ownView (useCfg (chooseRecord (scanLog (powerPlots (newChal (beginBoot (wiped s warm) sfdp warm))))) (some 256)))

/-- A reset as by warm_n (R327, R352). -/
def warmReset (s : State) (sfdp : Sfdp) : State := bringUp s sfdp true

/-! ## The far partition (R328, R335) -/

/-- The far tier is unusable: logged, step 7 skipped, FARGIB and every KVQ 0 (R328). (DEDUCED, log entry 62) -/
def farUnusable (s : State) : State :=
  let s := useCfg { s with boot := { s.boot with partSeen := true, farBad := true, farWiped := true, wiping := false } } none
  noteMemory s stPartitionAbsent 0xFFFFFFFF 0 0 0 0

/-! ## Step 9 and step 10 -/

/-- The record at an offset was changed (R332, R334, R382). (DEDUCED, log entry 64) -/
def noteConfig (s : State) (code : W16) (off given applied : Nat) : State := note s code skHayward 0 [off, given, applied]

/-- Illegal banks made idle, and halves of routes made unset, are logged (R332, R334). (DEDUCED, log entry 64) -/
def noteClamps (s : State) : State :=
  let c := cfgRecord s
  let s := (List.range 64).foldl (fun s b =>
    let x := smGet {} c.bank b
    if x = bankCfgOf s b then s else noteConfig s stBankIllegal (8192 + 2 * b) (bankCode x) (bankCode (bankCfgOf s b))) s
  (List.range 64).foldl (fun s m =>
    let x := smGet {} c.route m
    if x = routeEnt s m ∨ m = s.cfg.memberid.toNat then s
    else noteConfig s stRouteInvalid (128 + 4 * m) (routeCode x) (routeCode (routeEnt s m))) s

/-- What the ROM and the firmware log of a boot: the default record with each bank's state (R329), the pairs passed over (R310),
what R335 made idle or unset, and the boot. (DEDUCED, log entry 64) -/
def noteBoot (s : State) : State :=
  let s := if s.boot.defCfg then
      [false, true].foldl (fun s b => note s stDefaultRecord skFlash (b2n b) [0, b2n (cfgBankValid s b), 0]) s
    else s
  let s := s.boot.passed.foldl (fun s x => note s stPairIncompatible skFlash (b2n x.1)
    [b2n x.1, 0, 0, b2n x.1, x.2, (trSeq (bankTrailer s true x.1)).toNat]) s
  note (noteClamps s) evBoot skHayward 0 [0, s.log.boot.toNat - 1, s.log.boot.toNat]

/-- The intake contracts start full (R333). -/
def fillBuckets (s : State) : State :=
  { s with buckets := smOfList {} ((List.range 64).map fun t =>
      if (tenOf s t).en then { level := 1000 * 1024 * (tenOf s t).burst, at' := s.now } else {}) }

/-- Ports leave Down according to their roles: the PHYs of ports in use leave reset, and so do the fabric ports in use; none in
Retired (R325, R348, R357, R363). (DEDUCED, log entries 24, 66) -/
def openPorts (s : State) : State :=
  if s.fuses.lc = 4 then s
  else
    let s := (List.range 64).foldl (fun s p => if roleOf s p = .off then s else modPort s p fun x => { x with phyRst := false }) s
    (List.range 16).foldl (fun s f => if fbInUse s f then releaseFabric s f else s) s

/-- The objects that boot creates in the far partition (R262, R264): the Fen shadow and the request-ID cache, with the first two IDs
that belong to no stream context.  None where the far tier is unusable. (DEDUCED, log entry 49) -/
def bootObjs (s : State) : State :=
  let obj (loc : Nat) : Obj := { state := .home, kind := .pinned, home := { tier := .far, loc := BitVec.ofNat 64 loc }, size := 33554432 }
  if s.boot.farBad then s else { s with objs := smSet {} (smSet {} s.objs 65536 (obj 0)) 65537 (obj 0x02000000) }

/-- The firmware or the recovery responder starts (R311, R325); fenced boot and Retired have their Rill Plots Gated (R311, R348), and a low
grant has the Heaths at step 6 (R371). (DEDUCED, log entries 66, 67) -/
def startFirmware (s : State) : State :=
  let s := { s with boot := { s.boot with phase := .running, hwrdy := true }, hay := { s.hay with dogAt := s.now, firmRun := true } }
  let s := bootObjs s
  let s := if s.boot.fenced ∨ s.fuses.lc = 4 then gateCompute { s with hay := { s.hay with powerUps := [] } } else s
  let s := noteBoot s
  flashNext (openPorts (fillBuckets (if grantLow s then forceSix s else s)))

end Sys2Proof.Machine
end

