-- ==== Sys2Proof/Machine/Weir.lean ====
section
/-! DEFINITION. The Weir and Sluice operations from fabric ports (R229 to R241), signals from other engines (R243 to R249),
their deadlines, holds and tags, and the debug window (R254). -/

namespace Sys2Proof.Machine

/-! ## From a fabric port -/

/-- A class-0 Op flit taken in at a fabric port: counted, its credit returned, then carried out (R359, R379). (DEDUCED, log entry 25) -/
def fabricOp (s : State) (fb : Nat) (k : State → State) : State :=
  if !fbLive (fbOf s fb) || !lockedOn s (24 + fb / 4) then s else k (telInc (fbCredit s fb 0 1) (telFab fb 1))

/-- The last signaller that a local agent is (R254). -/
def agentSig (s : State) (op : OpBody) : LastSig := { kind := 1, eng := s.cfg.memberid, agent := opAgent op }

/-- A Weir operation by its owner, else the refusal of R230. (DEDUCED, log entry 32) -/
def weirOp (s : State) (fb : Nat) (tenant : BitVec 6) (op : OpBody) (opc : Byte) (k : State → Nat → State) : State :=
  fabricOp s fb fun s =>
    let w := (opObj op).toNat
    if ownsWeir s tenant w then k s w else answer s fb tenant op opc [] stNotOwner 0 0

/-- The COMPLETE of a Weir operation with the Weir's value (R236). -/
def weirAnswer (s : State) (fb : Nat) (tenant : BitVec 6) (op : OpBody) (opc : Byte) (w : Nat) (status : W16) : State :=
  answer s fb tenant op opc (weirOf s w).holds status (weirOf s w).val 0

/-- SIGNAL (R236): N of 0 changes nothing; a sum past the top is refused; else the value rises, the COMPLETE carries it, and
the wake rule runs. -/
def execSignal (fb : Fin 16) (tenant : BitVec 6) (op : OpBody) (s : State) : Result :=
  running s fun s => weirOp s fb tenant op opcSignal fun s w =>
    if opN op = 0 then weirAnswer s fb tenant op opcSignal w 0
    else if overflows s w (opN op) then weirAnswer s fb tenant op opcSignal w stWeirOverflow
    else
      let s := setVal s w ((weirOf s w).val + opN op) (agentSig s op)
      wake (weirAnswer s fb tenant op opcSignal w 0) w

/-- A waiter from an operation body (R231, R241); N is a field of Weir operations only (R234). -/
def waiterFrom (s : State) (fb : Nat) (tenant : BitVec 6) (op : OpBody) (opc : Byte) : Waiter :=
  { agent := opAgent op, tag := opTag op, fb := fb, tenant := tenant, n := if opc = opcWait then opN op else 0, opc := opc,
    deadline := deadlineOf s (opTmo op) }

/-- WAIT (R236, R237): never past a queued waiter. -/
def execWait (fb : Fin 16) (tenant : BitVec 6) (op : OpBody) (s : State) : Result :=
  running s fun s => weirOp s fb tenant op opcWait fun s w =>
    let x := weirOf s w
    if opN op = 0 then weirAnswer s fb tenant op opcWait w 0
    else if x.queue.isEmpty ∧ (opN op).toNat ≤ x.val.toNat then
      weirAnswer (setWeir s w { x with val := x.val - opN op }) fb tenant op opcWait w 0
    else if !waiterRoom s tenant then weirAnswer s fb tenant op opcWait w stWBusy
    else setWeir s w { x with queue := x.queue ++ [waiterFrom s fb tenant op opcWait] }

/-- DECREMENT (R236): queued waiters are not consulted. -/
def execDecrement (fb : Fin 16) (tenant : BitVec 6) (op : OpBody) (s : State) : Result :=
  running s fun s => weirOp s fb tenant op opcDecrement fun s w =>
    let x := weirOf s w
    if (opN op).toNat ≤ x.val.toNat then
      weirAnswer (setWeir s w { x with val := x.val - opN op }) fb tenant op opcDecrement w 0
    else weirAnswer s fb tenant op opcDecrement w stUnderflow

/-- READ (R236). -/
def execRead (fb : Fin 16) (tenant : BitVec 6) (op : OpBody) (s : State) : Result :=
  running s fun s => weirOp s fb tenant op opcRead fun s w => weirAnswer s fb tenant op opcRead w 0

/-- SET (R236): the COMPLETE carries N, then the wake rule runs. -/
def execSet (fb : Fin 16) (tenant : BitVec 6) (op : OpBody) (s : State) : Result :=
  running s fun s => weirOp s fb tenant op opcSet fun s w =>
    wake (weirAnswer (setVal s w (opN op) (agentSig s op)) fb tenant op opcSet w 0) w

/-- BIND (R236). -/
def execBind (fb : Fin 16) (tenant : BitVec 6) (op : OpBody) (s : State) : Result :=
  running s fun s => weirOp s fb tenant op opcBind fun s w =>
    let n := opN op
    let x := weirOf s w
    if n.getLsbD 31 then weirAnswer (setWeir s w { x with bound := none }) fb tenant op opcBind w 0
    else match findStream s (fld n 16 6) tenant.toNat (n.setWidth 16) with
      | some (c, _) => weirAnswer (setWeir s w { x with bound := some c }) fb tenant op opcBind w 0
      | none => weirAnswer s fb tenant op opcBind w stNoStream

/-! ## Remote signals at their origin (R246, R247) -/

/-- The COMPLETE of a remote signal refused at once; nothing is sent (R246). -/
def refuseRemote (s : State) (fb : Nat) (tenant : BitVec 6) (op : OpBody) (opc : Byte) (status : W16) : State :=
  answer s fb tenant op opc [] status 0 0

/-- The refusals of R246, in order. -/
def remoteRefusal (s : State) (m : Nat) : Option W16 :=
  if m = s.cfg.memberid.toNat then some stBadOperation
  else if !isMember s m || isSusp s m then some stMemberLeft
  else if (routeTo s m).isNone then some stNoRoute
  else if (freeLinkTag s).isNone then some stWBusy
  else none

/-- Sends a LINK_SIGNAL under a link tag of its own (R243, R246). -/
def launchSignal (s : State) (fb : Nat) (tenant : BitVec 6) (op : OpBody) (opc : Byte) (seq : W32) : State :=
  match freeLinkTag s with
  | none => s
  | some t =>
    let m := (opDst op).toNat
    let s := setLinkTag s t
      (.used (opAgent op) (opTag op) fb tenant opc (opObj op) (opDst op) seq (deadlineOf s (opTmo op)))
    sendBehind s fb m (weirFrame s m tenant opcLinkSignal true
      { obj := opObj op, tag := BitVec.ofNat 16 t, n := opN op, sigseq := seq } (.signal t))

/-- REMOTE_SIGNAL (R246): the next SIGSEQ of the destination. -/
def execRemoteSignal (fb : Fin 16) (tenant : BitVec 6) (op : OpBody) (s : State) : Result :=
  running s fun s => fabricOp s fb fun s =>
    let m := (opDst op).toNat
    match remoteRefusal s m with
    | some st => refuseRemote s fb tenant op opcRemoteSignal st
    | none =>
      let seq := smGet 0 s.outCtr m + 1
      launchSignal { s with outCtr := smSet 0 s.outCtr m seq } fb tenant op opcRemoteSignal seq

/-- RESIGNAL (R247): the agent's own SIGSEQ, unchecked. -/
def execResignal (fb : Fin 16) (tenant : BitVec 6) (op : OpBody) (s : State) : Result :=
  running s fun s => fabricOp s fb fun s =>
    match remoteRefusal s (opDst op).toNat with
    | some st => refuseRemote s fb tenant op opcResignal st
    | none => launchSignal s fb tenant op opcResignal (opSigseq op)

/-! ## Sluices (R240) -/

/-- The COMPLETE of a refused Sluice operation. -/
def sluiceRefuse (s : State) (fb : Nat) (tenant : BitVec 6) (op : OpBody) (opc : Byte) (status : W16) (mask : W64) :
    State :=
  answer s fb tenant op opc (sluiceOf s (opSluice op)).holds status 0 mask

/-- LINK_ARRIVE to every other member of the mask (R240, R243). -/
def sendArrivals (s : State) (fb : Nat) (tenant : BitVec 6) (i : Nat) (gen : W16) (mask : W64) : State :=
  (List.range 64).foldl (fun s m =>
    if mask.getLsbD m && decide (m ≠ s.cfg.memberid.toNat) then
      sendBehind s fb m (weirFrame s m tenant opcLinkArrive true
        { obj := BitVec.ofNat 14 i, gen := gen, mask := mask } (.arrive i gen))
    else s) s

/-- The local arrival is recorded and announced (R240). -/
def recordArrival (s : State) (fb : Nat) (tenant : BitVec 6) (op : OpBody) : State :=
  let i := opSluice op
  let x := sluiceOf s i
  let s := setSluice s i { x with
    cur := { mask := some (opMask op), arrived := x.cur.arrived ||| oneBit s.cfg.memberid.toNat },
    arrival := some (waiterFrom s fb tenant op opcSluiceArrive), before := x.waiters, waiters := [], last := agentSig s op }
  sluiceCheck (sendArrivals s fb tenant i (opGen op) (opMask op)) i

/-- SLUICE_ARRIVE (R240, R388). (DEDUCED, log entry 32) -/
def execSluiceArrive (fb : Fin 16) (tenant : BitVec 6) (op : OpBody) (s : State) : Result :=
  running s fun s => fabricOp s fb fun s =>
    let i := opSluice op
    let x := sluiceOf s i
    let mask := opMask op
    let own := oneBit s.cfg.memberid.toNat
    let absent := notMembers s mask ||| (own &&& ~~~mask)
    let no := sluiceRefuse s fb tenant op opcSluiceArrive
    if !ownsSluice s tenant i then answer s fb tenant op opcSluiceArrive [] stNotOwner 0 0
    else if opGen op ≠ x.gen ∨ x.arrival.isSome then no stBadGeneration 0
    else if absent ≠ 0 then no stMemberLeft absent
    else if noRoutes s mask ≠ 0 then no stNoRoute (noRoutes s mask)
    else if 64 ≤ sluicesInProgress s then no stWBusy 0
    else if x.cur.mask.isSome ∧ x.cur.mask ≠ some mask then
      sluiceFinish (no stMaskMismatch x.cur.arrived) i stMaskMismatch false x.cur.arrived
    else if !waiterRoom s tenant then no stWBusy 0
    else recordArrival s fb tenant op

/-- SLUICE_WAIT (R240). (DEDUCED, log entry 32) -/
def execSluiceWait (fb : Fin 16) (tenant : BitVec 6) (op : OpBody) (s : State) : Result :=
  running s fun s => fabricOp s fb fun s =>
    let i := opSluice op
    let x := sluiceOf s i
    let no := sluiceRefuse s fb tenant op opcSluiceWait
    if !ownsSluice s tenant i then answer s fb tenant op opcSluiceWait [] stNotOwner 0 0
    else if opGen op ≠ x.gen then no stBadGeneration 0
    else if !waiterRoom s tenant then no stWBusy 0
    else setSluice s i { x with waiters := x.waiters ++ [waiterFrom s fb tenant op opcSluiceWait] }

/-- FABRIC_UNKNOWN_OPERATION: a code that fabric ports do not accept is answered with Bad operation (R233). (DEDUCED, log entry 32) -/
def execFabricUnknownOperation (fb : Fin 16) (tenant : BitVec 6) (opc : Byte) (op : OpBody) (s : State) : Result :=
  running s fun s => fabricOp s fb fun s =>
    if fabricCodes.contains opc then s else answer s fb tenant op opc [] stBadOperation 0 0

/-! ## Frames of the Weir layer (R240, R245 to R248) -/

/-- The next Weir-layer frame that a port handed to the Hub, when it carries this code. (DESIGN CHOICE, log entry 15) -/
def takeHub (s : State) (p : Nat) (code : Byte) (k : State → Nat → Frame → State) : State :=
  match (portOf s p).hubOps with
  | (arr, f) :: r =>
    if f.csf.setWidth 8 = code then k (settleC0 (modPort s p fun x => { x with hubOps := r })) arr f else s
  | [] => s

/-- A frame whose source fails R343 is discarded, counted and logged (R248, R382). (DESIGN CHOICE, log entry 18) -/
def notCurrentLog (s : State) (p : Nat) (f : Frame) (b : OpBody) : State :=
  note (count s .signalNotCurrent p) stNotCurrent skMember f.src.toNat
    [f.tenant.toNat, (opObj b).toNat, 0, (opTag b).toNat, (opSigseq b).toNat, f.src.toNat]

/-- Adds a visibility hold to what is still held (R245). -/
def addHold (s : State) (l : List (Nat × Nat)) (h : Nat × Nat) : List (Nat × Nat) := (l.filter (holdForce s)) ++ [h]

/-- Applies a remote signal to a Weir, or says why not (R230, R236, R248). -/
def applySignal (s : State) (p arr : Nat) (f : Frame) (b : OpBody) : State × W16 :=
  let w := (opObj b).toNat
  if !ownsWeir s f.tenant w then (s, stNotOwner)
  else if overflows s w (opN b) then (s, stWeirOverflow)
  else
    let x := weirOf s w
    let s := setWeir s w { x with holds := addHold s x.holds (p, arr) }
    if opN b = 0 then (s, 0)
    else (raiseWeir s w (opN b) { kind := 2, eng := f.src, agent := 0, sigseq := opSigseq b }, 0)

/-- The incoming window takes a SIGSEQ as its newest (R248): the record moves with it. -/
def windowNew (w : InWin) (seq : W32) : InWin :=
  { high := seq, rec' := (w.rec' <<< (seq - w.high).toNat) ||| 1#1024 }

/-- The incoming window marks an older SIGSEQ as applied (R248). -/
def windowMark (w : InWin) (seq : W32) : InWin := { w with rec' := w.rec' ||| (1#1024 <<< (w.high - seq).toNat) }

/-- Steps 2 to 4 of R248. -/
def windowSignal (s : State) (p arr : Nat) (f : Frame) (b : OpBody) : State × W16 :=
  let m := f.src.toNat
  let w := smGet {} s.inWin m
  let seq := opSigseq b
  let put (s : State) (w : InWin) : State := { s with inWin := smSet {} s.inWin m w }
  if newer seq w.high then
    match applySignal s p arr f b with
    | (s', st) => if st = 0 then (put s' (windowNew w seq), 0) else (s', st)
  else if (w.high - seq).toNat < 1024 then
    if w.rec'.getLsbD (w.high - seq).toNat then (s, stWDuplicate)
    else match applySignal s p arr f b with
      | (s', st) => if st = 0 then (put s' (windowMark w seq), 0) else (s', st)
  else (s, stStale)

/-- LINK_SIGNAL (R248): currency, the incoming window, once, and a LINK_ACK. (DESIGN CHOICE, log entry 18) -/
def execLinkSignal (p : Fin 64) (s : State) : Result :=
  running s fun s => takeHub s p opcLinkSignal fun s arr f =>
    let b := bodyOf f.payload
    let m := f.src.toNat
    if !current s m f.epoch then notCurrentLog s p f b
    else
      let (s, st) := windowSignal s p arr f b
      sendReply s m p (weirFrame s m f.tenant opcLinkAck false
        { obj := opObj b, tag := opTag b, status := st, opc := opcLinkSignal, sigseq := opSigseq b } .reply)

/-- A late completion is discarded and counted (R65). -/
def lateCompletion (s : State) : State := telInc s (telEng 7)

/-- LINK_ACK (R246): matched by source engine and link tag only. -/
def execLinkAck (p : Fin 64) (s : State) : Result :=
  running s fun s => takeHub s p opcLinkAck fun s _ f =>
    let b := bodyOf f.payload
    let t := (opTag b).toNat
    match linkTagOf s t with
    | .used _ _ _ tenant _ _ dst _ _ =>
      if dst = f.src ∧ t < 1024 then
        let s := if opStatus b = stWDuplicate then telInc s (telTen tenant.toNat 20)
          else if opStatus b = stStale then telInc s (telTen tenant.toNat 21) else s
        finishTag s t (opStatus b) false .free
      else lateCompletion s
    | .quarantined _ dst => lateCompletion (if dst = f.src then setLinkTag s t .free else s)
    | .free => lateCompletion s

/-- The record of one generation takes an arrival (R240). -/
def arriveIn (g : GenRec) (m : Nat) (mask : W64) : GenRec := { mask := some mask, arrived := g.arrived ||| oneBit m }

/-- Why a LINK_ARRIVE is not accepted (R230, R240). (DEDUCED, log entry 83) -/
def arriveRefusal (s : State) (f : Frame) (b : OpBody) : Option W16 :=
  let i := opSluice b
  let x := sluiceOf s i
  let m := f.src.toNat
  let agrees (g : GenRec) : Bool := g.mask.isNone || decide (g.mask = some (opMask b))
  if !current s m f.epoch then some stNotCurrent
  else if !ownsSluice s f.tenant i then some stNotOwner
  else if opGen b ≠ x.gen ∧ opGen b ≠ x.gen + 1 then some stBadGeneration
  else if !(opMask b).getLsbD m then some stMaskMismatch
  else if !agrees (if opGen b = x.gen then x.cur else x.nxt) then some stMaskMismatch
  else none

/-- The member has already arrived for this generation, so a second arrival changes nothing (R240). -/
def arrivedAlready (x : Sluice) (gen : W16) (m : Nat) : Bool :=
  (if gen = x.gen then x.cur else x.nxt).arrived.getLsbD m

/-- The Sluice after an accepted arrival: the member's bit, the visibility hold and the last signaller (R240, R245, R254). -/
def takeArrival (s : State) (x : Sluice) (p arr : Nat) (f : Frame) (b : OpBody) : Sluice :=
  let m := f.src.toNat
  let x := { x with holds := addHold s x.holds (p, arr), last := { kind := 2, eng := f.src } }
  if opGen b = x.gen then { x with cur := arriveIn x.cur m (opMask b) } else { x with nxt := arriveIn x.nxt m (opMask b) }

/-- LINK_ARRIVE (R240, R245). (DEDUCED, log entry 83) -/
def execLinkArrive (p : Fin 64) (s : State) : Result :=
  running s fun s => takeHub s p opcLinkArrive fun s arr f =>
    let b := bodyOf f.payload
    let m := f.src.toNat
    let i := opSluice b
    match arriveRefusal s f b with
    | some st => sendReply s m p (weirFrame s m f.tenant opcLinkReject false
        { obj := BitVec.ofNat 14 i, status := st, gen := opGen b, mask := opMask b } .reply)
    | none =>
      if arrivedAlready (sluiceOf s i) (opGen b) m then s
      else sluiceCheck (setSluice s i (takeArrival s (sluiceOf s i) p arr f b)) i

/-- LINK_REJECT (R240): completes the generation in progress that it names; any other is discarded and counted. (DESIGN CHOICE, log entry 18; DEDUCED, log entry 19) -/
def execLinkReject (p : Fin 64) (s : State) : Result :=
  running s fun s => takeHub s p opcLinkReject fun s _ f =>
    let b := bodyOf f.payload
    let i := opSluice b
    let x := sluiceOf s i
    if current s f.src.toNat f.epoch && ownsSluice s f.tenant i && x.arrival.isSome && decide (opGen b = x.gen) then
      sluiceFinish s i (opStatus b) false x.cur.arrived
    else count s .reject p

/-! ## Deadlines, holds and tags -/

/-- Whether a waiter's deadline has come. (DESIGN CHOICE, log entry 6) -/
def due (s : State) (w : Waiter) : Bool := decide (w.deadline ≤ s.now)

/-- Counts an expiry (R241). -/
def countTimeout (s : State) (t : BitVec 6) : State := telInc s (telTen t.toNat 19)

/-- Expires the waiters of one Weir; the wake rule runs when the head leaves (R237, R241). -/
def expireWeir (s : State) (w : Nat) : State :=
  let x := weirOf s w
  let out := x.queue.filter (due s)
  let head := match x.queue with | [] => false | h :: _ => due s h
  let rip := replayInProgress s
  let s := setWeir s w { x with queue := x.queue.filter fun y => !due s y }
  let s := out.foldl (fun s y => countTimeout (answerWaiter s w x.holds y stWTimeout rip x.val 0) y.tenant) s
  if head then wake s w else s

/-- Expires the SLUICE_WAITs of one Sluice (R241, R242). -/
def expireSluice (s : State) (i : Nat) : State :=
  let x := sluiceOf s i
  let out := (x.before ++ x.waiters).filter (due s)
  let rip := replayInProgress s
  let s := setSluice s i { x with
    before := x.before.filter fun y => !due s y, waiters := x.waiters.filter fun y => !due s y }
  out.foldl (fun s y => countTimeout (answerWaiter s i x.holds y stWTimeout rip 0 x.cur.arrived) y.tenant) s

/-- Expires one link tag; it is quarantined (R65, R241, R246). -/
def expireTag (s : State) (t : Nat) : State :=
  match linkTagOf s t with
  | .used _ _ _ tenant _ _ dst _ d =>
    if d ≤ s.now then countTimeout (finishTag s t stWTimeout (replayInProgress s) (.quarantined s.now dst)) tenant else s
  | _ => s

/-- WAITER_DEADLINE: the check of every µs over waits and remote signals (R241). -/
def execWaiterDeadline (s : State) : Result :=
  running s fun s =>
    let s := s.weirs.foldl (fun s x => expireWeir s x.1) s
    let s := s.sluices.foldl (fun s x => expireSluice s x.1) s
    s.linkTags.foldl (fun s x => expireTag s x.1) s

/-- SLUICE_ARRIVAL_DEADLINE: the Sluice completes with Timeout for every waiter, MASK holding who has not arrived (R242). -/
def execSluiceArrivalDeadline (sl : Fin 256) (s : State) : Result :=
  running s fun s =>
    let x := sluiceOf s sl
    match x.arrival with
    | some a =>
      if due s a then
        countTimeout (sluiceFinish s sl stWTimeout (replayInProgress s) ((x.cur.mask.getD 0) &&& ~~~x.cur.arrived)) a.tenant
      else s
    | none => s

/-- VISIBILITY_HOLD_RELEASE: the COMPLETEs of a fabric port whose holds have ended leave, in order (R245). -/
def execVisibilityHoldRelease (fb : Fin 16) (s : State) : Result :=
  running s fun s =>
    let x := fbOf s fb
    let free (h : HeldComplete) : Bool := !(h.holds.any (holdForce s))
    fbSend (setFb s fb { x with heldC := x.heldC.filter fun h => !free h }) fb ((x.heldC.filter free).map (·.flit))

/-- A tag is freed 10 ms after its timeout (R65). (DESIGN CHOICE, log entry 6) -/
def quarantineOver (s : State) (since : Nat) : Bool := decide (since + 10000000 ≤ s.now)

/-- A memory or content tag after the quarantine check. -/
def releaseTag (s : State) : TagState → TagState
  | .quarantined t => if quarantineOver s t then .free else .quarantined t
  | x => x

/-- A link tag after the quarantine check. -/
def releaseLinkTag (s : State) : LinkTag → LinkTag
  | .quarantined t d => if quarantineOver s t then .free else .quarantined t d
  | x => x

/-- TAG_QUARANTINE_EXPIRY: every tag quarantined for 10 ms is freed (R65). -/
def execTagQuarantineExpiry (s : State) : Result :=
  running s fun s => { s with
    memTags := smMap .free (releaseTag s) s.memTags, conTags := smMap .free (releaseTag s) s.conTags,
    linkTags := smMap .free (releaseLinkTag s) s.linkTags }

/-! ## Debug window (R254) -/

/-- µs left to a deadline, rounded up (R253). -/
def usLeft (s : State) (d : Nat) : Nat := ceilDiv (d - s.now) 1000

/-- A waiter as the detail window shows it. -/
def shownWaiter (s : State) (w : Waiter) : W16 × W16 × W32 × Nat := (w.agent, w.tag, w.n, usLeft s w.deadline)

/-- A write to WEIR_DSEL: the snapshot of the selected object (R254). -/
def selectDetail (s : State) (data : W32) : State :=
  let obj := data.extractLsb' 0 14
  if data.getLsbD 16 then
    let x := sluiceOf s (obj.toNat % 256)
    let ws := sluiceWaiters x
    { s with det := { obj := obj, slu := true, dval := 0, nwait := ws.length,
                      shown := (ws.take 8).map (shownWaiter s), last := x.last } }
  else
    let x := weirOf s obj.toNat
    { s with det := { obj := obj, slu := false, dval := x.val, nwait := x.queue.length,
                      shown := (x.queue.take 8).map (shownWaiter s), last := x.last } }

/-- WEIR and TEL are served: from step 9 on, not in fenced boot (R370), not in Retired (R348). (DEDUCED, log entry 66) -/
def dataServed (s : State) : Bool := decide (s.boot.phase = .running) && !s.boot.fenced && decide (s.fuses.lc ≠ 4)

/-- WEIR_DSEL_WRITE (R254). -/
def execWeirDselWrite (data : W32) (s : State) : Result :=
  running s fun s => if dataServed s then selectDetail s data else s

end Sys2Proof.Machine
end

