-- ==== Sys2Proof/Machine/Memory.lean ====
section
/-! DEFINITION. The memory family: completions of the memory and content ports (R65, R365 to R367), DMA and moves (R239, R271 to
R275), reloads (R273), and the placement commands OBJ_QUERY, OBJ_MOVE, SLOW_GRANT and SLOW_RELEASE (R269, R378). -/

namespace Sys2Proof.Machine

/-! ## Tags (R65) -/

def memTag (s : State) (mp t : Nat) : TagState := smGet .free s.memTags (2048 * mp + t)
def setMemTag (s : State) (mp t : Nat) (x : TagState) : State :=
  { s with memTags := smSet .free s.memTags (2048 * mp + t) x, memRest := smSet (0, 0) s.memRest (2048 * mp + t) (0, 0) }
def conTag (s : State) (t : Nat) : TagState := smGet .free s.conTags t
def setConTag (s : State) (t : Nat) (x : TagState) : State :=
  { s with conTags := smSet .free s.conTags t x, conRest := smSet (0, 0) s.conRest t (0, 0) }

/-- The operation of a bank that waits for shadow records has one fewer to wait for; a failure becomes its status (R158). -/
def shadowAnswered (s : State) (b : Nat) (st : W16) : State :=
  { s with bankDone := smSet [] s.bankDone b ((smGet [] s.bankDone b).map fun d =>
      { d with waits := d.waits - 1, status := if st = 0 then d.status else st }) }

/-- The request of a channel's transfer failed: its status is kept for the completion, and whether a write or the flushing read failed (R65,
R239, R275). -/
def dmaFailed (s : State) (ch : Nat) (st : W16) (wr : Bool) : State :=
  { s with dmaQ := smSet [] s.dmaQ ch (match smGet [] s.dmaQ ch with
      | d :: r => (if d.started && decide (d.status = 0) then { d with status := st, badWrite := wr || d.flushed } else d) :: r
      | [] => []) }

/-- The job with its carried block unread, when it is a step of the stream (R209). -/
def jobBadBlock (c : Nat) : Job → Job
  | .firstStage x pos car => .firstStage x pos (if x = c then none else car)
  | j => j

/-- The read of a stream's carried block returned a far-tier error: its step runs in first-pass mode (R209), even if the stream ends. -/
def blockFailed (s : State) (c : Nat) : State :=
  let f (p : Prog) : Prog := { p with job := jobBadBlock c p.job }
  { s with jobs := s.jobs.map (jobBadBlock c), progs := s.progs.map fun y => (y.1, y.2.map f), disp := s.disp.map fun y => (y.1, y.2.map f) }

/-- The streams of a running program end (R107). -/
def loseStreams (s : State) (no : Nat) (st : W16) : State :=
  ((smGet [] s.progs no).flatMap fun p => liveStreams s p.job).foldl (fun s c => endControl s c st) s

/-- What a failed or timed-out request, a write or a read, does to whoever waits for it (R65, R107, R209, R239, R273, R289). (DEDUCED, log entry 46) -/
def requestFailed (s : State) (who : Issuer) (st : W16) (wr : Bool) : State :=
  match who with
  | .shadow b => shadowAnswered s b st
  | .block c => if st = stUncorrectable then blockFailed s c else endControl s c st
  | .kv c => endControl s c st
  | .gram c => match (streamOf s c).gramObj with
      | some o => if st = stUncorrectable then loseObj s o st else endControl s c st
      | none => s
  | .weights no o => if st = stUncorrectable then loseObj s o st else loseStreams s no st
  | .stage => if s.load.state = .loading then failLoad s st s.load.failed else s
  | .shard i => { s with load := { s.load with missing := s.load.missing ++ [i] } }
  | .dma ch => dmaFailed s ch st wr
  | .nobody => s

/-- A request of this issuer is outstanding on a memory port, or as a write of the content port. -/
def memAsks (s : State) (who : Issuer) : Bool := s.memTags.any fun x => match x.2 with
  | .used w _ => decide (w = who)
  | _ => false
def conWrites (s : State) (who : Issuer) : Bool := s.conTags.any fun x => match x.2 with
  | .used w _ => decide (w = who) && decide (256 ≤ x.1)
  | _ => false

/-- A transfer into the content window is acknowledged by the completion of a read of its last 64 bytes, after its last write (R239); none
while a bound stalls it. -/
def flushDma (s : State) (ch : Nat) : State :=
  match smGet [] s.dmaQ ch with
  | [] => s
  | d :: r =>
    if !d.started || d.dstsp ≠ 1 || d.flushed || d.status ≠ 0 || conWrites s (.dma ch) then s
    else match conIssue s (d.dst + d.len - 64) 64 false (.dma ch) with
      | none => s
      | some s => { s with dmaQ := smSet [] s.dmaQ ch ({ d with flushed := true } :: r) }

/-- The last of an issuer's requests answered without an error. -/
def requestDone (s : State) (who : Issuer) (wr : Bool) : State :=
  match who with
  | .shadow b => shadowAnswered s b 0
  | .block c => if wr && !memAsks s who then modStream s c fun x => { x with blockAck := true } else s
  | .gram c => if memAsks s who then s
      else if (streamOf s c).maskDue then forwardTokens s c else modStream s c fun x => { x with gramRead := true }
  | .dma ch => flushDma s ch
  | _ => s

/-- A request on a memory port ended well: the next part of its transfer on that port follows (R364), or it is done. -/
def memNext (s : State) (mp t : Nat) (who : Issuer) (wr : Bool) : State :=
  let run := smGet (0, 0) s.memRest (2048 * mp + t)
  let s := setMemTag s mp t .free
  if run.2 = 0 ∨ who = .nobody then requestDone s who wr else askPort s mp t wr run who

/-- A request on the content port ended well: the next part of its transfer follows (R366), or it is done. -/
def conNext (s : State) (t : Nat) (who : Issuer) (wr : Bool) : State :=
  let run := smGet (0, 0) s.conRest t
  let s := setConTag s t .free
  if run.2 = 0 ∨ who = .nobody then requestDone s who wr else askContent s t run.1 run.2 wr who

/-- A response whose tag is not outstanding: discarded and counted; a quarantined tag is freed (R65, R365). -/
def strayMem (s : State) (mp t : Nat) (last : Bool) : State :=
  let s := telInc s (telEng 7)
  match memTag s mp t with
  | .quarantined _ => if last then setMemTag s mp t .free else s
  | _ => s

/-- MEMORY_READ_RESPONSE: one beat; an error bit is reported to the issuer and counted (R365, R273). -/
def execMemoryReadResponse (mp : Fin 8) (tag : BitVec 11) (last err : Bool) (s : State) : Result :=
  overFord s (32 + mp.val / 4) fun s =>
    let t := tag.toNat
    match memTag s mp t with
    | .used who _ =>
      if 1024 ≤ t then telInc s (telEng 7)
      else
        if err then requestFailed (telInc (if last then setMemTag s mp t .free else s) (telEng 5)) who stUncorrectable false
        else if last then memNext s mp t who false else s
    | _ => strayMem s mp t last

/-- MEMORY_WRITE_RESPONSE: the write is visible everywhere, and its tag is free (R365). -/
def execMemoryWriteResponse (mp : Fin 8) (tag : BitVec 11) (err : Bool) (s : State) : Result :=
  overFord s (32 + mp.val / 4) fun s =>
    let t := tag.toNat
    match memTag s mp t with
    | .used who _ =>
      if t < 1024 then telInc s (telEng 7)
      else
        if err then requestFailed (setMemTag s mp t .free) who stWriteFailed true else memNext s mp t who true
    | _ => strayMem s mp t true

/-- A content-port response whose tag is not outstanding (R65, R383). -/
def strayCon (s : State) (t : Nat) (last : Bool) : State :=
  let s := telInc s (telEng 7)
  match conTag s t with
  | .quarantined _ => if last then setConTag s t .free else s
  | _ => s

/-- CONTENT_COMPLETION: a status other than success is reported to the issuer (R367). -/
def execContentCompletion (tag : BitVec 9) (last : Bool) (status : BitVec 3) (s : State) : Result :=
  overFord s 33 fun s =>
    let t := tag.toNat
    match conTag s t with
    | .used who _ =>
      if 256 ≤ t then telInc s (telEng 7)
      else
        if status ≠ 0 then requestFailed (if last then setConTag s t .free else s) who stContentError false
        else if last then conNext s t who false else s
    | _ => strayCon s t last

/-- CONTENT_WRITE_ACK: the posted write has been issued in order, and its tag is free (R366). -/
def execContentWriteAck (tag : BitVec 9) (s : State) : Result :=
  overFord s 33 fun s =>
    let t := tag.toNat
    match conTag s t with
    | .used who _ => if t < 256 then telInc s (telEng 7) else conNext s t who true
    | _ => strayCon s t true

/-- COMPLETION_TIMEOUT: the issuer receives Timeout, and the tag is quarantined (R63, R65). -/
def execCompletionTimeout (t : ReqTag) (s : State) : Result :=
  runningHw s fun s =>
    match t with
    | .memory mp tag => match memTag s mp tag.toNat with
      | .used who d => if d ≤ s.now then requestFailed (setMemTag s mp tag.toNat (.quarantined s.now)) who stMTimeout (decide (1024 ≤ tag.toNat)) else s
      | _ => s
    | .content tag => match conTag s tag.toNat with
      | .used who d => if d ≤ s.now then requestFailed (setConTag s tag.toNat (.quarantined s.now)) who stMTimeout (decide (256 ≤ tag.toNat)) else s
      | _ => s
    | .link tag => expireTag s tag.toNat

/-! ## DMA and moves (R239, R271 to R275) -/

/-- The signal of a finished transfer (R230, R236, R239): its status, for the transfer's own. -/
def dmaSignal (s : State) (ch : Nat) (d : Dma) : State × W16 :=
  if !d.sigen then (s, 0)
  else if !ownsWeir s (BitVec.ofNat 6 d.tenant) d.weir then (s, stNotOwner)
  else if d.count = 0 then (s, 0)
  else if overflows s d.weir d.count then (s, stWeirOverflow)
  else (raiseWeir s d.weir d.count
    { kind := 3, eng := s.cfg.memberid, agent := BitVec.ofNat 16 ch, sigseq := 0 }, 0)

/-- The home switches to the destination, where the bytes are, the state returns to Home, and the source waits to be freed; into the slow tier
the CRC-64 of the object goes with it (R271, R272).  A move of a load has come to its end. -/
def switchHome (s : State) (id : Nat) (data : List Byte) : State :=
  let o := objOf s id
  match o.move with
  | none => s
  | some m =>
    let s := { s with load := { s.load with arrived := if s.load.moving.contains id then s.load.arrived ++ [id] else s.load.arrived } }
    markResident (setObj (fillRill s m.dest o.size data) id
      { o with state := .home, home := m.dest, move := none, oldHomes := o.oldHomes ++ [o.home],
               crc := if m.dest.tier = .slow then some (crc64 data) else none }) m.dest

/-- A move that did not copy the content: the object stays Home where it was. -/
def moveBack (s : State) (id : Nat) : State := setObj s id { objOf s id with state := .home, move := none }

/-- A transfer from this space to that one can end so: a content-port status needs the content window on one side, a read error of a
memory port needs a source there, and an error of a Rill's SRAM a source in its words (R168, R367). (DEDUCED, log entry 85) -/
def dmaPossible (d : Dma) (r : DmaRes) : Bool :=
  match r with
  | .contentFailed => decide (d.srcsp = 1) || decide (d.dstsp = 1)
  | .readFailed => decide (d.srcsp ≠ 1) && decide (d.srcsp ≠ 3)
  | .sramFailed b w => decide (d.srcsp = 3) && decide (b < 16) && decide (d.src / 8 ≤ w) && decide (8 * w < d.src + d.len)
  | _ => true

/-- How a transfer ended: as the status of its own requests says, else as the command says. -/
def dmaResult (d : Dma) (r : DmaRes) : DmaRes :=
  if d.status = stUncorrectable then .readFailed
  else if d.status = stWriteFailed then .writeFailed
  else if d.status = stContentError then .contentFailed
  else r

/-- The content copied out of the slow tier is not what went in (R272). -/
def crcDiffers (o : Obj) (data : List Byte) : Bool := o.crc.any fun c => decide (crc64 data ≠ c)

/-- The log record of a transfer's failed write (R239, R382). (DEDUCED, log entry 46) -/
def noteWrite (s : State) (id : Nat) (d : Dma) (st : W16) : State :=
  noteMemory s st 0xFFFFFFFF id (if d.dstsp = 0 then memPortOf d.dst else 0) d.dst d.dtag.toNat

/-- The end of a transfer for the object it moves: its status.  Every failed write is logged (R239). (DEDUCED, log entry 46) -/
def dmaObject (s : State) (id : Nat) (d : Dma) (r : DmaRes) : State × W16 :=
  let s := if d.srcsp = 3 then sramRead s d.srill d.src d.len else s
  if (objOf s id).state ≠ .moving then (s, stMoveForbidden)
  else if d.status = stOutOfRange ∨ d.status = stMTimeout then
    (if d.badWrite then noteWrite (moveBack s id) id d d.status else moveBack s id, d.status)
  else match dmaResult d r with
    | .good data => if crcDiffers (objOf s id) data then (loseObj s id stUncorrectable, stUncorrectable) else (switchHome s id data, 0)
    | .writeFailed => (noteWrite (moveBack s id) id d stWriteFailed, stWriteFailed)
    | .contentFailed =>
      (if d.badWrite || d.dstsp = 1 then noteWrite (moveBack s id) id d stContentError else moveBack s id, stContentError)
    | .sramFailed b w => (rillDouble s d.srill b w, stUncorrectable)
    | .readFailed => (loseObj (if d.srcsp = 0 ∧ d.status = 0 then telInc s (telEng 5) else s) id stUncorrectable, stUncorrectable)

/-- Requests of a channel's transfer are outstanding. -/
def dmaAsked (s : State) (ch : Nat) : Bool :=
  let mine (t : TagState) : Bool := match t with
    | .used (.dma c) _ => decide (c = ch)
    | _ => false
  (s.memTags.any fun x => mine x.2) || s.conTags.any fun x => mine x.2

/-- The flushing read of a transfer has still to be issued (R239). -/
def mustFlush (d : Dma) : Bool := decide (d.dstsp = 1) && !d.flushed && decide (d.status = 0)

/-- What the descriptors of a move have copied, this one's bytes last. -/
def copiedWith (d : Dma) : DmaRes → DmaRes
  | .good data => .good (d.copied ++ data)
  | r => r

/-- The next descriptor of a move beyond the largest LEN, once this one has ended well (R275). -/
def nextPiece (d : Dma) : DmaRes → Option Dma
  | .good data => if d.more = 0 ∨ d.status ≠ 0 then none else
    some { d with src := d.src + d.len, dst := d.dst + d.len, len := min dmaMax d.more, more := d.more - dmaMax, copied := d.copied ++ data,
                  started := false, flushed := false }
  | _ => none

/-- The transfer at the head of a channel ends: its object, its signal, its completion with DTAG, and the mailbox command that waits for
it; then the next transfer starts (R239, R271, R272, R275). -/
def endDma (s : State) (ch : Nat) (d : Dma) (rest : List Dma) (r : DmaRes) : State :=
  let s := { s with dmaQ := smSet [] s.dmaQ ch rest }
  let (s, st) := match d.obj with
    | some id => dmaObject s id d (copiedWith d r)
    | none => (s, d.status)
  let (s, sig) := if st = 0 then dmaSignal s ch d else (s, 0)
  let fin : W16 := if st = 0 then sig else st
  let s := { s with dmaDone := smSet (0, 0) s.dmaDone ch (d.dtag, fin) }
  let s := match d.obj with
    | some id => if d.fromHost then mbxFinish s (.move id) fin [] else s
    | none => s
  endEnding (drainAll (startDma (refillDma s) ch))

/-- DMA_TRANSFER_COMPLETE: the transfer at the head of a channel ends, once its requests are answered; one that a bound has stalled, or its
flushing read, starts, and a further descriptor of its move follows it (R75, R239, R271, R272, R275). (DESIGN CHOICE, log entry 79; DEDUCED, log entry 85) -/
def execDmaTransferComplete (ch : Fin 16) (r : DmaRes) (s : State) : Result :=
  runningOn s (32 + ch.val / 8) fun s =>
    match smGet [] s.dmaQ ch with
    | [] => s
    | d :: rest =>
      if !d.started then startDma s ch
      else if dmaAsked s ch || !dmaPossible d r then s
      else if mustFlush d then flushDma s ch
      else match nextPiece d r with
        | some e => startDma { s with dmaQ := smSet [] s.dmaQ ch (e :: rest) } ch
        | none => endDma s ch d rest r

/-- MOVE_SOURCE_FREE: every read of the object that started before its first switch has finished, and that source is freed (R271). -/
def execMoveSourceFree (obj : Nat) (s : State) : Result :=
  runningHw s fun s => drainAll (freeOrphans (setObj s obj { objOf s obj with oldHomes := (objOf s obj).oldHomes.drop 1 }))

/-! ## Reloads (R164, R168, R273) -/

/-- A Rill that R168 kept out of the mask returns to it once no lost object of it waits for its reload. -/
def restoreMask (s : State) (n : Nat) : State :=
  let waits := s.objs.any fun x => decide (x.2.state = .lost) && homeInRill n x.2.home
  if waits || decide ((plotOf s n).st = .gated) || s.draining.contains n then s else { s with mask := insNat n s.mask }

/-- Where a reload places an object: the home its manifest names, in the slow tier the lowest region with room; for a Rill that is Gated,
where choose_home puts it. (DEDUCED, log entry 43) -/
def reloadHome (s : State) (id : Nat) : Option Home :=
  let p := (objOf s id).pref
  if p.tier = .slow then some (slowHome s (objOf s id).size)
  else if p.tier = .near ∧ ¬ p.pool ∧ (plotOf s p.rill).st = .gated then chooseHome s id p.rill else some p

/-- Places a lost object again, its bytes reread; without room it stays Lost.  The place that it had is free for it, and sources of its earlier
moves are freed as R271 says. -/
def reloadObj (s : State) (id : Nat) (data : List Byte) : State :=
  let o := objOf s id
  let free := setObj s id { o with state := .free }
  match reloadHome free id with
  | none => s
  | some h =>
    let at0 : Option W64 := if h.tier = .fen then some o.home.loc else placeIn free h o.size
    match at0 with
    | none => s
    | some a =>
      let s := markResident (setObj (fillRill s { h with loc := a } o.size data) id { o with
        state := .home, home := { h with loc := a },
        crc := if h.tier = .slow then some (crc64 data) else none }) h
      if o.home.tier = .near ∧ ¬ o.home.pool then restoreMask s o.home.rill else s

/-- The data shards that hold an object (R273). -/
def shardsHolding (h : BaleHdr) (o : Obj) : List Nat :=
  (List.range h.k).filter fun i => decide (i * h.shard < o.off + o.size) && decide (o.off < (i + 1) * h.shard)

/-- Rereads an object from its Bale's image: its bytes, or the shards that fail (R273, R280, R283).  The parity shards, and the other data
shards, are read when a shard of the object fails; `unread` are those whose content reads fail. (DEDUCED, log entry 50) -/
def reread (s : State) (o : Obj) (m : BaleImage) (unread : List Nat) : Except (List Nat) (List Byte) :=
  match usedHdr s m with
  | none => .error []
  | some hb =>
    let h := baleHdr hb
    let t : State := { s with load := { present := 2 ^ 66 - 1, asked := List.range 66, missing := unread } }
    let cut (l : List (List Byte)) : List Byte := slice l.flatten o.off o.size
    if (h.id, h.seq) ≠ o.bale then .error []
    else if !(shardsHolding h o).any (shardBad t hb m) then .ok (cut ((List.range h.k).map (shardOf m)))
    else match repair t hb m with
      | .good data _ => .ok (cut data)
      | .lost f => .error f
      | .need _ => .error []

/-- The object that was reread still keeps the rules of its kind (R281).  Its bytes match the digests of the signed header, under which it was
checked when it was loaded, so a grammar is not held against a vocabulary again. (DEDUCED, log entry 50) -/
def objStands (o : Obj) (m : BaleImage) (data : List Byte) : Bool :=
  match o.content with
  | .vocab v => decide (parseVocab data = some v)
  | .classifier _ d => classGood d && m.classes.contains d
  | .seed _ => seedForm data
  | .setRec _ => (parseRec data).isSome
  | .fenSet kt _ l => fenSetGood kt o.owner l
  | _ => true

/-- A Lost object that could not be reread is logged with its Bale and the failed shards (R273, R382). -/
def noteUnread (s : State) (o : Obj) (f : List Nat) : State :=
  note s stShardsLost skBale 0 ([o.bale.1.toNat % 2 ^ 32, o.bale.1.toNat / 2 ^ 32, o.bale.2.toNat] ++ shardWords f)

/-- OBJECT_RELOAD (R273): verified and placed again, or still Lost and logged with its Bale and the failed shards. -/
def execObjectReload (obj : Nat) (img : BaleImage) (unread : List Nat) (s : State) : Result :=
  runningHw s fun s =>
    let o := objOf s obj
    if o.state ≠ .lost then s
    else match reread s o img unread with
      | .ok data => if objStands o img data then reloadObj s obj data else noteUnread s o []
      | .error f => noteUnread s o f

/-! ## Placement commands (R269, R378) -/

/-- Open streams that use an object; a stream's own objects have their stream. -/
def usersShown (s : State) (id : Nat) : Nat :=
  if id < 65536 then b2n (decide ((objOf s id).state ≠ .free) && (streamOf s (id / 2)).inUse) else usersOf s id

/-- OBJ_QUERY: the object record (R270). -/
def execObjQuery (a : MbxArgs) (s : State) : Result :=
  runningHw s fun s => mbxStart s 0x01 a fun s =>
    let id := fld (par s 0) 0 17
    mbxComplete s 0 (words32 6 (objRecord id (objOf s id) (setsOf s id) (usersShown s id)))

/-- The destination that OBJ_MOVE names; none when any Rill is asked for and no Rill has room. -/
def moveDest (s : State) (id : Nat) : Option Home :=
  let t := fld (par s 1) 0 2
  let r := fld (par s 1) 8 8
  let n := (objOf s id).size
  if t = 0 then some { tier := .far }
  else if t = 1 then some { tier := .near, pool := true }
  else if t = 3 then some (slowHome s n)
  else if r < 128 then some { tier := .near, rill := r }
  else (anyRill s n).map fun r => { tier := .near, rill := r }

/-- OBJ_MOVE: the move starts or is refused; the command completes when the move ends (R271). -/
def execObjMove (a : MbxArgs) (s : State) : Result :=
  runningHw s fun s => mbxStart s 0x02 a fun s =>
    let id := fld (par s 0) 0 17
    let p := par s 2
    let sig := if bitAt p 14 then some (fld p 16 6, fld p 0 14, par s 3) else none
    match moveDest s id with
    | none => mbxComplete s (if (objOf s id).state = .free then stOutOfRange else stNoSpace) []
    | some h =>
      let (s', st) := startMove s id h true false sig
      if st = 0 then mbxWait s' (.move id) else mbxComplete s st []

/-- SLOW_GRANT (R269): the 17th region is refused with Busy, a range outside the window or over another region by its own status. (DEDUCED, log entry 54) -/
def execSlowGrant (a : MbxArgs) (s : State) : Result :=
  runningHw s fun s => mbxStart s 0x03 a fun s =>
    let base := (par64 s 0).toNat
    let len := (par64 s 2).toNat
    match firstNat 16 fun r => decide ((smGet (0, 0) s.slow r).2 = 0) with
    | none => mbxComplete s stMBusy [0]
    | some r =>
      if windowSize < base + len then mbxComplete s stOutOfRange [0]
      else if inSlow s base len then mbxComplete s stRegionConflict [0]
      else mbxComplete { s with slow := smSet (0, 0) s.slow r (base, len + 1) } 0 [BitVec.ofNat 32 r]

/-- An object is homed in a slow region, moves to it, or still has a source in it. -/
def regionUsed (s : State) (r : Nat) : Bool :=
  s.objs.any fun x => (homesOf x.2).any fun h => decide (h.tier = .slow) && decide (h.rill = r)

/-- SLOW_RELEASE (R269): refused while an object is homed in the region. (DEDUCED, log entry 54) -/
def execSlowRelease (a : MbxArgs) (s : State) : Result :=
  runningHw s fun s => mbxStart s 0x04 a fun s =>
    let r := fld (par s 0) 0 4
    if (smGet (0, 0) s.slow r).2 = 0 then mbxComplete s stOutOfRange []
    else if regionUsed s r then mbxComplete s stRegionConflict []
    else mbxComplete { s with slow := smSet (0, 0) s.slow r (0, 0) } 0 []

end Sys2Proof.Machine
end

