-- ==== Sys2Proof/Machine/Power.lean ====
section
/-! DEFINITION. The power family: current-limit stretch (R294), the throttling ladder (R295 to R298), the power estimate (R293,
R371), trips (R297), the grant (R371), sag (R313 to R315), Brook locks (R21), supply faults (R40), Rills down and up (R32 to
R37), and restarts of the Hayward (R292, R311). -/

namespace Sys2Proof.Machine

/-! ## Current limit (R294) -/

/-- A Plot's current: its estimate, or the Plot's largest value when the estimator is faulty (R298). -/
def plotCurrent (s : State) (p : Nat) : Nat := if s.hay.badCurr.contains p then 16000 else smGet 0 s.hay.mA p

/-- A Rill Plot's estimate, with the time since when it is below 0.32 A. -/
def noteCurrent (s : State) (n mA : Nat) : State :=
  let x := plotOf s n
  let s := { s with hay := { s.hay with mA := smSet 0 s.hay.mA n mA } }
  setPlot s n { x with below := if 320 ≤ plotCurrent s n then 0 else if x.below = 0 then s.now + 1 else x.below }

/-- HEATH_CURRENT_STRETCH: above 0.36 A the Heath stretches the Rill (R29, R294), and the Rills of a program that runs keep to one
setting (R39). -/
def execHeathCurrentStretch (n : Fin 128) (mA : Nat) (s : State) : Result :=
  runningHw s fun s =>
    let s := noteCurrent s n mA
    let x := plotOf s n
    if 360 < plotCurrent s n ∧ x.st ≠ .gated then evenProgs <| setPlot s n { x with stretch := true, st := runState x.div true } else s

/-- STRETCH_RELEASE: the estimate has been below 0.32 A for 10 µs (R294); the Rills of a program that runs keep to one setting (R39). -/
def execStretchRelease (n : Fin 128) (s : State) : Result :=
  runningHw s fun s =>
    let x := plotOf s n
    if x.stretch ∧ x.st ≠ .gated ∧ x.below ≠ 0 ∧ x.below - 1 + 10000 ≤ s.now then
      evenProgs <| setPlot s n { x with stretch := false, follows := false, st := runState x.div false }
    else s

/-! ## The ladder (R295, R296, R298) -/

/-- A reading outside −40 to 150 °C (R293, R298). -/
def outOfRange (t : Int) : Bool := decide (t < -160) || decide (600 < t)

/-- A site is judged faulty once, and logged (R298). -/
def markFaulty (s : State) (p : Nat) : State :=
  if s.hay.faulty.contains p then s
  else note { s with hay := { s.hay with faulty := s.hay.faulty ++ [p] } } evSensor skPlot p [p]

/-- An estimator is judged faulty once, and logged; from then on its Plot counts as drawing its largest value (R298). -/
def markBadCurr (s : State) (p : Nat) : State :=
  if s.hay.badCurr.contains p then s
  else
    let s := note { s with hay := { s.hay with badCurr := s.hay.badCurr ++ [p] } } evSensor skPlot p [p]
    setPlot s p { plotOf s p with below := 0 }

/-- Since when a site's reading has stood, and its Plot's current then, or 0 once that has changed (R298). -/
def steadyNext (s : State) (p : Nat) (t : Int) : Nat × Nat :=
  let (since, cur) := smGet (0, 0) s.hay.steady p
  if since = 0 ∨ smGet (-160) s.hay.temps p ≠ t then (s.now + 1, smGet 0 s.hay.mA p + 1)
  else (since, if cur = smGet 0 s.hay.mA p + 1 then cur else 0)

/-- A site's reading has not changed over 100 ms while its Plot's current has (R298). (DEDUCED, log entry 43) -/
def stuckSite (now : Nat) (x : Nat × Nat) : Bool := decide (x.1 ≠ 0) && decide (x.2 = 0) && decide (x.1 - 1 + 100000000 ≤ now)

/-- Since when a site has been at or above 110 °C, + 1 (R297). -/
def hotNext (s : State) (p : Nat) (t : Int) : Nat :=
  if t < 440 then 0 else if smGet 0 s.hay.hotAt p = 0 then s.now + 1 else smGet 0 s.hay.hotAt p

/-- One site's reading is taken; its comparator follows it without firmware, and the firmware judges it (R297, R298). -/
def takeReading (s : State) (x : Nat × Int) : State :=
  let st := steadyNext s x.1 x.2
  let s := { s with hay := { s.hay with temps := smSet (-160) s.hay.temps x.1 x.2, steady := smSet (0, 0) s.hay.steady x.1 st,
                                        hotAt := smSet 0 s.hay.hotAt x.1 (hotNext s x.1 x.2) } }
  if s.hay.firmRun && (outOfRange x.2 || stuckSite s.now st) then markFaulty s x.1 else s

/-- Every site reads below 100 °C (R297); the 96 °C of a faulty site are for R296 alone (R298). -/
def allCool (s : State) : Bool := s.hay.temps.all fun x => decide (x.2 < 400)

/-- The sensor part of an evaluation: readings taken, faulty sensors marked while the core runs, since when each site has been at or above
110 °C and every site below 100 °C (R297, R298), and the count of corrected errors of the Hayward's SRAM (R168, R291). (DESIGN CHOICE, log
entry 79) -/
def takeReadings (s : State) (o : ThermalObs) : State :=
  let s := o.temps.foldl takeReading (telAdd s (telEng 3) o.fixed)
  let s := if s.hay.firmRun then o.badCurr.foldl markBadCurr s else s
  { s with hay := { s.hay with
      coolAt := if allCool s then (if s.hay.coolAt = 0 then s.now + 1 else s.hay.coolAt) else 0 } }

/-- The reading of a site as the ladder takes it: 96 °C for a faulty one (R298). -/
def siteTemp (s : State) (p : Nat) : Int := if s.hay.faulty.contains p then 384 else smGet (-160) s.hay.temps p

/-- The hottest site among the Plots of a Heath (R296). -/
def heathHot (s : State) (h : Nat) : Int :=
  ((List.range 160).filter fun p => heathOf p = h).foldl (fun m p => max m (siteTemp s p)) (-160)

/-- A step value that rises with `hot` on a 100 µs boundary and falls with `cold` on a 10 ms boundary (R296). -/
def moveStep (x : Nat) (hot cold up down : Bool) : Nat := if hot && up then min 7 (x + 1) else if cold && down then x - 1 else x

/-- The engine power step (R296). -/
def powerStepNext (s : State) (up down : Bool) : Nat :=
  let cap := 1000000 * effectiveCap s
  moveStep s.hay.powerStep (decide (cap < s.hay.power)) (decide (s.hay.power + 3000000 < cap)) up down

/-- The step of a Heath moves by at most one toward its value; a force holds it at 6 or above (R296, R297). -/
def stepToward (step goal : Nat) (down : Bool) : Nat :=
  if step < goal then step + 1 else if goal < step ∧ down then step - 1 else step

/-- One Heath's evaluation, logged when its step changes. (DEDUCED, log entry 43) -/
def heathTick (up down : Bool) (s : State) (h : Nat) : State :=
  let x := heathAt s h
  let t := moveStep x.thermal (decide (380 < heathHot s h)) (decide (heathHot s h < 368)) up down
  let goal := max (max t s.hay.powerStep) (if forced s then 6 else 0)
  let n := stepToward x.step goal down
  let s := setHeath s h { thermal := t, step := n }
  if n = x.step then s else note s evStep skHeath h [h, x.step, n]

/-- The Rills that step 7 may gate: idle, without the residency flag, and in service (R295). -/
def gateable (s : State) (h : Nat) : List Nat :=
  (List.range 128).filter fun n => decide (heathOf n = h) && s.mask.contains n && !s.draining.contains n &&
    decide ((plotOf s n).st ≠ .gated) && !(plotOf s n).resid && (longIdle s n || (rillRole s n).isNone)

/-- Step 7 of a Heath: idle Rills are powered down while every set keeps its minimum (R36, R295); a step that has just reached 7
and gates none is logged (R324). -/
def stepSeven (before : List Nat) (s : State) (h : Nat) : State :=
  if (heathAt s h).step ≠ 7 then s
  else
    let s' := (gateable s h).foldl (fun s n => if spareRill s then startDrain s n else s) s
    if before.contains h ∨ s'.mask ≠ s.mask then s' else note s' evStep skHeath h [h, 7, 7]

/-- THROTTLE_STEP_TICK (R295, R296, R298): the sensors are read in any case, the ladder is the firmware's (R292, R297). (DESIGN CHOICE, log entries 6, 79) -/
def execThrottleStepTick (obs : ThermalObs) (s : State) : Result :=
  runningHw s fun s =>
    let s := takeReadings s obs
    if !s.hay.firmRun || s.boot.fenced || decide (s.boot.phase ≠ .running) then s
    else
      let before := (List.range 8).filter fun h => (heathAt s h).step = 7
      let s := { s with hay := { s.hay with powerStep := powerStepNext s obs.up obs.down } }
      let s := (List.range 8).foldl (heathTick obs.up obs.down) s
      (List.range 8).foldl (stepSeven before) (applyLadder s)

/-! ## Power estimate and grant (R293, R371) -/

/-- The engine power estimate in µW (R293). -/
def estimate (s : State) (sramMA sramMV : Nat) : Nat :=
  ((List.range 160).map fun p => plotCurrent s p * smGet 0 s.hay.rails (heathOf p)).sum + sramMA * sramMV

/-- pg_ack follows the estimate: at or below the effective cap for 100 µs (R371). -/
def ackPower (s : State) : State :=
  if s.hay.power ≤ 1000000 * effectiveCap s then
    let t := if s.hay.capOkAt = 0 then s.now + 1 else s.hay.capOkAt
    { s with hay := { s.hay with capOkAt := t, ack := decide (t - 1 + 100000 ≤ s.now) } }
  else { s with hay := { s.hay with capOkAt := 0, ack := false } }

/-- The rails that R313 monitors, with their levels of 92 % and 95 % in mV: the core rail of each Heath's region, and the flash rail. -/
def monitored : List (Nat × Nat × Nat) := (List.range 8).map (fun h => (h, 644, 665)) ++ [(8, 1656, 1710)]

/-- The monitors' readings: since when each rail has been below 92 %, and since when all have been at or above 95 % (R313).  A rail that
has not been read yet reads 0 and counts for neither. (DEDUCED, log entry 43) -/
def watchRails (s : State) : State :=
  let mv (r : Nat) : Nat := smGet 0 s.hay.rails r
  let low := monitored.foldl (fun m x => smSet 0 m x.1
    (if 0 < mv x.1 ∧ mv x.1 < x.2.1 then (if smGet 0 m x.1 = 0 then s.now + 1 else smGet 0 m x.1) else 0)) s.hay.lowAt
  let ok := monitored.all fun x => decide (mv x.1 = 0) || decide (x.2.2 ≤ mv x.1)
  { s with hay := { s.hay with lowAt := low, okAt := if ok then (if s.hay.okAt = 0 then s.now + 1 else s.hay.okAt) else 0 } }

/-- The readings of R293 are taken. -/
def takePower (s : State) (obs : PowerObs) : State :=
    let s := obs.plotMA.foldl (fun s x => if x.1 < 128 then noteCurrent s x.1 x.2
      else { s with hay := { s.hay with mA := smSet 0 s.hay.mA x.1 x.2 } }) s
    let rails := smSet 0 (smSet 0 (obs.railMV.foldl (fun m x => smSet 0 m x.1 x.2) s.hay.rails) 8 obs.flashMV) 9 obs.sramMV
    watchRails { s with hay := { s.hay with rails := rails } }

/-- POWER_ESTIMATE (R293): the sensors are read in any case, since the rail comparators never stop (R313); the estimate is the firmware's
(R292). -/
def execPowerEstimate (obs : PowerObs) (s : State) : Result :=
  runningHw s fun s =>
    let s := takePower s obs
    if s.hay.firmRun then ackPower { s with hay := { s.hay with power := estimate s obs.sramMA obs.sramMV } } else s

/-- The record of a trip: made when the core runs again, if it restarts (R297, R324). -/
def logTrip (s : State) (site : Nat) : State :=
  if s.hay.firmRun then note s evTrip skPlot site [site] else { s with hay := { s.hay with tripLog := s.hay.tripLog ++ [site] } }

/-- The site has stayed at or above 110 °C for 100 µs (R297). -/
def hotLong (s : State) (p : Nat) : Bool :=
  decide (smGet 0 s.hay.hotAt p ≠ 0) && decide (smGet 0 s.hay.hotAt p - 1 + 100000 ≤ s.now)

/-- THERMAL_TRIP, of a site that has stayed at or above 110 °C for 100 µs (R297). (DESIGN CHOICE, log entry 6) -/
def execThermalTrip (site : Fin 160) (s : State) : Result :=
  runningHw s fun s =>
    if hotLong s site then
      logTrip (raise (forceSix { s with hay := { s.hay with tripped := true, coolAt := 0 } }) intTrip) site
    else s

/-- Every site has been below 100 °C for 10 ms (R297). (DESIGN CHOICE, log entry 6) -/
def coolLong (s : State) : Bool := decide (s.hay.coolAt ≠ 0) && decide (s.hay.coolAt - 1 + 10000000 ≤ s.now)

/-- TRIP_CLEAR: every site has been below 100 °C for 10 ms (R297). -/
def execTripClear (s : State) : Result :=
  runningHw s fun s =>
    if s.hay.tripped ∧ coolLong s then { s with hay := { s.hay with tripped := false } } else s

/-- POWER_GRANT_CHANGE (R371): the pin is followed in every phase; its effects need a running clock. (DEDUCED, log entry 5) -/
def execPowerGrantChange (w : BitVec 7) (s : State) : Result :=
  let old := s.hay.grant
  let s' := { s with hay := { s.hay with grant := w } }
  .next (if s.boot.phase = .held ∨ old = w then s'
    else
      let s' := note s' evGrant skHayward 0 [0, old.toNat, w.toNat]
      let s' := if grantLow s' ∧ 30 ≤ old.toNat then telInc s' (telEng 10) else s'
      ackPower (if grantLow s' then forceSix s' else runPowerUps s'))

/-! ## Sag (R313 to R315) -/

/-- An erase that runs is suspended (R315). -/
def suspendErase (s : State) : State :=
  match s.flashCmd with
  | some (.eraseBank a) => { s with flashCmd := none, flashSusp := some (.eraseBank a) }
  | some (.eraseLog h) => { s with flashCmd := none, flashSusp := some (.eraseLog h) }
  | _ => s

/-- A monitored rail has been below 92 % for 1 µs (R313). -/
def railLow (s : State) : Bool := s.hay.lowAt.any fun x => decide (x.2 ≠ 0) && decide (x.2 - 1 + 1000 ≤ s.now)

/-- Every monitored rail has been at or above 95 % for a continuous 10 ms (R313). -/
def railsWell (s : State) : Bool := decide (s.hay.okAt ≠ 0) && decide (s.hay.okAt - 1 + 10000000 ≤ s.now)

/-- SAG_ENTRY (R313 to R315), once a monitored rail has been below 92 % for 1 µs: a commit that has not switched yet waits (R288). -/
def execSagEntry (s : State) : Result :=
  runningHw s fun s =>
    if s.hay.sag || !railLow s then s
    else
      suspendErase { s with hay := { s.hay with sag := true, sagAt := s.now },
                            load := { s.load with deferred := s.load.commit } }

/-- SAG_EXIT (R313, R314), once every monitored rail has been at or above 95 % for 10 ms: entry and exit are logged now, and what waited goes on. (DEDUCED, log entry 43) -/
def execSagExit (s : State) : Result :=
  runningHw s fun s =>
    if !s.hay.sag || !railsWell s then s
    else
      let s := note (note { s with hay := { s.hay with sag := false } } evSagEntry skHayward 0 []) evSagExit skHayward 0 []
      flashNext (askPiece (beginWaiting (runPowerUps s)))

/-! ## Brooks (R21) -/

/-- BROOK_LOCK_LOST: nothing of the Brook moves until lock returns; the loss is logged (R21, R28). (DEDUCED, log entry 47) -/
def execBrookLockLost (b : Fin 36) (s : State) : Result :=
  alive s fun s =>
    if lockedOn s b then note { s with locks := s.locks.filter (· ≠ b.val) } evLockLost skHayward b [b, 1, 0] else s

/-- The Brook's Plot is powered, so that its generator may lock (R28, R35). -/
def brookPowered (s : State) (b : Nat) : Bool := decide (16 ≤ b) || decide ((plotOf s (128 + b)).st ≠ .gated)

/-- The Hayward can enable a Brook again: its own runs, or it is its own that comes back.  Once every lock is lost, ref_clk has stopped, and
nothing comes back before a reset (R369). (DEDUCED, log entry 47) -/
def mayEnable (s : State) (b : Nat) : Bool := !s.locks.isEmpty && (decide (b = 35) || lockedOn s 35)

/-- The Fords of the Hub's inputs leave reset: their lanes fill, and class-0 operations move up (R23, R24, R28). -/
def openFords (s : State) : State :=
  settleC0 ((List.range 16).foldl fillFb ((List.range 64).foldl fillPort s))

/-- What had stood still goes on: the lanes into the Hub, credits and queues of link and fabric ports, the searches held for a pipeline,
Rill power-ups that waited for the lock, and queued programs (R21, R28, R37, R155). -/
def resumeTraffic (s : State) : State :=
  let s := (List.range 64).foldl (fun s p => if (portOf s p).state = .up && linkClock s p then settle s p else s) (openFords s)
  startQueued (runPowerUps (issueAll ((List.range 16).foldl fbDrain s)))

/-- BROOK_LOCK_REGAINED: lock is back and the Hayward has enabled the Brook again (R21). (DEDUCED, log entry 47) -/
def execBrookLockRegained (b : Fin 36) (s : State) : Result :=
  alive s fun s =>
    if brookPowered s b && mayEnable s b && !lockedOn s b then resumeTraffic { s with locks := insNat b s.locks } else s

/-! ## Supply faults (R40) -/

/-- A program on a Rill whose power fails: its streams end, and it is gone. -/
def loseProgs (s : State) (n : Nat) : State :=
  let dead := (progList s).filter fun p => p.rills.contains n
  let s := { s with progs := s.progs.filter fun x => !(x.2.any fun p => p.rills.contains n) }
  dead.foldl (fun s p => ((jobStreams p.job).filter fun y => (streamOf s y.1).inUse).foldl
    (fun s y => endControl s y.1 stRillFault) s) s

/-- A move toward a Rill that has failed is given up: the object stays at its home (R265). (DEDUCED, log entry 43) -/
def dropMoves (s : State) (n : Nat) : State :=
  { s with objs := s.objs.map fun x => match x.2.move with
      | some m => if homeInRill n m.dest then (x.1, { x.2 with state := .home, move := none }) else x
      | none => x }

/-- A Rill Plot loses its power (R40): the Rill leaves the mask, its objects are lost, streams with work on it end, its counters
are lost (R206), and the Plot stays Gated until a reset. (DEDUCED, log entry 43) -/
def rillFault (s : State) (n : Nat) : State :=
  let s := replace s n
  let s := { s with mask := s.mask.filter (· ≠ n), draining := s.draining.filter (· ≠ n), sram := smDel n s.sram,
                    flips := s.flips.filter fun x => x.1 ≠ n }
  let s := dropMoves (loseProgs s n) n
  let s := ((rillObjs s n).map (·.1)).foldl (fun s o => loseObj s o stRillFault) (loseCounters s n)
  let s := gatePlot s n
  setPlot s n { plotOf s n with faulted := true }

/-- PLOT_SUPPLY_FAULT (R36, R40): a common Plot takes its Rills with it; Plots 144 to 159 hold the engine in reset. (DEDUCED, log entry 43) -/
def execPlotSupplyFault (pl : Fin 160) (s : State) : Result :=
  runningHw s fun s =>
    if 144 ≤ pl.val then
      let s := logRec s evSupply true skPlot pl [pl]
      { s with boot := { s.boot with phase := .held, supplyHeld := true } }
    else
      let s := note s evSupply skPlot pl [pl]
      if pl.val < 128 then enforceMinRills (rillFault s pl)
      else
        let s := (brookRills (pl - 128)).foldl rillFault s
        let s := gatePlot { s with locks := s.locks.filter (· ≠ pl.val - 128) } pl
        enforceMinRills (setPlot s pl { plotOf s pl with faulted := true })

/-! ## Rills down and up (R32 to R37) -/

/-- RILL_POWER_DOWN: starts the procedure for a Rill Plot, or carries it on (R32 to R36); a common Plot is gated once R35 allows it, and
a gate command for one of Plots 144 to 159 is refused (R32).  While the core restarts no command is given (R292). -/
def execRillPowerDown (n : Fin 160) (s : State) : Result :=
  firmware s fun s =>
    if 144 ≤ n.val then gateCommand s n
    else if 128 ≤ n.val then (if (plotOf s n).st = .gated then s else gateCommon s (n - 128))
    else if s.draining.contains n.val then drainStep s n
    else if (plotOf s n).st ≠ .gated ∧ spareRill s then startDrain s n
    else s

/-- RILL_POWER_UP (R37, R40, R371); no Rill is powered in fenced boot or in Retired (R311, R348). -/
def execRillPowerUp (n : Fin 128) (s : State) : Result :=
  firmware s fun s => if s.boot.fenced ∨ s.fuses.lc = 4 then s else powerUpOrWait s n

/-! ## Restarts of the Hayward (R292, R311, R383) -/

/-- Fenced boot entered after restarts (R311): open streams end, both set tables empty, nothing is moved, every Rill Plot and
compute common Plot is Gated. -/
def enterFenced (s : State) : State :=
  let s := if loadHeld s then failLoad s stCommandAborted [] else s
  let s := endWhere { s with boot := { s.boot with fenced := true, fwVer := 0, mcVer := 0, baleFmts := [] } } (fun _ => true)
    stCannotScreen
  let s := { s with tabA := {}, tabB := {}, setAct := false, jobs := [], progs := [], disp := [], ests := [],
                    hay := { s.hay with powerUps := [] } }
  gateCompute (settleResid { s with objs := s.objs.filter fun x => decide (x.1 < 65538) })

/-- The bank operation that the mailbox waits for loses it: its completion reports to nobody (R158, R383). -/
def orphanOp (s : State) : State :=
  match s.mbx.running with
  | some (.fenOp b) => { s with opOrphans := smSet 0 s.opOrphans b (smGet 0 s.opOrphans b + 1) }
  | _ => s

/-- The Hayward core restarts (R292): the mailbox is not ready and a command that runs is aborted (R383), a load that runs fails, a bank
write is abandoned (R324), and the third restart within 10 s enters fenced boot. (DEDUCED, log entry 44) -/
def restart (s : State) : State :=
  let times := (s.hay.restarts.filter fun t => decide (s.now ≤ t + 10000000000)) ++ [s.now]
  let third := decide (3 ≤ times.length) && !s.boot.fenced
  let s := orphanOp s
  let s := { s with hay := { s.hay with restarts := times, dogAt := s.now, firmRun := false },
                    boot := { s.boot with hwrdy := false },
                    mbx := { s.mbx with running := none } }
  let s := if s.load.state = .loading then failLoad s stCommandAborted [] else s
  let s := if s.bankWr.isSome then raise { abandonBank s with bankSt := 3, bankErr := stCommandAborted } intMbx else s
  let s := logRec s evWatchdog third skHayward 0 [0, 0, times.length]
  if third then enterFenced s else s

/-- The core runs again (R292): HWRDY returns and a command that the restart cut off completes (R383), and trips are logged (R324). -/
def endRestart (s : State) : State :=
  let trips := s.hay.tripLog
  let s := { s with hay := { s.hay with firmRun := true, dogAt := s.now, tripLog := [] }, boot := { s.boot with hwrdy := true } }
  let s := if s.mbx.busy then mbxComplete s stCommandAborted [] else s
  trips.foldl (fun s p => note s evTrip skPlot p [p]) s

/-- WATCHDOG_EXPIRY: not serviced for 100 ms (R292). (DEDUCED, log entry 44) -/
def execWatchdogExpiry (s : State) : Result :=
  whenUp s fun s => if s.hay.firmRun ∧ s.hay.dogAt + 100000000 ≤ s.now then restart s else s

/-- HAYWARD_SRAM_ERROR: a double-bit error restarts the core (R291, R292). (DEDUCED, log entry 44) -/
def execHaywardSramError (s : State) : Result := whenUp s fun s => restart (telInc s (telEng 4))

end Sys2Proof.Machine
end

