-- ==== Sys2Proof/Machine/Boot.lean ====
section
/-! DEFINITION. The boot, lifecycle and tenancy families: resets (R325 to R328, R370), TENANT_RESET (R338), DELTA_SET (R344,
R345), CFG_READ (R330), lifecycle requests and key slots (R348 to R352), JTAG (R354). -/

namespace Sys2Proof.Machine

/-! ## Resets and the steps of R325 -/

/-- POR_N_RELEASE: steps 1 to 6 (R325), and the choice of the pair. (DEDUCED, log entry 5) -/
def execPorNRelease (sfdp : Sfdp) (s : State) : Result := .next (if s.boot.porLow then bringUp s sfdp false else s)

/-- POR_N_ASSERT: everything stops (R370); it restarts a reset sequence that runs. (DEDUCED, log entry 5; DESIGN CHOICE, log entry 45) -/
def execPorNAssert (s : State) : Result := .next (wiped s false)

/-- WARM_N_RESET (R327); without effect while por_n is low. (DEDUCED, log entry 5; DESIGN CHOICE, log entry 45) -/
def execWarmNReset (sfdp : Sfdp) (s : State) : Result := .next (if s.boot.porLow then s else warmReset s sfdp)

/-- The least of some numbers, 0 for none. -/
def leastOf (l : List Nat) : Nat := (least l).getD 0

/-- The partition that the eight ports report together, at most 256 GiB (R355, R365). -/
def partitionGib (shares : List (BitVec 6)) : Nat := min 256 (8 * leastOf (shares.map (·.toNat)))

/-- PARTITION_READY within 1 s of step 6: the far wipe starts, or the far tier is unusable below 16 GiB (R325, R328). (DEDUCED, log entry 63) -/
def execPartitionReady (shares : List (BitVec 6)) (s : State) : Result :=
  .next (if s.boot.phase = .recordChosen ∧ !s.boot.partSeen ∧ s.now ≤ s.boot.recordAt + 1000000000 then
      (let g := partitionGib shares
       if g < 16 then farUnusable s
       else useCfg { s with boot := { s.boot with partSeen := true, partGib := g } } (some g))
    else s)

/-- PARTITION_TIMEOUT: nothing reported within 1 s of step 6 (R328). (DEDUCED, log entry 63) -/
def execPartitionTimeout (s : State) : Result :=
  .next (if s.boot.phase = .recordChosen ∧ !s.boot.partSeen ∧ s.boot.recordAt + 1000000000 ≤ s.now then farUnusable s else s)

/-- FAR_WIPE_COMPLETE: the whole partition is zero, and the TAP opens in full in Blank and Returned (R353, R354). (DEDUCED, log entry 62) -/
def execFarWipeComplete (s : State) : Result :=
  .next (if s.boot.phase = .recordChosen ∧ s.boot.partSeen ∧ !s.boot.farWiped then
      { s with far := [], kv := [],
               boot := { s.boot with farWiped := true, wiping := false,
                                     tapFull := decide (s.fuses.lc = 0) || decide (s.fuses.lc = 3) } }
    else s)

/-- HAYWARD_FIRMWARE_START: steps 9 and 10, once steps 7 and 8 are done (R325); after a restart of the core its end (R292). (DEDUCED, log
entry 44) -/
def execHaywardFirmwareStart (s : State) : Result :=
  .next (if s.boot.phase = .recordChosen ∧ s.boot.farWiped then startFirmware s
    else if s.boot.phase = .running ∧ !s.hay.firmRun then endRestart s
    else s)

/-! ## Tenancy (R338) -/

/-- What a tenant reset does. -/
def resetTenant (s : State) (t : Nat) : State :=
  let s := endWhere s (fun x => decide (x.tenant = t)) stSOwnerLost
  let s := (s.weirs.filter fun w => weirOwner s w.1 = some t).foldl (fun s w => reinitWeir s w.1) s
  let s := (s.sluices.filter fun x => sluiceOwner s x.1 = some t).foldl (fun s x => reinitSluice s x.1) s
  { s with reqs := s.reqs.filter fun e => decide (e.tenant ≠ t) }

/-- TENANT_RESET (R338). -/
def execTenantReset (a : MbxArgs) (s : State) : Result :=
  runningHw s fun s => mbxStart s 0x20 a fun s => mbxComplete (resetTenant s (fld (par s 0) 0 6)) 0 []

/-! ## The Delta (R344, R345) -/

/-- The refusals of R344. -/
def deltaRefused (s : State) (epoch : W16) (members rejoin : W64) : Bool :=
  !s.cfg.managed || (decide (s.view.epoch ≠ 0) && !newer epoch s.view.epoch) || !members.getLsbD s.cfg.memberid.toNat ||
    decide (rejoin &&& ~~~members ≠ 0)

/-- A remote signal toward a member that awaits LINK_ACK completes with Member-left, its tag quarantined (R249). -/
def dropSignal (m : Nat) (s : State) (k : Nat) : State :=
  match linkTagOf s k with
  | .used _ _ _ _ _ _ dst _ _ => if dst.toNat = m then finishTag s k stMemberLeft false (.quarantined s.now dst) else s
  | _ => s

/-- Every remote signal toward a member (R249). -/
def dropSignals (s : State) (m : Nat) : State := s.linkTags.foldl (fun s x => dropSignal m s x.1) s

/-- A left or rejoined member: window, counter, signals and streams (R249, R345).  A client's frames name no member. (DEDUCED, log entries 19, 68) -/
def memberGone (s : State) (m : Nat) : State :=
  let s := dropSignals { s with inWin := smDel m s.inWin, outCtr := smDel m s.outCtr } m
  endWhere s (fun x => decide (x.src.toNat = m) && decide (roleOf s x.port ≠ .client)) stPeerLost

/-- A Sluice in progress that names a left or rejoined member completes with Member-left (R251, R345). (DEDUCED, log entry 68) -/
def sluiceGone (gone : W64) (s : State) (i : Nat) : State :=
  let y := sluiceOf s i
  if y.arrival.isSome && decide ((y.cur.mask.getD 0) &&& gone ≠ 0) then
    sluiceFinish s i stMemberLeft false ((y.cur.mask.getD 0) &&& gone)
  else s

/-- Every Sluice. -/
def sluicesGone (s : State) (gone : W64) : State := s.sluices.foldl (fun s x => sluiceGone gone s x.1) s

/-- The join epoch of a member after the change. -/
def newJoin (v : View) (epoch : W16) (members rejoin : W64) (m : Nat) : W16 :=
  if !members.getLsbD m then 0
  else if rejoin.getLsbD m || !v.members.getLsbD m then epoch
  else if 16384 < (epoch - smGet 0 v.join m).toNat then epoch - 16384
  else smGet 0 v.join m

/-- The view after the change: the suspended bit of each rejoined, newly listed or left member is cleared (R345, R346). -/
def newView (v : View) (epoch : W16) (members rejoin : W64) : View :=
  { v with epoch := epoch, members := members,
           join := smOfList 0 ((List.range 64).map (newJoin v epoch members rejoin)),
           susp := v.susp &&& ~~~rejoin &&& ~~~(members ^^^ v.members),
           removed := (v.removed ||| (v.members &&& ~~~members)) &&& ~~~members }

/-- An accepted DELTA_SET (R345). (DEDUCED, log entry 68) -/
def setDelta (s : State) (epoch : W16) (members rejoin : W64) : State :=
  let gone := (s.view.members &&& ~~~members) ||| rejoin
  let old := s.view.epoch
  let s := { s with view := newView s.view epoch members rejoin }
  let s := ((List.range 64).filter fun m => gone.getLsbD m).foldl memberGone (sluicesGone s gone)
  note (raise s intDelta) evDelta skHayward 0 [0, old.toNat, epoch.toNat]

/-- DELTA_SET: an EPOCH of 0 becomes 1 (R12, R344). -/
def execDeltaSet (a : MbxArgs) (s : State) : Result :=
  runningHw s fun s => mbxStart s 0x21 a fun s =>
    let epoch : W16 := (par s 0).extractLsb' 0 16
    if deltaRefused s epoch (par64 s 1) (par64 s 3) then mbxComplete s stDeltaRefused []
    else mbxComplete (setDelta s epoch (par64 s 1) (par64 s 3)) 0 []

/-! ## CFG_READ (R330) -/

/-- CFG_READ: the record as applied goes to the buffer. -/
def execCfgRead (a : MbxArgs) (s : State) : Result :=
  runningHw s fun s => mbxStart s 0x28 a fun s =>
    if bufferGood s (par64 s 0) 32832 then
      mbxComplete (emit s (.buffer (par64 s 0).toNat (encodeCfg s))) 0 [32832]
    else mbxComplete s stOutOfRange []

/-! ## Lifecycle requests (R351, R352) -/

/-- What a request asks for, from its bytes. -/
def requestOp (l : List Byte) : Option FuseOp :=
  match leAt l 4 2 with
  | 1 => some (.advance (leAt l 6 1))
  | 2 => some (.floors (leAt l 24 2) (leAt l 26 2))
  | 3 => if leAt l 28 1 < 8 then some (.revoke (leAt l 28 1)) else none
  | _ => none

/-- The form of a request: its magic, its signing slot, its reserved bytes, TARGET as the next state, and this engine's UID and CHAL.
(DEDUCED, log entry 69) -/
def requestForm (s : State) (l : List Byte) : Bool :=
  decide (leAt l 0 4 = 0x5145524C) && decide (leAt l 6 1 = s.fuses.lc + 1) && decide (leAt l 7 1 ≤ 1) && allZero (slice l 29 131) &&
    decide (leAt l 8 8 = s.fuses.uid.toNat) && decide (leAt l 16 8 = s.chal.toNat)

/-- The request's signature verifies with slot KEYID. -/
def requestSigned (s : State) (l : List Byte) : Bool := sigGood s (leAt l 7 1) (l.take 160) (slice l 160 48) (slice l 208 48)

/-- Revoking a slot leaves no unrevoked one among slots 0 and 1. (DEDUCED, log entry 69) -/
def lastKey (s : State) (k : Nat) : Bool :=
  decide (k ≤ 1) && !bitAt s.fuses.keyrev k && bitAt s.fuses.keyrev (1 - k)

/-- The request may be carried out in this state (R351). (DEDUCED, log entry 69) -/
def requestAllowed (s : State) (op : FuseOp) : Bool :=
  match op with
  | .advance t => decide (t = s.fuses.lc + 1) && decide (t ≤ 4)
  | .floors _ _ => decide (s.fuses.lc = 1) || decide (s.fuses.lc = 2)
  | .revoke k => (decide (s.fuses.lc = 1) || decide (s.fuses.lc = 2)) && !lastKey s k
  | .key _ _ => false

/-- In Blank an advance to Provisioned needs no signature once slot 0 is written. -/
def unsignedOk (s : State) (op : FuseOp) : Bool :=
  decide (op = .advance 1) && decide (s.fuses.lc = 0) && bitAt s.fuses.keyset 0

/-- The operation of an acceptable request; none where R351 refuses it. (DEDUCED, log entry 69) -/
def requestAccepted (s : State) (l : List Byte) : Option FuseOp :=
  match requestOp l with
  | some op => if requestForm s l && requestAllowed s op && (unsignedOk s op || requestSigned s l) then some op else none
  | none => none

/-- LC_REQUEST: refused with Busy while another runs (R355); an accepted one changes CHAL and starts outside sag state (R314). (DEDUCED, log entry 69) -/
def execLcRequest (a : MbxArgs) (buf : List Byte) (s : State) : Result :=
  runningHw s fun s => mbxStart s 0x30 a fun s =>
    if !bufferGood s (par64 s 0) 256 then mbxComplete s stOutOfRange []
    else if s.fuseOp.isSome || s.fuseWait.isSome then mbxComplete s stHBusy []
    else match requestAccepted s buf with
      | none => mbxComplete s stRequestRefused []
      | some op => beginWaiting (mbxWait { newChal s with fuseWait := some op } .fuse)

/-- KEY_PROGRAM: only in Blank, and each slot once (R349). (DEDUCED, log entry 71) -/
def execKeyProgram (a : MbxArgs) (buf : List Byte) (s : State) : Result :=
  runningHw s fun s => mbxStart s 0x31 a fun s =>
    let k := fld (par s 0) 0 3
    if !bufferGood s (par64 s 1) 96 then mbxComplete s stOutOfRange []
    else if s.fuses.lc ≠ 0 then mbxComplete s stNotAvailable []
    else if s.fuseOp.isSome || s.fuseWait.isSome then mbxComplete s stHBusy []
    else if bitAt s.fuses.keyset k then mbxComplete s stSlotWritten []
    else mbxWait { s with fuseOp := some (.key k (BitVec.ofNat 768 (beNat (buf.take 96)))) } .fuse

/-- FUSE_PROGRAM_COMPLETE: the fuses hold their new values; an advance resets the engine as warm_n does (R352). -/
def execFuseProgramComplete (s : State) : Result :=
  runningHw s fun s =>
    match s.fuseOp with
    | none => s
    | some op =>
      let s := { s with fuseOp := none, fuses := fuseWritten s.fuses op }
      match op with
      | .advance _ => warmReset s s.boot.sfdp
      | _ => beginWaiting (mbxFinish s .fuse 0 [])

/-! ## JTAG (R349, R354, R368) -/

/-- IDCODE: the stepping above 0xA2C_40B7. (DESIGN CHOICE, log entry 70) -/
def idcode (s : State) : W32 := BitVec.ofNat 32 (0xA2C40B7 + at' s.fuses.step.toNat 28)

/-- A JTAG operation on the fuses may start: the TAP is open in Blank and no fuse program runs or waits. -/
def jtagFuses (s : State) : Bool := s.boot.tapFull && decide (s.fuses.lc = 0) && s.fuseOp.isNone && s.fuseWait.isNone

/-- JTAG_ACCESS: IDCODE and BYPASS always; key slots and the unsigned advance through the full TAP in Blank; of the rest of the full
set the manual gives no effect. (DEDUCED, log entry 5; DESIGN CHOICE, log entry 70) -/
def execJtagAccess (op : JtagOp) (s : State) : Result :=
  match op with
  | .idcode => .next (emit s (.jtag (idcode s)))
  | .bypass => .next s
  | .keyWrite k key => runningHw s fun s =>
      if jtagFuses s && !bitAt s.fuses.keyset k.val then { s with fuseOp := some (.key k key) } else s
  | .advanceProvisioned => runningHw s fun s =>
      if jtagFuses s && bitAt s.fuses.keyset 0 then beginWaiting { newChal s with fuseWait := some (.advance 1) } else s
  | .other _ => if s.boot.tapFull then .refused .jtagInstructionNotGiven else .next s

end Sys2Proof.Machine
end

