-- ==== Sys2Proof/Machine/Calib.lean ====
section
/-! DEFINITION. Calibration commands: the flush of every 1 ms (R206, R207), and CALIB_READ and CALIB_CLEAR (R378). -/

namespace Sys2Proof.Machine

/-- The classifier object of a tenant's active set with a role (R281, R282); none without a set. (DEDUCED, log entry 38) -/
def calibObj (s : State) (tenant role : Nat) : Option Nat :=
  let r := smGet {} (actTab s).recs tenant
  if r.minRills = 0 then none
  else some (if role = 0 then r.win else if role = 1 then r.sum else if role = 2 then r.fst else r.deep)

/-- A point record with its counters zero and its estimates kept (R378). (DEDUCED, log entry 38) -/
def clearPoint (p : PointRec) : PointRec := { est := p.est }

/-- Zeroes the counters of a classifier's table. -/
def clearCounters (s : State) (o : Nat) : State :=
  { s with ests := s.ests.map fun x => if x.1 = o then (x.1, x.2.map clearPoint) else x }

/-- The 64 bytes of a point record (R204). -/
def encodePoint (p : PointRec) : List Byte :=
  leBytes 6 p.nout ++ leBytes 4 p.nclip ++ leBytes 4 p.nbias ++ leBytes 4 p.wb0 ++ leBytes 4 p.wb1 ++ leBytes 4 p.wb2 ++
  leBytes 4 p.wb3 ++ leBytes 4 p.wb4 ++ leBytes 4 p.nhigh ++ leBytes 4 p.nlow ++ leBytes 2 p.nclamp ++ leBytes 4 p.nref ++
  zeros 16

/-- The estimates after a point record: int16 each, padded to 64 bytes (R204). -/
def encodeEsts (l : List Int) : List Byte := padTo 64 (l.flatMap fun e => leBytes 2 (e % 65536).toNat)

/-- A classifier's estimate table as CALIB_READ writes it (R204). -/
def encodeTable (t : List PointRec) : List Byte := t.flatMap fun p => encodePoint p ++ encodeEsts p.est

/-- CALIB_FLUSH: every Rill's counter blocks in Rill-number order; then a CALIB_CLEAR that waits zeroes its counters and
completes (R206, R378). -/
def execCalibFlush (s : State) : Result :=
  runningHw s fun s =>
    let s := (List.range 128).foldl flushRill s
    match s.mbx.running with
    | some (.calibClear t role) =>
      match calibObj s t role with
      | some o => mbxFinish (clearCounters s o) (.calibClear t role) 0 []
      | none => mbxFinish s (.calibClear t role) 0 []
    | _ => s

/-- CALIB_READ (R378): the point records of a classifier go to a buffer. (DEDUCED, log entry 38) -/
def execCalibRead (a : MbxArgs) (s : State) : Result :=
  runningHw s fun s => mbxStart s 0x18 a fun s =>
    let t := fld (par s 0) 0 6
    match calibObj s t (fld (par s 0) 8 2) with
    | none => mbxComplete s stOutOfRange [0]
    | some o =>
      let b := encodeTable (smGet [] s.ests o)
      if bufferGood s (par64 s 1) b.length then
        mbxComplete (emit s (.buffer (par64 s 1).toNat b)) 0 [BitVec.ofNat 32 b.length]
      else mbxComplete s stOutOfRange [0]

/-- CALIB_CLEAR (R378): the counters are zeroed at the next flush. (DEDUCED, log entry 38) -/
def execCalibClear (a : MbxArgs) (s : State) : Result :=
  runningHw s fun s => mbxStart s 0x19 a fun s =>
    let t := fld (par s 0) 0 6
    let role := fld (par s 0) 8 2
    match calibObj s t role with
    | none => mbxComplete s stOutOfRange []
    | some _ => mbxWait s (.calibClear t role)

end Sys2Proof.Machine
end

