-- ==== Sys2Proof/Machine/Fen.lean ====
section
/-! DEFINITION. Fen maintenance: bank operations and their shadow (R157 to R161), the scrubber (R162, R163), the reload of a
suspect bank (R164), and the mailbox commands FEN_READ to FEN_MASK (R150, R378). -/

namespace Sys2Proof.Machine

/-! ## Running an operation (R157 to R161) -/

/-- A list without repeats, in order. -/
def distinct : List Nat → List Nat
  | [] => []
  | a :: r => if r.contains a then distinct r else a :: distinct r

/-- Issues the shadow writes of a bank, one for each 256-byte granule; none when a port's bound stalls them (R75). (DEDUCED, log entry 41) -/
def shadowWrites (b : Nat) (l : List Nat) (s : State) : Option State :=
  l.foldl (fun o g => o.bind fun s => memIssue s (256 * g) 256 true (.shadow b)) (some s)

/-- Carries out the operation at the head of a bank's queue: the bank changes, and the shadow records of what it touched are
written.  With no far tier there is no shadow (R328). (DEDUCED, log entry 41) -/
def runBankOp (s : State) (b : Nat) : State :=
  match opsOf s b, doneOf s b with
  | (o, host) :: _, [] =>
    let (s', st, data) := bankChange s b o
    let es := if st = 0 ∧ s.boot.farBad = false then touched s b o else []
    let grans := distinct (es.map fun e => shadowAt b e / 256)
    let s' := es.foldl (fun s e => putShadow s b e) (popOp s' b)
    match shadowWrites b grans s' with
    | none => s
    | some s' =>
      let d : BankDone := { op := o, status := st, data := data, waits := grans.length, fromHost := host }
      { s' with bankDone := smSet [] s'.bankDone b [d] }
  | _, _ => s

/-- FEN_BANK_OP (R158). -/
def execFenBankOp (b : Fin 64) (s : State) : Result :=
  runningOn s (28 + b.val / 16) fun s => runBankOp s b

/-- The operation changes the bank. -/
def isChange : BankOp → Bool
  | .read _ => false
  | _ => true

/-- Operations of the reload of a suspect bank are still to come. -/
def reloadLeft (s : State) (b : Nat) : Bool := (opsOf s b ++ heldOps s b).any fun x => !x.2

/-- An operation completes once its shadow records are acknowledged; a suspect bank leaves the suspect state with the last operation of
its reload (R158, R164).  One whose command a restart has aborted answers nobody (R383). -/
def completeOp (s : State) (b : Nat) : State :=
  match doneOf s b with
  | [] => s
  | d :: _ =>
    if d.waits ≠ 0 then s
    else
      let s := { s with bankDone := smDel b s.bankDone }
      let s := if d.fromHost && isChange d.op && decide (d.status = 0) then
          { s with opLog := smIns b (smGet [] s.opLog b ++ [d.op]) s.opLog } else s
      let s := if !d.fromHost && !reloadLeft s b then { s with suspect := s.suspect.filter (· ≠ b) } else s
      let orphans := smGet 0 s.opOrphans b
      if !d.fromHost then s
      else if 0 < orphans then { s with opOrphans := smSet 0 s.opOrphans b (orphans - 1) }
      else mbxFinish s (.fenOp b) d.status (match d.op with | .read _ => words32 14 d.data.toNat | _ => [])

/-- FEN_OP_COMPLETE (R158). -/
def execFenOpComplete (b : Fin 64) (s : State) : Result :=
  runningOn s (28 + b.val / 16) fun s => completeOp s b

/-! ## Reload of a suspect bank (R164) -/

/-- The Fen entry set that a Bale loaded into a bank: its entries at their index within the bank. -/
def bankSet (s : State) (b : Nat) : Option (Nat × List (Nat × FenEntry)) :=
  (tabObjs (actTab s) ++ tabObjs (otherTab s)).findSome? fun o =>
    match (objOf s o).content with
    | .fenSet _ banks es =>
      match banks.findIdx? (· = b) with
      | some k => some (o, (es.filter fun x => decide (x.1 / 8192 = k)).map fun x => (x.1 % 8192, x.2))
      | none => none
    | _ => none

/-- Valid entries of a bank, and the one found bad. -/
def liveEntries (s : State) (b bad : Nat) : List Nat :=
  distinct (bad :: (s.fen.filter fun x => decide (x.1 / 8192 = b) && fenValid x.2.bits).map fun x => x.1 % 8192)

/-- Marks a bank suspect and queues its reload: the entries of its set are written again, every other entry is invalidated,
and the logged operations follow.  A bank whose set is lost cannot be reloaded, which is logged (R164): as Fen error with the bank as its
source and the bank's owner as the tenant, since the manual names neither code nor arguments. (DEDUCED, log entry 41;
DESIGN CHOICE, log entry 94) -/
def markSuspect (s : State) (b bad : Nat) : State :=
  if s.suspect.contains b then s
  else
    let s := telInc { s with suspect := s.suspect ++ [b] } (telEng 2)
    let lost := match bankSet s b with | some (o, _) => !usable s o | none => false
    if lost then note s stFenError skBank b [(bankCfgOf s b).owner, 0, 0]
    else
      let es := match bankSet s b with | some (_, es) => es | none => []
      let inv := (liveEntries s b bad).filter fun e => !(es.any fun x => x.1 = e)
      let ops := inv.map BankOp.invalidate ++ es.map (fun x => BankOp.write x.1 x.2) ++ smGet [] s.opLog b
      ops.foldl (fun s o => queueOp s b o false) s

/-! ## The scrubber (R162, R163) -/

/-- What the scrubber does with one entry (R163), each repair logged with its index and its bank.  A repair by INVALIDATE rewrites the shadow
record from the bank's bits, with VALID 0: the manual says nothing of the record then. (DEDUCED, log entry 41; DESIGN CHOICE, log
entry 94) -/
def scrubEntry (s : State) (b e : Nat) : State :=
  let c := cellAt s b e
  let l := shadowRec s b e
  let sg := shadowGood l
  let se := shadowEntry l
  let fixed (s : State) : State := note (telInc s (telEng 1)) evFenRepair skBank b [e, 0, 0, b]
  if sg then
    if parityGood c && decide (c.bits = se) then s
    else fixed (putShadow (if fenValid se then writeEntry s b e se else putEntry s b e (setValid c.bits false)) b e)
  else if parityGood c then fixed (putShadow s b e)
  else markSuspect s b e

/-- The entry of a bank that is compared next: one queued by R149, else the one in the order of the pass. -/
def scrubNext (s : State) (b : Nat) : Nat :=
  match s.scrubQ.find? fun x => x.1 = b with
  | some x => x.2 % 8192
  | none => smGet 0 s.scrubPos b % 8192

/-- The comparison takes its entry: one queued by R149 leaves the queue and the pass stays where it is, else the pass goes on. -/
def scrubTake (s : State) (b : Nat) : State :=
  match s.scrubQ.find? fun x => x.1 = b with
  | some x => { s with scrubQ := s.scrubQ.erase x }
  | none => { s with scrubPos := smSet 0 s.scrubPos b ((smGet 0 s.scrubPos b + 1) % 8192) }

/-- One bank's comparison; a bank with an operation queued or a shadow write outstanding is skipped (R162), and so is one whose Brook has
no clock (R21). -/
def scrubBank (s : State) (b : Nat) : State :=
  if bankBusy s b || !lockedOn s (28 + b / 16) then s
  else scrubEntry (scrubTake s b) b (scrubNext s b)

/-- FEN_SCRUB: one entry of every bank (R162).  With no far tier there is no shadow to compare. (DEDUCED, log entry 41) -/
def execFenScrub (s : State) : Result :=
  whenUp s fun s => if s.boot.farBad then s else (List.range 64).foldl scrubBank s

/-! ## Mailbox commands -/

/-- Bank and index of a Fen command (R378). -/
def fenBankPar (s : State) : Nat := fld (par s 0) 16 6
def fenIndexPar (s : State) : Nat := fld (par s 0) 0 13
/-- The entry of PAR1 to PAR14. -/
def fenEntryPar (s : State) : FenEntry :=
  BitVec.ofNat 448 ((List.range 14).foldl (fun a i => a + at' (par s (1 + i)).toNat (32 * i)) 0)

/-- A command's operation is queued, unless a Bale load may take the bank (R165). -/
def fenCommand (s : State) (o : BankOp) : State :=
  let b := fenBankPar s
  if bankLoading s b then mbxComplete s stBankLoading []
  else mbxWait (queueOp s b o true) (.fenOp b)

/-- A write or insert of a legal entry is queued; an illegal one is refused and the bank is unchanged (R141, R147).  VALID and
the reserved bits of the entry given are ignored. (DEDUCED, log entry 84) -/
def fenWriteCommand (s : State) (insert : Bool) : State :=
  let x := entryBits (fenEntryPar s)
  let b := fenBankPar s
  let e := fenIndexPar s
  if !bankLoading s b && !(legalInBank s b x && uniqueInBanks s b (if insert then none else some e) x) then mbxComplete s stIllegalEntry []
  else fenCommand s (if insert then .insert e x else .write e x)

/-- FEN_READ (R157). -/
def execFenRead (a : MbxArgs) (s : State) : Result :=
  runningHw s fun s => mbxStart s 0x10 a fun s => fenCommand s (.read (fenIndexPar s))

/-- FEN_INVALIDATE (R157). -/
def execFenInvalidate (a : MbxArgs) (s : State) : Result :=
  runningHw s fun s => mbxStart s 0x11 a fun s => fenCommand s (.invalidate (fenIndexPar s))

/-- FEN_WRITE (R159). -/
def execFenWrite (a : MbxArgs) (s : State) : Result :=
  runningHw s fun s => mbxStart s 0x12 a fun s => fenWriteCommand s false

/-- FEN_INSERT (R160). -/
def execFenInsert (a : MbxArgs) (s : State) : Result :=
  runningHw s fun s => mbxStart s 0x13 a fun s => fenWriteCommand s true

/-- The banks of an enabled bank-mask entry meet the rule of R150. -/
def maskLegal (s : State) (tenant kt : Nat) (m : W16) : Bool :=
  (bmBanks m).all fun b =>
    let c := bankCfgOf s b
    decide (b / 4 = bmA m / 4) && c.used && decide (c.ktype = kt) &&
      ((!c.shared && decide (c.owner = tenant)) || (c.shared && decide (kt = ktHeader)))

/-- FEN_MASK: an entry with EN is checked in full, one without is stored as it is (R150). -/
def execFenMask (a : MbxArgs) (s : State) : Result :=
  runningHw s fun s => mbxStart s 0x14 a fun s =>
    let t := fld (par s 0) 0 6
    let kt := fld (par s 0) 8 2
    let m : W16 := (par s 1).setWidth 16
    if bmEn m && !maskLegal s t kt m then mbxComplete s stMaskRefused []
    else
      let tab := actTab s
      mbxComplete (setActTab s { tab with masks := smSet 0 tab.masks (4 * t + kt) m }) 0 []

end Sys2Proof.Machine
end

