-- ==== Sys2Proof/Machine/Mgmt.lean ====
section
/-! DEFINITION. The management endpoint: MCTP control (R320), SPDM (R321), PLDM monitoring and events (R322), and PLDM firmware
update (R323).  A command is one message that has arrived over the bus or a link. -/

namespace Sys2Proof.Machine

/-! ## Messages -/

/-- A message is taken: one that came in a class-3 frame leaves the inbox, and its answer goes back the same way. (DEDUCED, log entry 56) -/
def takeMsg (s : State) : State :=
  { s with mgmt := { s.mgmt with inbox := s.mgmt.inbox.drop 1, via := s.mgmt.inbox.head? } }

/-- Something runs that answers messages (R320, R325, R370); while the core restarts none is answered (R292). (DEDUCED, log entry 56) -/
def mgmtMsg (s : State) (k : State → State) : Result :=
  whenUp s fun s => if s.hay.firmRun then k (takeMsg s) else takeMsg s

/-- The answer to the message that was taken (R320). -/
def answerMsg (s : State) (m : MgmtOut) : State := mgmtSend s s.mgmt.via m

/-- In Retired only MCTP control and SPDM measurement 6 are answered (R348). (DEDUCED, log entry 56) -/
def mgmtLive (s : State) (k : State → State) : Result := mgmtMsg s fun s => if s.fuses.lc = 4 then s else k s

/-- The answer to an MCTP control command. -/
def controlAnswer (s : State) (cmd code : Byte) (data : List Byte) : State := answerMsg s (.control cmd code data)

/-- An SPDM answer. -/
def spdmAnswer (s : State) (code : Byte) (data : List Byte) (sig : Option (BitVec 768)) : State :=
  answerMsg s (.spdm code data sig)

/-- An SPDM ERROR answer (DSP0274): 0x01 invalid request, 0x04 unexpected request, 0x07 unsupported request. (PRESUMED, log entry 40) -/
def spdmError (s : State) (e : Byte) : State := spdmAnswer s 0x7F [e] none

/-- A PLDM answer of a PLDM type. -/
def pldmAnswer (s : State) (type : Byte) (code : W16) (data : List Byte) : State := answerMsg s (.pldm type code data)

/-- PLDM type 0, which the endpoint and the recovery responder answer (R311): terminus ID, types and commands; any other command is
unsupported. (PRESUMED, log entry 40) -/
def pldmBase (s : State) (cmd : Byte) (data : List Byte) : State :=
  match cmd.toNat with
  | 0x01 => pldmAnswer { s with mgmt := { s.mgmt with tid := data.headD 0 } } 0 0 []
  | 0x02 => pldmAnswer s 0 0 [s.mgmt.tid]
  | 0x03 => pldmAnswer s 0 0 [0x00, 0x00, 0x00, 0x00, 0x05, 0x00, 0xF0, 0xF0, 0xF1]
  | 0x04 => pldmAnswer s 0 0 (leBytes 8 0x25)
  | 0x05 => pldmAnswer s 0 0 (leBytes 32 0x3E)
  | _ => pldmAnswer s 0 0x05 []

/-- The receiver acknowledges an event message (R322): the one whose LSEQ ends in the instance ID of the answer. (PRESUMED, log entry 40;
DESIGN CHOICE, log entry 58) -/
def ackEvent (s : State) (inst : Nat) : State :=
  { s with mgmt := { s.mgmt with events := s.mgmt.events.filter fun e => decide (fld e.1 0 5 ≠ inst) } }

/-- MCTP_MESSAGE: the messages without a row of their own, as bytes from the message type on.  A request of PLDM type 0 is answered (R311),
an answer to a PlatformEventMessage acknowledges it (R322), and the others are dropped (R320). (DEDUCED, log entry 56) -/
def execMctpMessage (msg : List Byte) (s : State) : Result :=
  mgmtMsg s fun s =>
    if s.fuses.lc = 4 then s
    else match msg with
      | m :: a :: b :: c :: l =>
        let type := fld (b.setWidth 16) 0 6
        if m ≠ 0x01 then s
        else if type = 0 ∧ a.getLsbD 7 then pldmBase s c l
        else if type = 2 ∧ !a.getLsbD 7 ∧ c = 0x0A then ackEvent s (fld (a.setWidth 16) 0 5)
        else s
      | _ => s

/-! ## MCTP control (R320) -/

/-- SET_ENDPOINT_ID. (PRESUMED, log entry 40; DEDUCED, log entry 56) -/
def execSetEndpointId (eid : Byte) (s : State) : Result :=
  mgmtMsg s fun s =>
    if 8 ≤ eid.toNat ∧ eid.toNat ≤ 0xFE then
      controlAnswer { s with mgmt := { s.mgmt with eid := eid, eidSet := true } } 0x01 0x00 [eid]
    else controlAnswer s 0x01 0x02 [s.mgmt.eid]

/-- GET_ENDPOINT_ID. -/
def execGetEndpointId (s : State) : Result := mgmtMsg s fun s => controlAnswer s 0x02 0x00 [s.mgmt.eid]

/-- GET_ENDPOINT_UUID. -/
def execGetEndpointUuid (s : State) : Result :=
  mgmtMsg s fun s => controlAnswer s 0x03 0x00 (leBytes 16 Config.endpointUuid.toNat)

/-- GET_MCTP_VERSION_SUPPORT: version 1.3. -/
def execGetMctpVersionSupport (s : State) : Result := mgmtMsg s fun s => controlAnswer s 0x04 0x00 [0x01, 0xF1, 0xF3, 0xFF, 0x00]

/-- GET_MESSAGE_TYPE_SUPPORT: control, PLDM and SPDM. -/
def execGetMessageTypeSupport (s : State) : Result := mgmtMsg s fun s => controlAnswer s 0x05 0x00 [0x03, 0x00, 0x01, 0x05]

/-! ## SPDM (R321) -/

/-- GET_VERSION: SPDM 1.2; a new negotiation begins. (PRESUMED, log entry 40) -/
def execGetVersion (s : State) : Result :=
  mgmtLive s fun s =>
    spdmAnswer { s with mgmt := { s.mgmt with verDone := true, capDone := false, algDone := false } } 0x04 [0x00, 0x12] none

/-- GET_CAPABILITIES: certificates, challenge, and measurements with signature. -/
def execGetCapabilities (s : State) : Result :=
  mgmtLive s fun s =>
    if s.mgmt.verDone then
      spdmAnswer { s with mgmt := { s.mgmt with capDone := true, algDone := false } } 0x61 [0x16, 0x00, 0x00, 0x00] none
    else spdmError s 0x04

/-- NEGOTIATE_ALGORITHMS: P-384 and SHA-384 are the only algorithms offered. (PRESUMED, log entry 40) -/
def execNegotiateAlgorithms (offersP384 offersSha384 : Bool) (s : State) : Result :=
  mgmtLive s fun s =>
    if !s.mgmt.capDone then spdmError s 0x04
    else if offersP384 && offersSha384 then
      spdmAnswer { s with mgmt := { s.mgmt with algDone := true } } 0x63
        (leBytes 4 0x04 ++ leBytes 4 0x80 ++ leBytes 4 0x02) none
    else spdmError s 0x01

/-- The engine offers its SPDM identity: slot 0 holds a chain (R321, R348). -/
def hasIdentity (s : State) : Bool := decide (s.fuses.lc ≠ 0) && decide (s.cfg.idlen ≠ 0)

/-- The certificate chain of slot 0. -/
def idChain (s : State) : List Byte := s.cfg.idchain.take s.cfg.idlen

/-- The bytes of a digest, byte 0 in its low bits as a trailer stores it (R301). -/
def digestBytes (d : BitVec 384) : List Byte := leBytes 48 d.toNat

/-- A request that needs the negotiation done. (DEDUCED, log entry 56) -/
def negotiated (s : State) (k : State → State) : Result :=
  mgmtLive s fun s => if s.mgmt.algDone then k s else spdmError s 0x04

/-- GET_DIGESTS: the mask of slots that hold a chain, and the digest of slot 0. -/
def execGetDigests (s : State) : Result :=
  negotiated s fun s =>
    if hasIdentity s then spdmAnswer s 0x01 (0x01 :: digestBytes (Config.sha384 (idChain s))) none
    else spdmAnswer s 0x01 [0x00] none

/-- GET_CERTIFICATE: a part of slot 0's chain; other slots are empty. -/
def execGetCertificate (slot : Fin 8) (off len : Nat) (s : State) : Result :=
  negotiated s fun s =>
    if slot.val ≠ 0 ∨ !hasIdentity s ∨ (idChain s).length ≤ off then spdmError s 0x01
    else spdmAnswer s 0x02 (slice (idChain s) off len) none

/-- The responder's nonce is a free value. (DESIGN CHOICE, log entry 4) -/
def drawNonce (s : State) : List Byte × State := drawBytes s 32

/-- CHALLENGE: a signature of the identity key over the chain's digest and both nonces; refused in Returned (R348). (DEDUCED, log entry 56) -/
def execChallenge (slot : Fin 8) (nonce : BitVec 256) (s : State) : Result :=
  negotiated s fun s =>
    if s.fuses.lc = 3 then spdmError s 0x07
    else if slot.val ≠ 0 ∨ !hasIdentity s then spdmError s 0x01
    else
      let (n, s) := drawNonce s
      let data := digestBytes (Config.sha384 (idChain s)) ++ n
      spdmAnswer s 0x03 data (some (Config.spdmSign (data ++ leBytes 32 nonce.toNat)))

/-- A measurement block (R321); none where it is absent.  The BODYDIG of a configuration bank is a free value while the default
record is in use, for no bank is. (DEDUCED, log entry 57) -/
def measurement (s : State) (i : Nat) : Option (List Byte) × State :=
  match i with
  | 1 => (some (digestBytes Config.romDigest), s)
  | 2 => (if s.boot.fenced then none else some (digestBytes s.boot.imgDig), s)
  | 3 => (if s.boot.fenced then none else some (digestBytes s.boot.mcDig), s)
  | 4 => if s.boot.defCfg then ((some (drawBytes s 48).1), (drawBytes s 48).2) else (some (digestBytes s.boot.cfgDig), s)
  | 5 => (some (digestBytes (Config.sha384 ((liveBales s (actTab s)).flatMap (·.hdr)))), s)
  | 6 => (some (leBytes 4 (s.fuses.lc + at' (b2n s.boot.fenced) 8)), s)
  | 7 => (some (leBytes 4 (s.fuses.floor1 + at' s.fuses.floor2 8)), s)
  | _ => (some [if s.boot.fenced then 5 else 7], s)

/-- GET_MEASUREMENTS: index 0 asks for the number of blocks.  In Retired only block 6 is answered, without negotiation. (DEDUCED, log entry 56) -/
def execGetMeasurements (idx : MeasIndex) (signed : Bool) (nonce : BitVec 256) (s : State) : Result :=
  mgmtMsg s fun s =>
    if s.fuses.lc = 4 ∧ idx.val ≠ 6 then s
    else if s.fuses.lc ≠ 4 ∧ !s.mgmt.algDone then spdmError s 0x04
    else if signed ∧ s.fuses.lc = 0 then spdmError s 0x07
    else
      let (m, s) := measurement s idx
      match m with
      | none => spdmError s 0x01
      | some d =>
        if signed then
          let (n, s) := drawNonce s
          spdmAnswer s 0x60 (d ++ n) (some (Config.spdmSign (d ++ n ++ leBytes 32 nonce.toNat)))
        else spdmAnswer s 0x60 d none

/-! ## PLDM type 2 (R322) -/

/-- SET_EVENT_RECEIVER; the recovery responder of fenced boot serves only the sensors (R311). -/
def execSetEventReceiver (enable : Bool) (receiver : Byte) (s : State) : Result :=
  mgmtLive s fun s =>
    if s.boot.fenced then pldmAnswer s 2 0x05 []
    else pldmAnswer { s with mgmt := { s.mgmt with receiver := if enable then some receiver else none } } 2 0 []

/-- A signed reading as 32 bits. -/
def int32 (x : Int) : List Byte := leBytes 4 (BitVec.ofInt 32 x).toNat

/-- A record of the PDR repository (R322): a sensor with its kind and, for a thermal site, its warning and critical thresholds in units of
0.25 °C. -/
structure Pdr where
  id      : Nat
  numeric : Bool
  warn    : Option Int := none
  crit    : Option Int := none
  deriving DecidableEq, Repr

/-- The PDR repository (R322): 160 thermal sites with thresholds of 95 °C and 110 °C, the rail monitors, the power estimate, and the
throttle steps of the Heaths as state sensors. -/
def pdrs : List Pdr :=
  ((List.range 160).map fun p => { id := 1 + p, numeric := true, warn := some 380, crit := some 440 }) ++
  ((List.range 10).map fun r => { id := 0x0101 + r, numeric := true }) ++ [{ id := 0x0201, numeric := true }] ++
  ((List.range 8).map fun h => { id := 0x0301 + h, numeric := false })

/-- The state of a reading under its thresholds: 3 critical, 2 warning, 1 normal (DSP0248). (PRESUMED, log entry 40) -/
def pdrState (r : Pdr) (x : Int) : Byte :=
  if (r.crit.map fun c => decide (c ≤ x)) = some true then 3
  else if (r.warn.map fun w => decide (w ≤ x)) = some true then 2 else 1

/-- The reading of a sensor in the units of R293: 0.25 °C, mV, 0.1 W; a Heath's step. -/
def sensorRead (s : State) (id : Nat) : Option (List Byte) :=
  if 0x0001 ≤ id ∧ id ≤ 0x00A0 then some (int32 (smGet (-160) s.hay.temps (id - 1)))
  else if 0x0101 ≤ id ∧ id ≤ 0x010A then some (leBytes 4 (smGet 0 s.hay.rails (id - 0x0101)))
  else if id = 0x0201 then some (leBytes 4 (s.hay.power / 100000))
  else if 0x0301 ≤ id ∧ id ≤ 0x0308 then some (leBytes 4 (heathAt s (id - 0x0301)).step)
  else none

/-- The answer for a sensor of the repository: its reading, and for a site with thresholds its state under them; a sensor that the
repository does not hold has an invalid ID. (PRESUMED, log entry 40) -/
def sensorAnswer (s : State) (id : Nat) : W16 × List Byte :=
  match pdrs.find? fun r => decide (r.id = id), sensorRead s id with
  | some r, some d => (0, if r.warn.isSome then d ++ [pdrState r (smGet (-160) s.hay.temps (id - 1))] else d)
  | _, _ => (0x80, [])

/-- PLDM_SENSOR_READ (R322). (PRESUMED, log entry 40) -/
def execPldmSensorRead (sensor : W16) (s : State) : Result :=
  mgmtLive s fun s => pldmAnswer s 2 (sensorAnswer s sensor.toNat).1 (sensorAnswer s sensor.toNat).2

/-- An event message is without an acknowledgement for 100 ms. (DESIGN CHOICE, log entry 6) -/
def eventLate (s : State) (e : W32 × Nat × Bool) : Bool := decide (e.2.1 + 100000000 ≤ s.now)

/-- The messages still on the event path: a late one is sent again once, then dropped (R322). (DESIGN CHOICE, log entry 58) -/
def eventsAfter (s : State) : List (W32 × Nat × Bool) :=
  (s.mgmt.events.filter fun e => !(eventLate s e && e.2.2)).map fun e => if eventLate s e then (e.1, s.now, true) else e

/-- PLATFORM_EVENT_RETRY: a message without an acknowledgement for 100 ms is sent again once, then dropped from the event path. (DESIGN
CHOICE, log entry 58) -/
def execPlatformEventRetry (s : State) : Result :=
  whenUp s fun s => if !s.hay.firmRun then s else
    let again := s.mgmt.events.filter fun e => eventLate s e && !e.2.2
    { s with mgmt := { s.mgmt with events := eventsAfter s },
             out := s.out ++ again.map fun e => Output.mgmt busUnit (.event e.1) }

/-! ## PLDM firmware update (R323) -/

/-- PLDM_FIRMWARE_UPDATE: component 1 is a firmware pair, component 2 a configuration bank; the descriptors of both roles come
with the trailer.  A second write is refused with Busy (R303). (PRESUMED, log entry 40; DEDUCED, log entry 59) -/
def execPldmFirmwareUpdate (comp : W16) (trailer descs : List Byte) (bodyLen : Nat) (s : State) : Result :=
  mgmtLive s fun s =>
    if comp ≠ 1 ∧ comp ≠ 2 then pldmAnswer s 5 0x06 []
    else if !flashOk s then pldmAnswer s 5 stNotAvailable []
    else if s.bankWr.isSome then pldmAnswer s 5 stHBusy []
    else askPiece (startBank s (comp = 1) true [] trailer (slice descs 0 256) (slice descs 256 256) bodyLen)

/-- A piece in its place: the next in ascending order, and of a length of R323. (DEDUCED, log entry 59) -/
def pieceFits (w : BankWrite) (off n : Nat) : Bool :=
  w.pldm && decide (off = w.body.length) && decide (off + n ≤ w.len) && decide (0 < n) && decide (n ≤ 4096) &&
    (decide (64 ≤ n) || decide (off + n = w.len))

/-- REQUEST_FIRMWARE_DATA: the piece joins the body, and programming goes on as far as the body has come. -/
def execRequestFirmwareData (off : Nat) (data : List Byte) (s : State) : Result :=
  mgmtLive s fun s =>
    match s.bankWr with
    | some w => if pieceFits w off data.length then
          askPiece (flashNext { s with bankWr := some { w with body := w.body ++ data, want := false } })
        else s
    | none => s

/-- ACTIVATE_FIRMWARE: self-contained activation is not supported; activation is the next reset. (PRESUMED, log entry 40; DEDUCED, log entry 59) -/
def execActivateFirmware (selfContained : Bool) (s : State) : Result :=
  mgmtLive s fun s => pldmAnswer s 5 (if selfContained then 0x8C else 0) []

end Sys2Proof.Machine
end

