-- ==== Sys2Proof/Machine/Flags.lean ====
section
/-! DEFINITION. Status and flag words: GEN_STATUS, GEN_INTSTAT and the interrupt lines, the other GEN words made of fields
(R372, R375), MBX_STATUS (R376), and the STATE words of TEL (R379). -/

namespace Sys2Proof.Machine

/-- Fields placed at their bits. -/
def word (l : List (Nat × Nat)) : W32 := BitVec.ofNat 32 ((l.map fun x => at' x.1 x.2).sum)

/-- TRIPACT: a thermal site is at or above 110 °C. -/
def tripAct (s : State) : Bool := !s.hay.hotAt.isEmpty

/-- GEN_STATUS (R375). -/
def genStatus (s : State) : W32 :=
  word [(s.fuses.lc, 0), (b2n s.boot.fenced, 3), (b2n s.boot.defCfg, 4), (b2n s.boot.hwrdy, 5), (b2n s.hay.sag, 6),
        (b2n s.boot.farBad, 7), (b2n s.setAct, 8), (b2n (tripAct s), 9), (b2n s.boot.cfgBank, 10), (b2n s.boot.pairBank, 11),
        (b2n (grantLow s), 12), (b2n s.boot.wiping, 13)]

/-- GEN_ID: the part and the stepping. -/
def genId (s : State) : W32 := word [(0xA702, 0), (s.fuses.step.toNat, 16)]

/-- GEN_DELTA. -/
def genDelta (s : State) : W32 := word [(s.view.epoch.toNat, 0), (s.cfg.memberid.toNat, 16), (b2n s.cfg.managed, 22)]

/-- GEN_SVN. -/
def genSvn (s : State) : W32 :=
  word [(s.fuses.floor1, 0), (s.fuses.floor2, 8), (s.fuses.keyrev.toNat, 16), (s.fuses.keyset.toNat, 24)]

/-- GEN_POWER: the estimate in 0.1 W, the grant, the effective cap. -/
def genPower (s : State) : W32 :=
  word [(min 4095 (s.hay.power / 100000), 0), (s.hay.grant.toNat, 12), (effectiveCap s, 19)]

/-- The hottest site and its reading, the lowest Plot among equals. (DEDUCED, log entry 55) -/
def hottest (s : State) : Nat × Int :=
  (List.range 160).foldl (fun b p => let t := smGet (-160) s.hay.temps p; if b.2 < t then (p, t) else b) (0, smGet (-160) s.hay.temps 0)

/-- GEN_TEMP: the hottest site in 0.25 °C above −40 °C. (DEDUCED, log entry 55) -/
def genTemp (s : State) : W32 := word [(min 1023 ((hottest s).2 + 160).toNat, 0), ((hottest s).1, 10)]

/-- GEN_THROTTLE: the step of each Heath. -/
def genThrottle (s : State) : W32 := word ((List.range 8).map fun h => ((heathAt s h).step, 3 * h))

/-- Bits `lo` to `lo + 31` of the link ports that are Up. -/
def genLnkUp (s : State) (lo : Nat) : W32 := word ((List.range 32).map fun i => (b2n (isUp s (lo + i)), i))

/-- GEN_FABUP. -/
def genFabUp (s : State) : W32 := word ((List.range 16).map fun f => (b2n (fbOf s f).active, f))

/-- The four interrupt lines: irq_mbx, irq_err, irq_trip, irq_delta (R372). -/
def irqLines (s : State) : BitVec 4 := s.gen.intstat &&& (s.gen.inten ||| intTrip)

/-- A write to GEN_INTSTAT clears the bits written as 1; TRIP stays while TRIPACT is 1 (R375, R383). -/
def clearInt (s : State) (data : W32) : State :=
  let m : BitVec 4 := data.extractLsb' 0 4
  let m := if tripAct s then m &&& ~~~intTrip else m
  { s with gen := { s.gen with intstat := s.gen.intstat &&& ~~~m } }

/-- A write to GEN_INTEN: the bit of TRIP always reads 1 (R372). -/
def setInten (s : State) (data : W32) : State := { s with gen := { s.gen with inten := data.extractLsb' 0 4 ||| intTrip } }

/-- MBX_STATUS (R376): PEND while a BALE_COMMIT is deferred. -/
def mbxStatus (s : State) : W32 :=
  word [(b2n s.mbx.busy, 0), (b2n s.mbx.done, 1), (b2n s.mbx.ovr, 2), (b2n s.load.deferred, 3), (s.mbx.err.toNat, 16)]

/-- A write to MBX_STATUS clears DONE and OVR where it has a 1. -/
def clearMbx (s : State) (data : W32) : State :=
  { s with mbx := { s.mbx with done := s.mbx.done && !bitAt data 1, ovr := s.mbx.ovr && !bitAt data 2 } }

/-- The code of a port state (R379). -/
def portStateCode : PortState → Nat
  | .down => 0 | .training => 1 | .up => 2 | .retrain => 3 | .failed => 4

/-- The STATE word of TEL_LNK (R379): SUSP is the suspended bit of the partner. -/
def lnkState (s : State) (p : Nat) : W32 :=
  let x := portOf s p
  word [(portStateCode x.state, 0), (roleCode (roleOf s p), 3),
        (b2n (x.partnered && isSusp s x.partner.toNat), 5), (x.partner.toNat, 6)]

/-- The STATE word of TEL_FAB: ACTIVE and IDLEHELD. -/
def fabState (s : State) (f : Nat) : W32 := word [(b2n (fbOf s f).active, 0), (b2n (fbOf s f).held, 1)]

end Sys2Proof.Machine
end

