-- ==== Sys2Proof/Machine/Flash.lean ====
section
/-! DEFINITION. The commands of the flash and the event log: completion and timeout of a flash command, log programs, the
log window (R380), and the mailbox commands BANK_WRITE and BANK_STATUS. -/

namespace Sys2Proof.Machine

/-- FLASH_COMMAND_COMPLETE (R305, R307, R315, R318).  The end of the log window's read is LOG_FETCH_COMPLETE. (DESIGN CHOICE, log entry 79) -/
def execFlashCommandComplete (r : FlashRes) (s : State) : Result :=
  runningHw s fun s => flashDone s r

/-- FLASH_TIMEOUT, at 110 % of the command's maximum time: a bank write ends with a status and is logged (R306); a log command is logged and
tried again, a slot that timed out being skipped as torn. -/
def execFlashTimeout (s : State) : Result :=
  runningHw s fun s =>
    match s.flashCmd with
    | none => s
    | some c =>
      if !flashLate s c then s
      else
      let s := { s with flashCmd := none }
      let logged (s : State) : State := note s stFlashTimeout skFlash 0 []
      flashNext (match c with
        | .slotLog a d =>
          let s := logged (flashUnknown s a d.length)
          { s with log := { s.log with nextSlot := s.log.nextSlot + 1 } }
        | .eraseLog h => logged (cutFlash s (.eraseLog h))
        | .headerLog h d => let s := logged (cutFlash s (.headerLog h d)); { s with log := { s.log with otherErased := false } }
        | c => endBank (cutFlash s c) stFlashTimeout)

/-- LOG_PROGRAM: a waiting record is programmed outside sag state; a bank erase is suspended for it (R307, R319). -/
def execLogProgram (s : State) : Result :=
  runningHw s fun s =>
    match s.flashCmd with
    | none => flashNext s
    | some (.eraseBank a) =>
      match (if s.hay.sag || s.flashSusp.isSome then none else logWork { s with flashSusp := some (.eraseBank a) }) with
      | some c => startFlash { s with flashSusp := some (.eraseBank a) } c
      | none => s
    | some _ => s

/-- A write to LOG_FSEL: READY is cleared and a flash read of the selection starts, behind a command that runs (R380, R383). -/
def selectLog (s : State) (data : W32) : State :=
  flashNext { s with logWin := { block := data.extractLsb' 0 5, half := bitAt data 8, ready := false, fetching := true } }

/-- LOG_FSEL_WRITE (R380). -/
def execLogFselWrite (data : W32) (s : State) : Result := whenUp s fun s => selectLog s data

/-- Bytes of the log window (R380). -/
def windowSpan : Nat := 65536

/-- What the flash holds of the selection (R380). -/
def windowCells (s : State) : List Host.Cell :=
  let a := logAt s (b2n s.logWin.half) + windowSpan * s.logWin.block.toNat
  (s.flash.filter fun c => decide (a ≤ c.1) && decide (c.1 < a + windowSpan)).map fun c => (c.1 - a, c.2)

/-- LOG_FETCH_COMPLETE: the window holds the selection, as it is read now (R380). -/
def execLogFetchComplete (s : State) : Result :=
  runningHw s fun s =>
    if s.flashCmd = some .window then
      flashNext { s with flashCmd := none, logWin := { s.logWin with ready := true, fetching := false, held := windowCells s } }
    else s

/-- BANK_WRITE (R303 to R305, R378): accepted when no other write runs and the image lies in a slow region. (DEDUCED, log entries 42, 60) -/
def execBankWrite (a : MbxArgs) (image : List Byte) (s : State) : Result :=
  runningHw s fun s => mbxStart s 0x29 a fun s =>
    let pair := decide (2 ≤ fld (par s 0) 0 2)
    let len := (par s 3).toNat
    if !flashOk s then mbxComplete s stNotAvailable [0]
    else if s.bankWr.isSome then mbxComplete s stHBusy [0]
    else if !withinSlow s (par64 s 1).toNat len then mbxComplete s stOutOfRange [0]
    else
      let img := image.take len
      let n := img.length - 4096
      let s := mbxComplete s 0 [BitVec.ofNat 32 (b2n (targetBank s pair))]
      startBank s pair false (img.take n) (img.drop n) (hayDesc img) (rillDesc img) n

/-- BANK_STATUS (R378): idle, writing, waiting for the end of sag, or done; the status and the target. -/
def execBankStatus (a : MbxArgs) (s : State) : Result :=
  runningHw s fun s => mbxStart s 0x2A a fun s =>
    let st := if s.bankWr.isSome then (if s.hay.sag then 2 else 1) else s.bankSt
    mbxComplete s 0 [BitVec.ofNat 32 st, s.bankErr.setWidth 32, BitVec.ofNat 32 (b2n s.bankTgt)]

end Sys2Proof.Machine
end

