-- ==== Sys2Proof/Machine/Stile.lean ====
section
/-! DEFINITION. The Stile as the host sees it (R370, R374 to R380, R253): what every register reads, and the commands that are
Stile accesses without a row of their own. -/

namespace Sys2Proof.Machine

/-! ## What is served when (R348, R370) -/

/-- GEN is served from step 2 of R325 on. -/
def genServed (s : State) : Bool := decide (s.boot.phase ≠ .held)
/-- MBX is served from step 9 on, not in Retired. (DEDUCED, log entry 66) -/
def mbxServed (s : State) : Bool := decide (s.boot.phase = .running) && decide (s.fuses.lc ≠ 4)
/-- LOG is served from step 9 on. -/
def logServed (s : State) : Bool := decide (s.boot.phase = .running)

/-- Word `i` of some bytes. -/
def wordAt (l : List Byte) (i : Nat) : W32 := BitVec.ofNat 32 (leAt l (4 * i) 4)
/-- Half of a 64-bit value. -/
def lo32 (x : W64) : W32 := x.setWidth 32
def hi32 (x : W64) : W32 := (x >>> 32).setWidth 32

/-! ## Reading -/

/-- A GEN register (R375). (DEDUCED, log entry 67) -/
def genRead (s : State) (off : Nat) : W32 :=
  let up := decide (s.boot.phase = .running)
  match off with
  | 0x00 => genId s
  | 0x04 => lo32 s.fuses.uid
  | 0x08 => hi32 s.fuses.uid
  | 0x0C => genStatus s
  | 0x10 => lo32 s.chal
  | 0x14 => hi32 s.chal
  | 0x18 => if up then s.boot.fwVer else 0
  | 0x1C => if up then s.boot.mcVer else 0
  | 0x20 => genDelta s
  | 0x24 => s.setEpoch.setWidth 32
  | 0x28 => genSvn s
  | 0x30 => s.gen.intstat.setWidth 32
  | 0x34 => s.gen.inten.setWidth 32
  | 0x40 => genThrottle s
  | 0x44 => genPower s
  | 0x48 => genTemp s
  | 0x50 => BitVec.ofNat 32 s.now
  | 0x54 => s.gen.timeHi
  | 0x60 => genLnkUp s 0
  | 0x64 => genLnkUp s 32
  | 0x68 => genFabUp s
  | _ => 0

/-- An MBX register, by its offset in the region less 0x1000 (R376). -/
def mbxRead (s : State) (off : Nat) : W32 :=
  if off = 0 then word [(s.mbx.opc.toNat, 0), (s.mbx.ctag.toNat, 16)]
  else if off < 0x44 then smGet 0 s.mbx.param ((off - 4) / 4)
  else if off = 0x48 then mbxStatus s
  else if off = 0x4C then s.mbx.rtag.setWidth 32
  else if 0x50 ≤ off ∧ off < 0x90 then smGet 0 s.mbx.result ((off - 0x50) / 4)
  else if off = 0x90 then s.mbx.wflag
  else if off = 0x94 then s.mbx.hflag
  else 0

/-- WEIR_STAT (R253). -/
def weirStat (s : State) (w : Nat) : W32 :=
  let x := weirOf s w
  word [(min 4095 x.queue.length, 0), ((weirOwner s w).getD 0, 12), (b2n (weirOwner s w).isSome, 18), (b2n x.bound.isSome, 19),
        (b2n (x.holds.any (holdForce s)), 20)]

/-- WEIR_SSTAT (R253). -/
def sluiceStat (s : State) (i : Nat) : W32 :=
  let x := sluiceOf s i
  word [(x.gen.toNat, 0), (b2n x.arrival.isSome, 16), (b2n (sluiceOwner s i).isSome, 17), ((sluiceOwner s i).getD 0, 18),
        (min 15 (sluiceWaiters x).length, 24)]

/-- A Sluice's registers, by word (R253). -/
def sluiceRead (s : State) (i k : Nat) : W32 :=
  let x := sluiceOf s i
  match k with
  | 0 => sluiceStat s i
  | 1 => lo32 (x.cur.mask.getD 0)
  | 2 => hi32 (x.cur.mask.getD 0)
  | 3 => lo32 x.cur.arrived
  | 4 => hi32 x.cur.arrived
  | 5 => lo32 x.nxt.arrived
  | 6 => hi32 x.nxt.arrived
  | _ => match x.arrival with | some a => BitVec.ofNat 32 (usLeft s a.deadline) | none => 0

/-- The detail window, by its offset less 0x3F000 (R253, R254). -/
def detailRead (s : State) (off : Nat) : W32 :=
  let d := s.det
  if off = 0 then word [(d.obj.toNat, 0), (b2n d.slu, 16)]
  else if off = 4 then d.dval
  else if off = 8 then word [(d.nwait, 0), (d.shown.length, 16)]
  else if off = 0xC then word [(d.last.kind.toNat, 0), (d.last.eng.toNat, 2), (d.last.agent.toNat, 8)]
  else if off = 0x10 then d.last.sigseq
  else if 0x20 ≤ off ∧ off < 0xA0 then
    match d.shown[(off - 0x20) / 16]? with
    | some (a, t, n, us) =>
      if off % 16 = 0 then word [(a.toNat, 0), (t.toNat, 16)]
      else if off % 16 = 4 then n
      else if off % 16 = 8 then BitVec.ofNat 32 us
      else 0
    | none => 0
  else 0

/-- A register of the WEIR region, by its offset less 0x10000. -/
def weirRead (s : State) (off : Nat) : W32 :=
  if off < 0x20000 then (if off % 8 = 0 then (weirOf s (off / 8)).val else weirStat s (off / 8))
  else if off < 0x22000 then sluiceRead s ((off - 0x20000) / 32) (off % 32 / 4)
  else if 0x2F000 ≤ off then detailRead s (off - 0x2F000)
  else 0

/-- The TEL counters that exist: link ports, fabric ports, tenants, the engine (R379). -/
def isCounter (off : Nat) : Bool :=
  if off % 4 ≠ 0 then false
  else if 0x40000 ≤ off ∧ off < 0x41000 then decide (off % 64 ≠ 0)
  else if 0x41000 ≤ off ∧ off < 0x41400 then decide (off % 64 ≠ 0) && decide (off % 64 < 32)
  else if 0x42000 ≤ off ∧ off < 0x46000 then decide (off % 256 < 100)
  else decide (0x46000 ≤ off) && decide (off < 0x4602C)

/-- A register of the TEL region. -/
def telRead (s : State) (off : Nat) : W32 :=
  if 0x40000 ≤ off ∧ off < 0x41000 ∧ off % 64 = 0 then lnkState s ((off - 0x40000) / 64)
  else if 0x41000 ≤ off ∧ off < 0x41400 ∧ off % 64 = 0 then fabState s ((off - 0x41000) / 64)
  else if isCounter off then smGet 0 s.tel off
  else 0

/-- A ring slot reads as zero until it is used (R380). -/
def ringBytes (s : State) (i : Nat) : List Byte :=
  let r := smGet {} s.log.ring i
  if r = {} then zeros 64 else encodeLog r

/-- The bytes of a window slot, as the fetch has read them; zero while READY is 0 (R380). -/
def windowBytes (s : State) (i : Nat) : List Byte :=
  if s.logWin.ready then memRead 0xFF s.logWin.held (64 * i) 64 else zeros 64

/-- A register of the LOG region, by its offset less 0x80000 (R380). -/
def logRead (s : State) (off : Nat) : W32 :=
  if off = 0 then s.log.nextSeq - 1
  else if off = 4 then word [(s.log.newPos, 0), ((unwritten s.log).length, 11)]
  else if off = 8 then s.log.drops
  else if off = 0x10 then word [(s.logWin.block.toNat, 0), (b2n s.logWin.half, 8)]
  else if off = 0x14 then word [(b2n s.logWin.ready, 0), (s.log.actHalf, 1)]
  else if 0x20000 ≤ off ∧ off < 0x40000 then wordAt (ringBytes s ((off - 0x20000) / 64)) (off % 64 / 4)
  else if 0x40000 ≤ off ∧ off < 0x50000 then wordAt (windowBytes s ((off - 0x40000) / 64)) (off % 64 / 4)
  else 0

/-- What a Stile read returns, without the effects of the read (R374). (DESIGN CHOICE, log entry 73) -/
def stileRead (s : State) (off : Nat) : W32 :=
  if off % 4 ≠ 0 then 0
  else if off < 0x1000 then (if genServed s then genRead s off else 0)
  else if off < 0x10000 then (if mbxServed s then mbxRead s (off - 0x1000) else 0)
  else if off < 0x40000 then (if dataServed s then weirRead s (off - 0x10000) else 0)
  else if off < 0x80000 then (if dataServed s then telRead s off else 0)
  else if off < 0x100000 then (if logServed s then logRead s (off - 0x80000) else 0)
  else 0

/-! ## Commands -/

/-- The answer to a Stile read. (DESIGN CHOICE, log entry 73) -/
def stileAnswer (s : State) (v : W32) : State := emit s (.stile v)

/-- TEL_COUNTER_READ: the value, and the counter cleared (R379); a word that is no counter keeps its value. (DESIGN CHOICE, log entry 73) -/
def execTelCounterRead (off : Nat) (s : State) : Result :=
  .next (let s' := stileAnswer s (stileRead s off)
    if dataServed s && isCounter off then { s' with tel := smSet 0 s'.tel off 0 } else s')

/-- GEN_TIMELO_READ: the low half of the timer, and GEN_TIMEHI captured (R375). (DESIGN CHOICE, log entry 73) -/
def execGenTimeloRead (s : State) : Result :=
  .next (let s' := stileAnswer s (stileRead s 0x50)
    if genServed s then { s' with gen := { s'.gen with timeHi := BitVec.ofNat 32 (s.now / 4294967296) } } else s')

/-- A write to MBX_CMD, MBX_PARAM or MBX_DOORBELL (R376, R377): ignored with OVR while a command runs or HWRDY is 0.  What GO starts is not
done here. -/
def mbxWrite (s : State) (off : Nat) (data : W32) : State :=
  if s.mbx.busy || !s.boot.hwrdy then { s with mbx := { s.mbx with ovr := true } }
  else if off = 0 then { s with mbx := { s.mbx with opc := data.extractLsb' 0 8, ctag := data.extractLsb' 16 16 } }
  else if off < 0x44 then { s with mbx := { s.mbx with param := smSet 0 s.mbx.param ((off - 4) / 4) data } }
  else s

/-- A Stile write under the register's access code (R10, R370, R374). (DESIGN CHOICE, log entry 72) -/
def stileWrite (s : State) (off : Nat) (data : W32) : State :=
  if !genServed s || decide (off % 4 ≠ 0) then s
  else if off = 0x30 then clearInt s data
  else if off = 0x34 then setInten s data
  else if 0x1000 ≤ off ∧ off ≤ 0x1044 ∧ s.fuses.lc ≠ 4 then mbxWrite s (off - 0x1000) data
  else if off = 0x1048 ∧ mbxServed s then clearMbx s data
  else if off = 0x1094 ∧ mbxServed s then { s with mbx := { s.mbx with hflag := data } }
  else if off = 0x3F000 ∧ dataServed s then selectDetail s data
  else if off = 0x80010 ∧ logServed s then selectLog s data
  else s

end Sys2Proof.Machine
end

