-- ==== Sys2Proof/Machine/Doorbell.lean ====
section
/-! DEFINITION. The doorbell of the mailbox: the command that GO starts from the registers as they stand, register writes of the Stile,
and codes that name no command (R366, R374, R377, R378). -/

namespace Sys2Proof.Machine

/-- The command codes of R378. -/
def knownCodes : List Byte :=
  [0x01, 0x02, 0x03, 0x04, 0x08, 0x09, 0x0A, 0x0B, 0x10, 0x11, 0x12, 0x13, 0x14, 0x18, 0x19, 0x20, 0x21, 0x22, 0x28, 0x29, 0x2A,
   0x30, 0x31]

/-- UNKNOWN_COMMAND: an unknown code, or one that fenced boot does not serve (R377, R378).  A known code that is served is its own
row's command. -/
def execUnknownCommand (opc : Byte) (a : MbxArgs) (s : State) : Result :=
  runningHw s fun s =>
    if knownCodes.contains opc && !(s.boot.fenced && !fencedCodes.contains opc) then s
    else mbxStart s opc a fun s => mbxComplete s stUnknownCommand []

/-- The command that a 1 written to GO starts, with MBX_CMD and MBX_PARAM as they stand (R377).  BALE_LOAD, BANK_WRITE, LC_REQUEST and
KEY_PROGRAM read host memory, whose bytes come with their own rows: GO alone starts none of them. (DESIGN CHOICE, log entry 72) -/
def execDoorbell (s : State) : Result :=
  let a : MbxArgs := { ctag := s.mbx.ctag, par := [] }
  match s.mbx.opc.toNat with
  | 0x01 => execObjQuery a s
  | 0x02 => execObjMove a s
  | 0x03 => execSlowGrant a s
  | 0x04 => execSlowRelease a s
  | 0x08 | 0x29 | 0x30 | 0x31 => .next s
  | 0x09 => execBaleCommit a s
  | 0x0A => execBaleAbort a s
  | 0x0B => execBaleStatus a s
  | 0x10 => execFenRead a s
  | 0x11 => execFenInvalidate a s
  | 0x12 => execFenWrite a s
  | 0x13 => execFenInsert a s
  | 0x14 => execFenMask a s
  | 0x18 => execCalibRead a s
  | 0x19 => execCalibClear a s
  | 0x20 => execTenantReset a s
  | 0x21 => execDeltaSet a s
  | 0x22 => execPortReset a s
  | 0x28 => execCfgRead a s
  | 0x2A => execBankStatus a s
  | _ => execUnknownCommand s.mbx.opc a s

/-- The write sets GO: it reaches the doorbell, and no command runs (R377). -/
def rings (s : State) (off : Nat) (data : W32) : Bool :=
  decide (off = 0x1044) && bitAt data 0 && genServed s && decide (s.fuses.lc ≠ 4) && !s.mbx.busy && s.boot.hwrdy

/-- REGISTER_WRITE: the register's access code says what it changes; the answer is zero data (R366). -/
def execRegisterWrite (off : Nat) (data : W32) (s : State) : Result :=
  let s := stileAnswer s 0
  if rings s off data then execDoorbell s else .next (stileWrite s off data)

end Sys2Proof.Machine
end

