-- ==== Sys2Proof/Machine/Dispatch.lean ====
section
/-! DEFINITION. The dispatch of a command to its meaning: one arm per constructor of Instr, in the order of the table. -/

namespace Sys2Proof.Machine

/-- The effect of a command on everything but the queue. -/
def exec (i : Instr) (s : State) : Host.Outcome State Fault Refusal :=
  match i with
  | .porNRelease sfdp => Sys2Proof.Machine.execPorNRelease sfdp s
  | .warmNReset sfdp => Sys2Proof.Machine.execWarmNReset sfdp s
  | .farWipeComplete => Sys2Proof.Machine.execFarWipeComplete s
  | .haywardFirmwareStart => Sys2Proof.Machine.execHaywardFirmwareStart s
  | .partitionTimeout => Sys2Proof.Machine.execPartitionTimeout s
  | .lnkLockRise p => Sys2Proof.Machine.execLnkLockRise p s
  | .lnkLockFall p => Sys2Proof.Machine.execLnkLockFall p s
  | .fecUncorrectable p => Sys2Proof.Machine.execFecUncorrectable p s
  | .helloRepeat p => Sys2Proof.Machine.execHelloRepeat p s
  | .trainingTimeout p => Sys2Proof.Machine.execTrainingTimeout p s
  | .retrainTimeout p => Sys2Proof.Machine.execRetrainTimeout p s
  | .failedPortReset p => Sys2Proof.Machine.execFailedPortReset p s
  | .hello p f => Sys2Proof.Machine.execHello p f s
  | .dataFrame p f => Sys2Proof.Machine.execDataFrame p f s
  | .strayBodyFlit p => Sys2Proof.Machine.execStrayBodyFlit p s
  | .ack p f => Sys2Proof.Machine.execAck p f s
  | .nak p f => Sys2Proof.Machine.execNak p f s
  | .credit p f => Sys2Proof.Machine.execCredit p f s
  | .replayTimer p => Sys2Proof.Machine.execReplayTimer p s
  | .episodeTimeout p => Sys2Proof.Machine.execEpisodeTimeout p s
  | .linkFrameSend p cls => Sys2Proof.Machine.execLinkFrameSend p cls s
  | .fencedHandover p => Sys2Proof.Machine.execFencedHandover p s
  | .fencedRouteRelease m => Sys2Proof.Machine.execFencedRouteRelease m s
  | .class0ReserveRelease e => Sys2Proof.Machine.execClass0ReserveRelease e s
  | .poolAllocate => Sys2Proof.Machine.execPoolAllocate s
  | .admission p => Sys2Proof.Machine.execAdmission p s
  | .intakeLaneRead c => Sys2Proof.Machine.execIntakeLaneRead c s
  | .mergeWave c => Sys2Proof.Machine.execMergeWave c s
  | .fenSearch pl => Sys2Proof.Machine.execFenSearch pl s
  | .fenFirstMatchResult => Sys2Proof.Machine.execFenFirstMatchResult s
  | .fenCountResult => Sys2Proof.Machine.execFenCountResult s
  | .rillDispatch rills => Sys2Proof.Machine.execRillDispatch rills s
  | .rillProgramComplete prog out => Sys2Proof.Machine.execRillProgramComplete prog out s
  | .fabricTokens fb tenant lport stag ids => Sys2Proof.Machine.execFabricTokens fb tenant lport stag ids s
  | .hedgeStep c => Sys2Proof.Machine.execHedgeStep c s
  | .outflowToken c => Sys2Proof.Machine.execOutflowToken c s
  | .firstStageStep c => Sys2Proof.Machine.execFirstStageStep c s
  | .deepTick t => Sys2Proof.Machine.execDeepTick t s
  | .deepPassStart t k => Sys2Proof.Machine.execDeepPassStart t k s
  | .deepPassOverrun t k => Sys2Proof.Machine.execDeepPassOverrun t k s
  | .streamDeadline c => Sys2Proof.Machine.execStreamDeadline c s
  | .calibFlush => Sys2Proof.Machine.execCalibFlush s
  | .fenBankOp b => Sys2Proof.Machine.execFenBankOp b s
  | .fenOpComplete b => Sys2Proof.Machine.execFenOpComplete b s
  | .fenScrub => Sys2Proof.Machine.execFenScrub s
  | .heathCurrentStretch n mA => Sys2Proof.Machine.execHeathCurrentStretch n mA s
  | .stretchRelease n => Sys2Proof.Machine.execStretchRelease n s
  | .throttleStepTick obs => Sys2Proof.Machine.execThrottleStepTick obs s
  | .powerEstimate obs => Sys2Proof.Machine.execPowerEstimate obs s
  | .thermalTrip site => Sys2Proof.Machine.execThermalTrip site s
  | .tripClear => Sys2Proof.Machine.execTripClear s
  | .powerGrantChange w => Sys2Proof.Machine.execPowerGrantChange w s
  | .sagEntry => Sys2Proof.Machine.execSagEntry s
  | .sagExit => Sys2Proof.Machine.execSagExit s
  | .brookLockLost b => Sys2Proof.Machine.execBrookLockLost b s
  | .plotSupplyFault pl => Sys2Proof.Machine.execPlotSupplyFault pl s
  | .rillPowerDown n => Sys2Proof.Machine.execRillPowerDown n s
  | .rillPowerUp n => Sys2Proof.Machine.execRillPowerUp n s
  | .watchdogExpiry => Sys2Proof.Machine.execWatchdogExpiry s
  | .haywardSramError => Sys2Proof.Machine.execHaywardSramError s
  | .flashCommandComplete r => Sys2Proof.Machine.execFlashCommandComplete r s
  | .flashTimeout => Sys2Proof.Machine.execFlashTimeout s
  | .logProgram => Sys2Proof.Machine.execLogProgram s
  | .signal fb tenant op => Sys2Proof.Machine.execSignal fb tenant op s
  | .wait fb tenant op => Sys2Proof.Machine.execWait fb tenant op s
  | .decrement fb tenant op => Sys2Proof.Machine.execDecrement fb tenant op s
  | .read fb tenant op => Sys2Proof.Machine.execRead fb tenant op s
  | .set fb tenant op => Sys2Proof.Machine.execSet fb tenant op s
  | .bind fb tenant op => Sys2Proof.Machine.execBind fb tenant op s
  | .remoteSignal fb tenant op => Sys2Proof.Machine.execRemoteSignal fb tenant op s
  | .resignal fb tenant op => Sys2Proof.Machine.execResignal fb tenant op s
  | .sluiceArrive fb tenant op => Sys2Proof.Machine.execSluiceArrive fb tenant op s
  | .sluiceWait fb tenant op => Sys2Proof.Machine.execSluiceWait fb tenant op s
  | .linkSignal p => Sys2Proof.Machine.execLinkSignal p s
  | .linkAck p => Sys2Proof.Machine.execLinkAck p s
  | .linkArrive p => Sys2Proof.Machine.execLinkArrive p s
  | .linkReject p => Sys2Proof.Machine.execLinkReject p s
  | .waiterDeadline => Sys2Proof.Machine.execWaiterDeadline s
  | .sluiceArrivalDeadline sl => Sys2Proof.Machine.execSluiceArrivalDeadline sl s
  | .visibilityHoldRelease fb => Sys2Proof.Machine.execVisibilityHoldRelease fb s
  | .tagQuarantineExpiry => Sys2Proof.Machine.execTagQuarantineExpiry s
  | .completionTimeout t => Sys2Proof.Machine.execCompletionTimeout t s
  | .weirDselWrite data => Sys2Proof.Machine.execWeirDselWrite data s
  | .dmaTransferComplete ch r => Sys2Proof.Machine.execDmaTransferComplete ch r s
  | .moveSourceFree obj => Sys2Proof.Machine.execMoveSourceFree obj s
  | .objectReload obj img unread => Sys2Proof.Machine.execObjectReload obj img unread s
  | .memoryReadResponse mp tag last err => Sys2Proof.Machine.execMemoryReadResponse mp tag last err s
  | .memoryWriteResponse mp tag err => Sys2Proof.Machine.execMemoryWriteResponse mp tag err s
  | .contentCompletion tag last status => Sys2Proof.Machine.execContentCompletion tag last status s
  | .contentWriteAck tag => Sys2Proof.Machine.execContentWriteAck tag s
  | .baleLoadEnd => Sys2Proof.Machine.execBaleLoadEnd s
  | .setEpochSwitch => Sys2Proof.Machine.execSetEpochSwitch s
  | .fabricPass fb tenant eng csf fence payload => Sys2Proof.Machine.execFabricPass fb tenant eng csf fence payload s
  | .fabricData fb fl => Sys2Proof.Machine.execFabricData fb fl s
  | .fabricFhcrcFail fb => Sys2Proof.Machine.execFabricFhcrcFail fb s
  | .fabricCreditReturn fb cls cnt => Sys2Proof.Machine.execFabricCreditReturn fb cls cnt s
  | .fabricCreditTimeout fb => Sys2Proof.Machine.execFabricCreditTimeout fb s
  | .fabricPortResetTimer fb => Sys2Proof.Machine.execFabricPortResetTimer fb s
  | .mctpMessage msg => Sys2Proof.Machine.execMctpMessage msg s
  | .setEndpointId eid => Sys2Proof.Machine.execSetEndpointId eid s
  | .getEndpointId => Sys2Proof.Machine.execGetEndpointId s
  | .getEndpointUuid => Sys2Proof.Machine.execGetEndpointUuid s
  | .getMctpVersionSupport => Sys2Proof.Machine.execGetMctpVersionSupport s
  | .getMessageTypeSupport => Sys2Proof.Machine.execGetMessageTypeSupport s
  | .getVersion => Sys2Proof.Machine.execGetVersion s
  | .getCapabilities => Sys2Proof.Machine.execGetCapabilities s
  | .negotiateAlgorithms offersP384 offersSha384 => Sys2Proof.Machine.execNegotiateAlgorithms offersP384 offersSha384 s
  | .getDigests => Sys2Proof.Machine.execGetDigests s
  | .getCertificate slot off len => Sys2Proof.Machine.execGetCertificate slot off len s
  | .challenge slot nonce => Sys2Proof.Machine.execChallenge slot nonce s
  | .getMeasurements idx signed nonce => Sys2Proof.Machine.execGetMeasurements idx signed nonce s
  | .setEventReceiver enable receiver => Sys2Proof.Machine.execSetEventReceiver enable receiver s
  | .pldmSensorRead sensor => Sys2Proof.Machine.execPldmSensorRead sensor s
  | .platformEventRetry => Sys2Proof.Machine.execPlatformEventRetry s
  | .pldmFirmwareUpdate comp trailer descs bodyLen => Sys2Proof.Machine.execPldmFirmwareUpdate comp trailer descs bodyLen s
  | .requestFirmwareData off data => Sys2Proof.Machine.execRequestFirmwareData off data s
  | .activateFirmware selfContained => Sys2Proof.Machine.execActivateFirmware selfContained s
  | .objQuery a => Sys2Proof.Machine.execObjQuery a s
  | .objMove a => Sys2Proof.Machine.execObjMove a s
  | .slowGrant a => Sys2Proof.Machine.execSlowGrant a s
  | .slowRelease a => Sys2Proof.Machine.execSlowRelease a s
  | .baleLoad a img => Sys2Proof.Machine.execBaleLoad a img s
  | .baleCommit a => Sys2Proof.Machine.execBaleCommit a s
  | .baleAbort a => Sys2Proof.Machine.execBaleAbort a s
  | .baleStatus a => Sys2Proof.Machine.execBaleStatus a s
  | .fenRead a => Sys2Proof.Machine.execFenRead a s
  | .fenInvalidate a => Sys2Proof.Machine.execFenInvalidate a s
  | .fenWrite a => Sys2Proof.Machine.execFenWrite a s
  | .fenInsert a => Sys2Proof.Machine.execFenInsert a s
  | .fenMask a => Sys2Proof.Machine.execFenMask a s
  | .calibRead a => Sys2Proof.Machine.execCalibRead a s
  | .calibClear a => Sys2Proof.Machine.execCalibClear a s
  | .tenantReset a => Sys2Proof.Machine.execTenantReset a s
  | .deltaSet a => Sys2Proof.Machine.execDeltaSet a s
  | .portReset a => Sys2Proof.Machine.execPortReset a s
  | .cfgRead a => Sys2Proof.Machine.execCfgRead a s
  | .bankWrite a image => Sys2Proof.Machine.execBankWrite a image s
  | .bankStatus a => Sys2Proof.Machine.execBankStatus a s
  | .lcRequest a buf => Sys2Proof.Machine.execLcRequest a buf s
  | .keyProgram a buf => Sys2Proof.Machine.execKeyProgram a buf s
  | .unknownCommand opc a => Sys2Proof.Machine.execUnknownCommand opc a s
  | .telCounterRead off => Sys2Proof.Machine.execTelCounterRead off s
  | .genTimeloRead => Sys2Proof.Machine.execGenTimeloRead s
  | .logFselWrite data => Sys2Proof.Machine.execLogFselWrite data s
  | .logFetchComplete => Sys2Proof.Machine.execLogFetchComplete s
  | .registerWrite off data => Sys2Proof.Machine.execRegisterWrite off data s
  | .porNAssert => Sys2Proof.Machine.execPorNAssert s
  | .partitionReady shares => Sys2Proof.Machine.execPartitionReady shares s
  | .brookLockRegained b => Sys2Proof.Machine.execBrookLockRegained b s
  | .fuseProgramComplete => Sys2Proof.Machine.execFuseProgramComplete s
  | .jtagAccess op => Sys2Proof.Machine.execJtagAccess op s
  | .fabricUnknownOperation fb tenant opc op => Sys2Proof.Machine.execFabricUnknownOperation fb tenant opc op s
  | .fabricReservedFlit fb bad => Sys2Proof.Machine.execFabricReservedFlit fb bad s
  | .portResetRelease fabric n => Sys2Proof.Machine.execPortResetRelease fabric n s

end Sys2Proof.Machine
end

