-- ==== Sys2Proof/Machine/Step.lean ====
section
/-! DEFINITION. The step of the block: the command at the front of the queue, or, on an empty queue, one nanosecond of the
timer (log entry 2). -/

namespace Sys2Proof.Machine

/-- One nanosecond passes (R291).  The timer stands while por_n is asserted. (DESIGN CHOICE, log entry 2) -/
def tick (s : State) : State := if s.boot.porLow then s else { s with now := s.now + 1 }

/-- One step: the front command's effect with the rest of the queue; on an empty queue the timer ticks. (DESIGN CHOICE, log entries 1, 2, 75) -/
def step (s : State) : Host.Outcome State Fault Refusal :=
  match s.pending with
  | [] => .next (tick s)
  | c :: r => exec c { s with pending := r }

/-- The state with a command put at the front of its queue. -/
def State.withFront (s : State) (c : Instr) : State := { s with pending := c :: s.pending }

/-- The state with the command that a word spells at the front; no row of the table gives bits, so no word spells one. (DESIGN CHOICE, log entry 1) -/
def State.withFetchWord (s : State) (nbits w : Nat) : State :=
  match decodeTableWord nbits w with
  | some c => s.withFront c
  | none => s

end Sys2Proof.Machine
end

