-- ==== Sys2Proof/Machine/HwMap.lean ====
section
/-! DEFINITION. The address map of the Hayward core (R290).  No row of the table is an access of the core: what its firmware does is the
effect of the commands. (DEDUCED, log entry 89) -/

namespace Sys2Proof.Machine

/-- What stands behind a range of the core's addresses (R290). -/
inductive HwRegion where
  | bootRom
  | sram
  | heath (h : Nat)
  | sensorHub
  | controllers       -- SPI flash controller, management bus controller, watchdog, timer
  | stile
  | hub
  deriving DecidableEq, Repr

/-- The map of R290: each range with its base and its size. -/
def hwMap : List (HwRegion × Nat × Nat) :=
  [(.bootRom, 0x00000000, 0x00010000), (.sram, 0x10000000, 0x00080000)] ++
  ((List.range 8).map fun h => (HwRegion.heath h, 0x20000000 + 0x1000 * h, 0x1000)) ++
  [(.sensorHub, 0x20010000, 0x00010000), (.controllers, 0x20020000, 0x00010000), (.stile, 0x20100000, 0x00100000),
   (.hub, 0x40000000, 0x40000000)]

/-- The range that holds an address, and the offset in it; none outside the map. -/
def hwAt (a : W32) : Option (HwRegion × Nat) :=
  (hwMap.find? fun x => decide (x.2.1 ≤ a.toNat) && decide (a.toNat < x.2.1 + x.2.2)).map fun x => (x.1, a.toNat - x.2.1)

/-- An access of the core, and whether it raises an access fault: outside the map it does, and has no effect (R290). -/
def coreAccess (inside : HwRegion → Nat → State → State) (a : W32) (s : State) : State × Bool :=
  match hwAt a with
  | some (r, o) => (inside r o s, false)
  | none => (s, true)

end Sys2Proof.Machine
end

