-- ==== Sys2Proof/Safety.lean ====
section
/-! DEFINITION. The words that claims use: when the block acts, when its mailbox takes a command and how it has answered, and the
invariant that a safe run keeps. -/

namespace Sys2Proof.Machine

/-- The engine is not held in reset (R40, R370), and the clock generators of the Hub and of the Hayward Brook are locked (R21). -/
abbrev Alive (s : State) : Prop := s.boot.phase ≠ .held ∧ lockedOn s 34 = true ∧ lockedOn s 35 = true

/-- The clock generator of Brook `b` is locked too (R21). -/
abbrev AliveOn (s : State) (b : Nat) : Prop := Alive s ∧ lockedOn s b = true

/-- R325 has finished. -/
abbrev Up (s : State) : Prop := s.boot.phase = .running ∧ lockedOn s 34 = true ∧ lockedOn s 35 = true

/-- The Hayward firmware runs: its core does not restart (R292). -/
abbrev FirmUp (s : State) : Prop := s.hay.firmRun = true

/-- The mailbox takes the next doorbell, and every command is served (R348, R377, R378). -/
abbrev MailboxFree (s : State) : Prop :=
  s.fuses.lc ≠ 4 ∧ s.mbx.busy = false ∧ s.boot.hwrdy = true ∧ s.boot.fenced = false

/-- The mailbox shows the completion of a command with CTAG `tag` and a code (R377). -/
abbrev Answered (t : State) (tag err : W16) : Prop :=
  t.mbx.busy = false ∧ t.mbx.done = true ∧ t.mbx.err = err ∧ t.mbx.rtag = tag ∧ t.gen.intstat.getLsbD 0 = true

/-- Parameter register `i` once the words of a mailbox command have been written (R376): PARAM0 to PARAM15 keep what the words do not
cover. -/
def argOf (s : State) (a : MbxArgs) (i : Nat) : W32 := if i < 16 then a.par.getD i (smGet 0 s.mbx.param i) else smGet 0 s.mbx.param i

/-- Two parameter registers as one number, low word first (R378). -/
def argOf64 (s : State) (a : MbxArgs) (i : Nat) : W64 := (argOf s a (i + 1)).append (argOf s a i)

/-- The mailbox shows the completion of the command that runs. -/
abbrev Finished (s t : State) (err : W16) : Prop := Answered t s.mbx.ctag err

/-- RESULT register `i` of the mailbox. -/
def resultReg (t : State) (i : Nat) : W32 := smGet 0 t.mbx.result i

/-- Two states whose parts numbered from `lo` to below `hi` read the same. -/
def plotsSame (s t : State) (lo hi : Nat) : Prop := ∀ n, lo ≤ n → n < hi → plotOf t n = plotOf s n

/-! ## What leaves through the fabric ports -/

/-- How often a flit has left a fabric port, waits there, or is a COMPLETE held back there (R245). -/
def flitCount (s : State) (fb : Nat) (x : FbFlit) : Nat :=
  let p := fbOf s fb
  s.out.count (.fabric fb x) + p.q0.count x + p.q1.count x + p.q2.count x + (p.heldC.map (·.flit)).count x

/-- Fabric port `fb` has got the flit `x` once more, and no fabric port has got or lost anything else. -/
def Sends (s t : State) (fb : Nat) (x : FbFlit) : Prop :=
  ∀ f y, flitCount t f y = flitCount s f y + if f = fb ∧ y = x then 1 else 0

/-- No fabric port has got or lost a flit. -/
def SendsNone (s t : State) : Prop := ∀ f y, flitCount t f y = flitCount s f y

/-- A fabric port takes an operation: its reset is released, it is not held, its io Brook has its clock (R21, R359, R363). -/
abbrev OpTaken (s : State) (fb : Nat) : Prop :=
  Alive s ∧ fbLive (fbOf s fb) = true ∧ lockedOn s (24 + fb / 4) = true

/-- The COMPLETE of an operation body (R235). -/
def opDone (tenant : BitVec 6) (op : OpBody) (opc : Byte) (status : W16) (n : W32) (mask : W64) : FbFlit :=
  completeFlit tenant { obj := opObj op, tag := opTag op, agent := opAgent op, status := status, opc := opc, n := n, mask := mask }

/-- The COMPLETE of a waiter on object `obj` (R235). -/
def waiterDone (obj : Nat) (w : Waiter) (status : W16) (rip : Bool) (n : W32) (mask : W64) : FbFlit :=
  completeFlit w.tenant { obj := BitVec.ofNat 14 obj, tag := w.tag, agent := w.agent, status := status, rip := rip, opc := w.opc,
                          n := n, mask := mask }

/-- The first Weir-layer frame that a link port has handed to the Hub, when it carries the code `opc` (R47, R233). -/
abbrev HubHas (s : State) (p : Nat) (opc : Byte) (arr : Nat) (f : Frame) : Prop :=
  Alive s ∧ f.csf.setWidth 8 = opc ∧ (portOf s p).hubOps.head? = some (arr, f)

/-- The state once the Hub has taken the operation at the head of a link port's class-0 lane: the flits that wait behind it move up (R24). -/
def hubTaken (s : State) (p : Nat) : State := settleC0 (modPort s p fun x => { x with hubOps := x.hubOps.drop 1 })

/-- The one frame that answers an SOS frame without a stream of its own with a record (R73, R87, R91). -/
def recordFrame (s : State) (f : Frame) (r : VRecord) : Frame :=
  { cls := 1, eos := true, src := s.cfg.memberid, dst := f.src, tenant := f.tenant, c1kind := 1, epoch := s.view.epoch,
    csf := f.csf, payload := encodeRecord r, origin := .stream 65536 }

/-- The link-control frame that a port sends: inserted, with the engine's ID and epoch, and an acknowledgement SEQ (R45, R46, R48). -/
def controlOut (s : State) (p kind : Nat) (ackseq : BitVec 12) (payload : List Byte) : Output :=
  .link p (encodeFrame { src := s.cfg.memberid, epoch := s.view.epoch, payload := payload } kind
    (decide (kind = kAck) || decide (kind = kCredit)) 0 0 ackseq 0) true

/-- The Hello that a port sends with the receive space `free` (R54, R60, R386): its acknowledgement SEQ is the next one expected. -/
def helloOut (s : State) (p : Nat) (hup : Bool) (free : Cr4) (next : BitVec 12) : Output :=
  controlOut s p kHello next
    (encodeHello free s.cfg.deltaid s.cfg.memberid (decide (roleOf s p = .peer)) hup s.view.epoch s.log.boot)

/-- From `u` to `t` the management endpoint has sent a message: over the bus, or, for a request that came in a class-3 frame, in class-3
frames to its sender, a packet of the link's transmission unit in each (R320).  Without a route back the frames are lost, and logged (R61). -/
def MgmtAnswers (via : Option MgmtIn) (m : MgmtOut) (u t : State) : Prop :=
  match via with
  | none => t = { u with out := u.out ++ [.mgmt busUnit m] }
  | some v =>
    t = { u with ports := t.ports, tel := t.tel, log := t.log, gen := t.gen, mgmt := t.mgmt, out := t.out } ∧
    (keepsRoute u v.port = true → t = { u with ports := t.ports } ∧ (∀ q, q ≠ v.port → portOf t q = portOf u q) ∧
      portOf t v.port = { portOf u v.port with txq := (portOf u v.port).txq ++ (chunksOf linkUnit (mgmtBytes m)).map fun l =>
        { cls := 3, src := u.cfg.memberid, dst := v.src, tenant := v.tenant, epoch := u.view.epoch, payload := l, origin := .mgmt } })

/-- A state lets a fuse program only move the lifecycle one step onward (R349, R352). -/
def fuseOnward (lc : Nat) : Option FuseOp → Bool
  | some (.advance t) => decide (t = lc + 1) && decide (t ≤ 4)
  | _ => true

/-- What every safe run keeps: the lifecycle is one of the five and any fuse program goes one onward (R349), the enable bit of
TRIP reads 1 (R372), and the byte memories are in canonical form. -/
abbrev Inv (s : State) : Prop :=
  s.fuses.lc ≤ 4 ∧ fuseOnward s.fuses.lc s.fuseOp = true ∧ fuseOnward s.fuses.lc s.fuseWait = true ∧
  s.gen.inten.getLsbD 2 = true ∧ memWfAt farInit 0 s.far = true ∧ memWf 0xFF s.flash = true

end Sys2Proof.Machine
end

