-- ==== Sys2Proof/Certificates/Slice0/Obligations.lean ====
section
/-! DEFINITION. The statements for the provers, each with the rules of spec/ that it formalises.  `Alive` and `Up` are in Safety. -/

open Sys2Proof Sys2Proof.Machine

/-! ## The block as a whole -/

/-- A step with a command at the front of the queue is that command's effect with the rest of the queue.  The queue is the model's own.
On an empty queue one nanosecond passes (R291), while por_n is not asserted.  That a step without a command is one nanosecond is the
model's choice (log entry 2).
A command never touches the queue of waiting commands. -/
def Obligations.StepOfBlock : Prop :=
  ((∀ (s : State) (c : Instr) (r : List Instr), step { s with pending := c :: r } = exec c { s with pending := r }) ∧
  (∀ (s : State), s.pending = [] → step s = .next (if s.boot.porLow then s else { s with now := s.now + 1 }))) ∧
  (∀ (s t : State) (c : Instr), exec c s = .next t → t.pending = s.pending)

/-- R232, R257, R370: after reset the engine is held, every Weir is 0 and every Sluice idle at generation 0, windows, counters, tables and both
mailbox flags are empty, no Plot is powered and the timer is 0.
Where the manual gives no reset value, that of the model is its choice (log entry 7).
The invariant of `StepKeepsInvariant` holds at reset. -/
def Obligations.ResetState : Prop :=
  (State.reset.boot.phase = .held ∧ State.reset.boot.porLow = true ∧ State.reset.pending = [] ∧ State.reset.now = 0 ∧
  (∀ w, (weirOf State.reset w).val = 0 ∧ (weirOf State.reset w).queue = []) ∧
  (∀ i, (sluiceOf State.reset i).gen = 0 ∧ (sluiceOf State.reset i).arrival = none ∧ (sluiceOf State.reset i).waiters = []) ∧
  (∀ m, (smGet {} State.reset.inWin m).high = 0 ∧ smGet 0 State.reset.outCtr m = 0) ∧
  (∀ n, (plotOf State.reset n).st = .gated) ∧ (∀ p, (portOf State.reset p).state = .down) ∧
  State.reset.mbx.wflag = 0 ∧ State.reset.mbx.hflag = 0 ∧ State.reset.fuses.lc = 0 ∧ State.reset.streams = [] ∧
  State.reset.far = [] ∧ State.reset.flash = []) ∧
  (Inv State.reset)

/-- R349, R352, R372 and the canonical form of the byte memories: every step keeps the lifecycle one of its five states with any fuse program going one state
onward, keeps TRIP enabled, and keeps the far tier and the flash in canonical form. -/
def Obligations.StepKeepsInvariant : Prop := ∀ (s t : State), Inv s → step s = .next t → Inv t

/-- R349 to R352: no command clears a revoked or a written bit of the key slots, lowers a floor, changes the unique ID or the stepping, or takes the lifecycle
anywhere but one state onward. -/
def Obligations.FusesOnlyRise : Prop :=
    ∀ (s t : State) (c : Instr), Inv s → exec c s = .next t →
    (t.fuses.lc = s.fuses.lc ∨ t.fuses.lc = s.fuses.lc + 1) ∧ t.fuses.lc ≤ 4 ∧ t.fuses.uid = s.fuses.uid ∧
    t.fuses.step = s.fuses.step ∧
    (∀ j, s.fuses.keyrev.getLsbD j = true → t.fuses.keyrev.getLsbD j = true) ∧
    (∀ j, s.fuses.keyset.getLsbD j = true → t.fuses.keyset.getLsbD j = true) ∧
    (s.fuses.floor1 ≤ 63 → s.fuses.floor1 ≤ t.fuses.floor1 ∧ t.fuses.floor1 ≤ 63) ∧
    (s.fuses.floor2 ≤ 63 → s.fuses.floor2 ≤ t.fuses.floor2 ∧ t.fuses.floor2 ≤ 63)

/-- R316, R319, R375, R385: a record created while the ring has a slot to give is the newest, carries the next LSEQ, the time, the boot count and the severity of its
code, and raises the ERROR interrupt from severity error on; no other slot changes and nothing is dropped.
R307, R316, R318, R319, R380: outside sag state a waiting record is programmed, and suspends a bank erase that runs; a write to LOG_FSEL clears
READY and starts a read of the selection, whose end sets READY and keeps what it read;
a log program that can run goes before that read.
The order of the other commands is that of log entry 42. -/
def Obligations.EventLog : Prop :=
  (∀ (s : State) (code : W16) (fatal : Bool) (srck srcid : Nat) (args : List Nat) (slot : Nat),
    (if s.log.any then nextRingSlot s.log else some 0) = some slot →
    ∃ t, t = logRec s code fatal srck srcid args ∧
      smGet {} t.log.ring slot = {
        lseq := s.log.nextSeq, time := BitVec.ofNat 64 s.now, boot := s.log.boot, sev := severity code fatal, srck := srck,
        srcid := BitVec.ofNat 16 srcid, code := code, args := args.map (BitVec.ofNat 32), written := false } ∧
      (∀ k, k ≠ slot → smGet {} t.log.ring k = smGet {} s.log.ring k) ∧ t.log.newPos = slot ∧
      t.log.nextSeq = s.log.nextSeq + 1 ∧ t.log.drops = s.log.drops ∧
      (3 ≤ severity code fatal → t.gen.intstat.getLsbD 1 = true) ∧
      (severity code fatal < 3 → t.gen.intstat = s.gen.intstat) ∧
      t = { s with log := t.log, gen := { s.gen with intstat := t.gen.intstat }, mgmt := t.mgmt, out := t.out }) ∧
  (∀ (s : State), Alive s → flashOk s = true →
    (∀ k r, s.hay.sag = false → s.log.starting = false → s.log.nextSlot < 32768 → oldestUnwritten s.log = some (k, r) →
      (s.flashCmd = none → ∃ t, exec .logProgram s = .next t ∧
        t.flashCmd = some (.slotLog (logAt s s.log.actHalf + 64 * s.log.nextSlot) (encodeLog r)) ∧
        t = { s with flashCmd := t.flashCmd, flashAt := s.now, flashSusp := t.flashSusp }) ∧
      (∀ a, s.flashCmd = some (.eraseBank a) → s.flashSusp = none → ∃ t, exec .logProgram s = .next t ∧
        t.flashCmd = some (.slotLog (logAt s s.log.actHalf + 64 * s.log.nextSlot) (encodeLog r)) ∧
        t = { s with flashCmd := t.flashCmd, flashAt := s.now, flashSusp := some (.eraseBank a) })) ∧
    (Up s → ∀ d : W32, ∃ t, exec (.logFselWrite d) s = .next t ∧
      t.logWin = { block := d.extractLsb' 0 5, half := d.getLsbD 8, ready := false, fetching := true } ∧
      (s.flashCmd = none → (∀ c, logWork s = some c → s.hay.sag = true ∨ isLogErase c = true) → t.flashCmd = some .window) ∧
      (s.flashCmd ≠ none → t.flashCmd = s.flashCmd) ∧
      t = { s with logWin := t.logWin, flashCmd := t.flashCmd, flashAt := t.flashAt, flashSusp := t.flashSusp }) ∧
    (s.flashCmd = some .window → ∃ t, exec .logFetchComplete s = .next t ∧
      t.logWin = { s.logWin with ready := true, fetching := false, held := windowCells s } ∧
      t = { s with
          logWin := t.logWin, flashCmd := t.flashCmd, flashAt := t.flashAt, flashSusp := t.flashSusp, spoilt := t.spoilt }))

/-- R384: a is newer than b when (a − b) mod 2^n lies from 1 to 2^(n−1) − 1, and older when b is newer than a; equal values, and values that differ by exactly
2^(n−1), are neither. -/
def Obligations.SerialNumberOrder : Prop :=
    ∀ (n : Nat) (a b : BitVec n), 0 < n →
    (newer a b = true ↔ 1 ≤ (a.toNat + (2 ^ n - b.toNat)) % 2 ^ n ∧ (a.toNat + (2 ^ n - b.toNat)) % 2 ^ n ≤ 2 ^ (n - 1) - 1) ∧
    (older a b = true ↔ 1 ≤ (b.toNat + (2 ^ n - a.toNat)) % 2 ^ n ∧ (b.toNat + (2 ^ n - a.toNat)) % 2 ^ n ≤ 2 ^ (n - 1) - 1) ∧
    newer a a = false ∧ older a a = false ∧ ¬ (newer a b = true ∧ older a b = true) ∧
    ((a.toNat + (2 ^ n - b.toNat)) % 2 ^ n = 2 ^ (n - 1) → newer a b = false ∧ older a b = false) ∧
    (newer a b = false → older a b = false → a = b ∨ (a.toNat + (2 ^ n - b.toNat)) % 2 ^ n = 2 ^ (n - 1))

/-- R31: Heath h owns the Rill Plots of the formula, its compute common Plots and its other Plots, and 20 Plots in all. -/
def Obligations.HeathOwnsPlots : Prop :=
    (∀ b i, b < 16 → i < 8 → heathOf (8 * b + i) = 2 * (b % 4) + i / 4) ∧
  (∀ n, n < 160 → heathOf n < 8) ∧ (∀ h, h < 8 → ((List.range 160).filter fun n => decide (heathOf n = h)).length = 20) ∧
  (∀ h l, (h, l) ∈ [(0, [128, 136, 144, 152]), (1, [132, 140, 148, 156]), (2, [129, 137, 145, 153]), (3, [133, 141, 149, 158]),
      (4, [130, 138, 146, 154]), (5, [134, 142, 150, 159]), (6, [131, 139, 147, 155]), (7, [135, 143, 151, 157])] →
    ∀ n, 128 ≤ n → n < 160 → (heathOf n = h ↔ n ∈ l))

/-- R45, R46, R161: what the engine sends on a link reads back as it was formed, with good CRCs, for every frame that a payload of at most 4,096 bytes gives,
every acknowledgement and every credit; and a Fen shadow record reads back as its entry. -/
def Obligations.FramesReadBack : Prop :=
    (∀ (f : Frame) (kind : Nat) (ackv : Bool) (crcls crcnt : Nat) (ackseq seq : BitVec 12), kind < 8 → crcls < 4 → crcnt < 256 →
    f.payload.length ≤ 4096 → ∀ l, l = encodeFrame f kind ackv crcls crcnt ackseq seq →
    hcrcGood l = true ∧ fcrcGood l = true ∧ seqOf l = seq ∧ frameOf l f.origin = { f with bufs := 0 } ∧ (parseHdr l).kind = kind ∧
    (parseHdr l).ackv = ackv ∧ (parseHdr l).crcls = crcls ∧ (parseHdr l).crcnt = crcnt ∧ (parseHdr l).ackseq = ackseq ∧
    (parseHdr l).res1 = 0 ∧ (parseHdr l).res2 = 0 ∧ l.length % 64 = 0) ∧
  (∀ (e : FenEntry), shadowEntry (shadowBytes e) = e ∧ shadowGood (shadowBytes e) = true ∧ (shadowBytes e).length = 64)

/-! ## Power (chapters 1 and 11) -/

/-- R294, with R29, R30, R39 and R298: above 0.36 A a Rill is stretched, and Stretched, a faulty estimator counting as its largest value; below
0.32 A for 10 µs the stretch is released, and the Rills of a program that runs are brought to one setting again.  Every Plot on which no
program runs keeps its divider, and every other such Plot stays.
R293, R371: the estimate is the sum over the Plots of current times the core rail of their Heath, plus the SRAM rail's product; a
faulty estimator counts its largest value (R298); pg_ack needs 100 µs at or below the effective cap; R313: each monitored rail's time below
92 % is kept, whether the firmware runs or not.  No Plot changes state.
That a rail not yet read counts for nothing is log entry 43. -/
def Obligations.CurrentAndEstimate : Prop :=
  (∀ (s : State) (n : Fin 128) (mA : Nat), Alive s → (plotOf s n).st ≠ .gated →
    (∃ t c, exec (.heathCurrentStretch n mA) s = .next t ∧ c = (if s.hay.badCurr.contains n.val then 16000 else mA) ∧
      (360 < c → (plotOf t n).stretch = true ∧ (plotOf t n).st = .stretched) ∧
      (c ≤ 360 → (plotOf t n).stretch = (plotOf s n).stretch ∧ (plotOf t n).st = (plotOf s n).st ∧ (plotOf t n).div = (plotOf s n).div) ∧
      (plotOf t n).resid = (plotOf s n).resid ∧
      (rillFree s n = true → (plotOf t n).div = (plotOf s n).div) ∧
      (∀ m, m ≠ n.val → rillFree s m = true → plotOf t m = plotOf s m) ∧
      t = { s with plots := t.plots, hay := { s.hay with mA := t.hay.mA } }) ∧
    ((plotOf s n).stretch = true → (plotOf s n).below ≠ 0 → (plotOf s n).below - 1 + 10000 ≤ s.now →
      ∃ t, exec (.stretchRelease n) s = .next t ∧ (plotOf t n).stretch = false ∧
        (rillFree s n = true → (plotOf t n).st = (if (plotOf s n).div = 1 then .on else .stretched) ∧
          (plotOf t n).div = (plotOf s n).div ∧ (plotOf t n).follows = false) ∧
        (∀ m, m ≠ n.val → rillFree s m = true → plotOf t m = plotOf s m) ∧
        (∀ p, progList s = [p] → n.val ∈ p.rills → ∀ m ∈ p.rills, m < 128 → (plotOf s m).st ≠ .gated →
          (plotOf t m).div = maxOf (p.rills.map fun k => (plotOf s k).div) ∧
          ((plotOf t m).follows = true ↔ (plotOf t m).stretch = false ∧ ∃ k ∈ p.rills, k ≠ n.val ∧ (plotOf s k).stretch = true)) ∧
        t = { s with plots := t.plots })) ∧
  (∀ (s : State) (o : PowerObs), Alive s →
    ∃ t, exec (.powerEstimate o) s = .next t ∧
      (FirmUp s → t.hay.power = ((List.range 160).map fun p =>
        (if s.hay.badCurr.contains p then 16000 else smGet 0 t.hay.mA p) * smGet 0 t.hay.rails (heathOf p)).sum +
          o.sramMA * o.sramMV) ∧
      (s.hay.firmRun = false → t.hay.power = s.hay.power ∧ t.hay.ack = s.hay.ack ∧ t.hay.capOkAt = s.hay.capOkAt) ∧
      ((o.plotMA.map (·.1)).Nodup → ∀ x ∈ o.plotMA, smGet 0 t.hay.mA x.1 = x.2) ∧
      (∀ p, p ∉ o.plotMA.map (·.1) → smGet 0 t.hay.mA p = smGet 0 s.hay.mA p) ∧
      (FirmUp s → (t.hay.ack = true ↔ t.hay.power ≤ 1000000 * effectiveCap s ∧ s.hay.capOkAt ≠ 0 ∧
        s.hay.capOkAt - 1 + 100000 ≤ s.now)) ∧
      (∀ x ∈ monitored, (0 < smGet 0 t.hay.rails x.1 → smGet 0 t.hay.rails x.1 < x.2.1 →
          smGet 0 t.hay.lowAt x.1 = if smGet 0 s.hay.lowAt x.1 = 0 then s.now + 1 else smGet 0 s.hay.lowAt x.1) ∧
        (x.2.1 ≤ smGet 0 t.hay.rails x.1 → smGet 0 t.hay.lowAt x.1 = 0) ∧
        (0 < smGet 0 t.hay.rails x.1 → smGet 0 t.hay.rails x.1 < x.2.2 → t.hay.okAt = 0)) ∧
      (∀ n, (plotOf t n).st = (plotOf s n).st ∧ (plotOf t n).div = (plotOf s n).div) ∧
      t = { s with
          plots := t.plots,
          hay := { s.hay with
              mA := t.hay.mA, rails := t.hay.rails, power := t.hay.power, capOkAt := t.hay.capOkAt, ack := t.hay.ack,
              lowAt := t.hay.lowAt, okAt := t.hay.okAt } })

/-- R295, R296, R38, R39: an evaluation moves each Heath's step by at most one, and the engine power step as R296 says; where no Heath is at
step 7, every powered Rill on which no program runs has the divider of its Heath's step, its role and its idleness; the Rills of a program
are brought to one setting, the slowest; Plots 144 to 159 keep their state and their clock.
Log entries 35 and 43 name the readings. -/
def Obligations.ThrottleEvaluation : Prop :=
    (∀ (s : State) (l : List Nat) (n : Nat), n ∈ l → n < 128 → (plotOf s n).st ≠ .gated →
    (plotOf (evenRills s l) n).div = maxOf (l.map fun m => (plotOf s m).div) ∧
    (plotOf (evenRills s l) n).stretch = (plotOf s n).stretch ∧
    ((plotOf (evenRills s l) n).stretch = true ∨ (plotOf (evenRills s l) n).follows = true ↔ ∃ m ∈ l, (plotOf s m).stretch = true)) ∧
  ∀ (s : State) (o : ThermalObs), Up s → FirmUp s → s.boot.fenced = false →
    ∃ t, exec (.throttleStepTick o) s = .next t ∧
      (∀ h, h < 8 → (heathAt t h).step ≤ (heathAt s h).step + 1 ∧ (heathAt s h).step ≤ (heathAt t h).step + 1) ∧
      (t.hay.powerStep = if 1000000 * effectiveCap s < s.hay.power ∧ o.up then min 7 (s.hay.powerStep + 1)
        else if s.hay.power + 3000000 < 1000000 * effectiveCap s ∧ o.down then s.hay.powerStep - 1 else s.hay.powerStep) ∧
      ((∀ h, h < 8 → (heathAt t h).step ≠ 7) → ∀ n, n < 128 → (plotOf t n).st ≠ .gated → rillFree s n = true →
        (plotOf t n).div = ladderDiv (heathAt t (heathOf n)).step (rillRole t n) (longIdle s n)) ∧
      (∀ n, 144 ≤ n → n < 160 → (plotOf t n).st = (plotOf s n).st ∧ (plotOf t n).div = (plotOf s n).div ∧
        (plotOf t n).stretch = (plotOf s n).stretch)

/-- R296, R297, R371: once a site has been at or above 110 °C for 100 µs, and not before, a trip puts all eight Heaths at step 6 or above at
once, as a withdrawn grant does, each change of step logged; the trip sets its interrupt and is logged, by a restarting core when it runs
again; a trip ends once every site has read below 100 °C for 10 ms, and not
before; a grant of 30 W or more powers up the Rills that waited, but for those whose Brook has no lock. -/
def Obligations.TripAndGrant : Prop :=
    (∀ (s : State) (k : Fin 160), Alive s → smGet 0 s.hay.hotAt k = 0 ∨ s.now < smGet 0 s.hay.hotAt k - 1 + 100000 →
      exec (.thermalTrip k) s = .next s) ∧
  (∀ (s : State) (k : Fin 160), Alive s → smGet 0 s.hay.hotAt k ≠ 0 → smGet 0 s.hay.hotAt k - 1 + 100000 ≤ s.now →
    ∃ t, exec (.thermalTrip k) s = .next t ∧ (∀ h, h < 8 → 6 ≤ (heathAt t h).step) ∧ t.hay.tripped = true ∧ t.gen.intstat.getLsbD 2 = true ∧
    (FirmUp s → t.log = (note ((List.range 8).foldl heathSix s) evTrip skPlot k [k]).log ∧ t.hay.tripLog = s.hay.tripLog) ∧
    (s.hay.firmRun = false → t.log = ((List.range 8).foldl heathSix s).log ∧ t.hay.tripLog = s.hay.tripLog ++ [k.val]) ∧
    plotsSame s t 128 160 ∧
    t = { s with
        hay := { s.hay with
            tripped := true, heaths := t.hay.heaths, coolAt := 0, tripLog := t.hay.tripLog },
        plots := t.plots,
        gen := { s.gen with intstat := t.gen.intstat }, log := t.log, tel := t.tel, mgmt := t.mgmt, out := t.out }) ∧
  (∀ (s : State), Alive s → s.hay.tripped = true →
    (s.hay.coolAt ≠ 0 → s.hay.coolAt - 1 + 10000000 ≤ s.now →
      exec .tripClear s = .next { s with hay := { s.hay with tripped := false } }) ∧
    (s.hay.coolAt = 0 ∨ s.now < s.hay.coolAt - 1 + 10000000 → exec .tripClear s = .next s)) ∧
  (∀ (s : State) (w : BitVec 7), Alive s → s.hay.grant ≠ w → ∃ t, exec (.powerGrantChange w) s = .next t ∧
    t.hay.grant = w ∧ (∀ l, l = note s evGrant skHayward 0 [0, s.hay.grant.toNat, w.toNat] →
      t.log = (if w.toNat < 30 then (List.range 8).foldl heathSix l else l).log) ∧
    (w.toNat < 30 → (∀ h, h < 8 → 6 ≤ (heathAt t h).step) ∧ t.hay.powerUps = s.hay.powerUps ∧
      (30 ≤ s.hay.grant.toNat → smGet 0 t.tel (telEng 10) = sat32 (smGet 0 s.tel (telEng 10)) 1)) ∧
    (30 ≤ w.toNat → s.hay.sag = false → (∀ n, n ∈ t.hay.powerUps ↔ n ∈ s.hay.powerUps ∧ brookWaits s n = true) ∧
      ∀ n ∈ s.hay.powerUps, n < 128 → brookWaits s n = false → (plotOf s n).faulted = false →
        (plotOf s (128 + n / 8)).faulted = false → (plotOf t n).st ≠ .gated) ∧
    t = { s with
        hay := t.hay, plots := t.plots, mask := t.mask, locks := t.locks, sram := t.sram, flips := t.flips, gen := t.gen, log := t.log, tel := t.tel,
        mgmt := t.mgmt, out := t.out })

/-- R313 to R315, R288: once a monitored rail has been below 92 % for 1 µs, and not before, sag begins; it suspends an erase and holds back a
commit; once all have been at or above 95 % for 10 ms, and not before, it ends and what waited is carried out.  R21: a lost lock is logged;
lock returns to a powered Brook.
Log entries 43 and 47 name the readings.
R21, R28: while a Brook has no lock its commands change nothing, and the Hub's neither while the Hub has none; an answer of a memory or
content port crosses to the Hub only while both have theirs.
Once every lock is lost none comes back but by a reset (R369). -/
def Obligations.SagAndLocks : Prop :=
  ((∀ (s : State), Alive s → s.hay.sag = false →
    ((∃ x ∈ s.hay.lowAt, x.2 ≠ 0 ∧ x.2 - 1 + 1000 ≤ s.now) → ∃ t, exec .sagEntry s = .next t ∧ t.hay.sag = true ∧
      t.hay.sagAt = s.now ∧ t.load.deferred = s.load.commit ∧
      (∀ a, s.flashCmd = some (.eraseBank a) → t.flashCmd = none ∧ t.flashSusp = some (.eraseBank a)) ∧
      (∀ h, s.flashCmd = some (.eraseLog h) → t.flashCmd = none ∧ t.flashSusp = some (.eraseLog h)) ∧
      (∀ a d, s.flashCmd = some (.pageBank a d) → t.flashCmd = some (.pageBank a d)) ∧
      t = { s with
          hay := { s.hay with sag := true, sagAt := s.now }, load := { s.load with deferred := s.load.commit },
          flashCmd := t.flashCmd, flashSusp := t.flashSusp }) ∧
    ((∀ x ∈ s.hay.lowAt, x.2 = 0 ∨ s.now < x.2 - 1 + 1000) → exec .sagEntry s = .next s)) ∧
  (∀ (s : State), Alive s → s.hay.sag = true →
    (s.hay.okAt ≠ 0 → s.hay.okAt - 1 + 10000000 ≤ s.now → ∃ t, exec .sagExit s = .next t ∧ t.hay.sag = false ∧
      (grantLow s = false → (∀ n, n ∈ t.hay.powerUps ↔ n ∈ s.hay.powerUps ∧ brookWaits s n = true) ∧
        ∀ n ∈ s.hay.powerUps, n < 128 → brookWaits s n = false → (plotOf s n).faulted = false →
          (plotOf s (128 + n / 8)).faulted = false → (plotOf t n).st ≠ .gated) ∧
      (s.fuseOp = none → t.fuseOp = s.fuseWait) ∧ t.fuses = s.fuses ∧ t.far = s.far ∧ t.cfg = s.cfg) ∧
    (s.hay.okAt = 0 ∨ s.now < s.hay.okAt - 1 + 10000000 → exec .sagExit s = .next s)) ∧
  (∀ (s : State) (b : Fin 36), s.boot.phase ≠ .held → lockedOn s b = true →
    ∃ t, exec (.brookLockLost b) s = .next t ∧ lockedOn t b = false ∧ (∀ k, k ≠ b.val → lockedOn t k = lockedOn s k) ∧
      t.log = (note s evLockLost skHayward b [b, 1, 0]).log ∧
      t = { s with
          locks := t.locks, gen := { s.gen with intstat := t.gen.intstat }, log := t.log, tel := t.tel, mgmt := t.mgmt,
          out := t.out }) ∧
  (∀ (s : State) (b : Fin 36), s.boot.phase ≠ .held → lockedOn s b = false →
    (brookPowered s b = true → mayEnable s b = true → ∃ t, exec (.brookLockRegained b) s = .next t ∧ lockedOn t b = true ∧
      (∀ k, lockedOn s k = true → lockedOn t k = true) ∧ t.cfg = s.cfg ∧ t.fuses = s.fuses ∧ t.weirs = s.weirs ∧
      t.sluices = s.sluices ∧ t.far = s.far) ∧
    (brookPowered s b = false ∨ mayEnable s b = false → exec (.brookLockRegained b) s = .next s))) ∧
  ((∀ (s : State) (p : Fin 64) (f : WireFrame) (cls : BitVec 2) (c : Instr), lockedOn s (16 + p.val / 8) = false →
    c ∈ [.lnkLockRise p, .lnkLockFall p, .fecUncorrectable p, .helloRepeat p, .trainingTimeout p, .retrainTimeout p, .hello p f,
      .dataFrame p f, .strayBodyFlit p, .ack p f, .nak p f, .credit p f, .replayTimer p, .episodeTimeout p, .linkFrameSend p cls,
      .fencedHandover p] → exec c s = .next s) ∧
  (∀ (s : State) (p : Fin 64) (m : Fin 64) (e : Fin 80) (c : Instr), lockedOn s 34 = false →
    c ∈ [.poolAllocate, .fencedRouteRelease m, .class0ReserveRelease e, .admission p, .linkSignal p, .linkAck p, .linkArrive p,
      .linkReject p, .fenFirstMatchResult, .fenCountResult, .waiterDeadline, .tagQuarantineExpiry] → exec c s = .next s) ∧
  (∀ (s : State) (fb : Fin 16) (ten : BitVec 6) (op : OpBody) (c : Instr), lockedOn s (24 + fb.val / 4) = false →
    c ∈ [.signal fb ten op, .wait fb ten op, .decrement fb ten op, .read fb ten op, .set fb ten op, .bind fb ten op,
      .remoteSignal fb ten op, .resignal fb ten op, .sluiceArrive fb ten op, .sluiceWait fb ten op] → exec c s = .next s) ∧
  (∀ (s : State) (mp : Fin 8) (mt : BitVec 11) (ct : BitVec 9) (last err : Bool) (st : BitVec 3) (c : Instr),
    (c ∈ [.memoryReadResponse mp mt last err, .memoryWriteResponse mp mt err] ∧
        (lockedOn s 34 = false ∨ lockedOn s (32 + mp.val / 4) = false)) ∨
      (c ∈ [.contentCompletion ct last st, .contentWriteAck ct] ∧ (lockedOn s 34 = false ∨ lockedOn s 33 = false)) →
    exec c s = .next s) ∧
  (∀ (s : State) (b : Fin 36), s.locks = [] → exec (.brookLockRegained b) s = .next s) ∧
  (∀ (s : State) (f : Nat) (l : List FbFlit), fabricClock s f = false → (fbDrain s f).out = s.out ∧ (fbSend s f l).out = s.out) ∧
  (∀ (s : State) (off len : Nat) (wr : Bool) (who : Issuer), lockedOn s (32 + memPortOf off / 4) = false →
    memIssue s off len wr who = none))

/-- R32 to R37, R40: a drain clears the mask bit first and gates the Plot once the Rill is idle and empty; a power-up sets the mask bit and
clears the stretch, or waits in sag state, under a low grant or while its Brook has no lock; a Heath refuses a gate command for one of
Plots 144 to 159, and for a Plot whose residency flag is set; a common Plot is gated once all its Rill Plots are and nothing is on its way
there; a supply fault gates a Rill's Plot until a reset, and one of Plots 144 to 159
holds the engine in reset.
Log entry 43 names the readings. -/
def Obligations.RillsInAndOut : Prop :=
    (∀ (s : State) (n : Fin 160), Alive s → FirmUp s → n.val < 128 → s.draining.contains n.val = false → (plotOf s n).st ≠ .gated →
    spareRill s = true →
    ∃ t, exec (.rillPowerDown n) s = .next t ∧ n.val ∉ t.mask ∧ (∀ k, k ≠ n.val → (k ∈ t.mask ↔ k ∈ s.mask)) ∧
      (rillFree s n = true → rillHolds s n = false → (plotOf s n).resid = false →
        (plotOf t n).st = .gated ∧ n.val ∉ t.draining ∧ smGet [] t.sram n = []) ∧
      (rillFree s n = true → rillHolds s n = false → (plotOf s n).resid = true →
        plotOf t n = plotOf s n ∧ n.val ∈ t.draining ∧ t.hay.gateSt = stPlotResident) ∧
      (rillFree s n = false → n.val ∈ t.draining ∧ t.plots = s.plots) ∧ plotsSame s t 144 160) ∧
  (∀ (s : State) (n : Fin 160), Alive s → FirmUp s → 144 ≤ n.val →
    exec (.rillPowerDown n) s = .next { s with hay := { s.hay with gateSt := stNotGateable } }) ∧
  (∀ (s : State) (n : Fin 160) (b : Nat), Alive s → FirmUp s → n.val = 128 + b → b < 16 → (plotOf s n).st ≠ .gated →
    ((∀ k ∈ brookRills b, (plotOf s k).st = .gated ∧ k ∉ s.mask) → brookTraffic s b = false → (plotOf s n).resid = false →
      ∃ t, exec (.rillPowerDown n) s = .next t ∧ (plotOf t n).st = .gated ∧ lockedOn t b = false ∧ t.hay.gateSt = 0 ∧
        (∀ m, m ≠ n.val → plotOf t m = plotOf s m) ∧
        t = { s with locks := t.locks, plots := t.plots, hay := { s.hay with gateSt := 0 } }) ∧
    ((∃ k ∈ brookRills b, (plotOf s k).st ≠ .gated ∨ k ∈ s.mask) ∨ brookTraffic s b = true →
      exec (.rillPowerDown n) s = .next s)) ∧
  (∀ (s : State) (n : Fin 128), Alive s → FirmUp s → s.boot.fenced = false → s.fuses.lc ≠ 4 →
    (s.hay.sag = false → grantLow s = false → brookWaits s n = false → (plotOf s n).st = .gated → (plotOf s n).faulted = false →
      (plotOf s (128 + n / 8)).faulted = false →
      ∃ t, exec (.rillPowerUp n) s = .next t ∧ n.val ∈ t.mask ∧ (plotOf t n).st ≠ .gated ∧ (plotOf t n).stretch = false ∧
        (plotOf t n).resid = false ∧ smGet [] t.sram n = [] ∧ (plotOf t (128 + n / 8)).st ≠ .gated ∧
        (∀ m, m ≠ n.val → m ≠ 128 + n.val / 8 → plotOf t m = plotOf s m) ∧
        t = { s with plots := t.plots, mask := t.mask, locks := t.locks, sram := t.sram, flips := t.flips }) ∧
    (s.hay.sag = true ∨ grantLow s = true ∨ brookWaits s n = true → ∃ t, exec (.rillPowerUp n) s = .next t ∧
      n.val ∈ t.hay.powerUps ∧ t = { s with hay := { s.hay with powerUps := t.hay.powerUps } })) ∧
  (∀ (s : State) (n : Fin 160), Alive s → n.val < 128 → ∃ t, exec (.plotSupplyFault n) s = .next t ∧
    n.val ∉ t.mask ∧ (plotOf t n).st = .gated ∧ (plotOf t n).faulted = true ∧ t.boot = s.boot ∧
    (∀ m, m ≠ n.val → (plotOf t m).st = (plotOf s m).st ∧ (plotOf t m).faulted = (plotOf s m).faulted)) ∧
  (∀ (s : State) (n : Fin 160), Alive s → 144 ≤ n.val → ∃ t, exec (.plotSupplyFault n) s = .next t ∧
    t.boot.phase = .held ∧ t.log = (logRec s evSupply true skPlot n [n]).log ∧
    t = { s with
        boot := { s.boot with phase := .held, supplyHeld := true }, log := t.log, gen := { s.gen with intstat := t.gen.intstat },
        tel := t.tel, mgmt := t.mgmt, out := t.out })

/-- R292, R383, R168: on a watchdog expiry or a double-bit error the Hayward core restarts: the mailbox is not ready and no command runs, the
Heaths keep their settings, and the third restart within 10 s enters fenced boot; when the core runs again a command that was cut off completes
with Command aborted, and a bank operation of that command then completes none.  Its corrected single-bit errors are counted.
What a restart keeps is read by inference (log entry 44), and when the corrected errors are counted is the model's (log entry 79).
R290: the address map of the Hayward core: each range with its content, and an access outside every range changes nothing and faults.
No command is an access of the core (log entry 89). -/
def Obligations.HaywardMapAndRestart : Prop :=
  ((∀ (s : State) (c : Instr), Up s →
    (c = .haywardSramError ∨ c = .watchdogExpiry ∧ FirmUp s ∧ s.hay.dogAt + 100000000 ≤ s.now) →
    ∃ t, exec c s = .next t ∧ t.hay.heaths = s.hay.heaths ∧ t.hay.dogAt = s.now ∧ t.hay.firmRun = false ∧ t.boot.hwrdy = false ∧
      t.mbx.running = none ∧ t.mbx.busy = s.mbx.busy ∧ t.mbx.ctag = s.mbx.ctag ∧
      (t.boot.fenced = (s.boot.fenced || decide (2 ≤ (s.hay.restarts.filter fun r => decide (s.now ≤ r + 10000000000)).length))) ∧
      ((s.hay.restarts.filter fun r => decide (s.now ≤ r + 10000000000)).length < 2 → s.load.state ≠ .loading →
        t.streams = s.streams ∧ t.ports = s.ports ∧ t.objs = s.objs ∧ t.plots = s.plots) ∧
      (∀ b, smGet 0 t.opOrphans b = smGet 0 s.opOrphans b + if s.mbx.running = some (.fenOp b) then 1 else 0) ∧
      t.fuses = s.fuses ∧ t.cfg = s.cfg) ∧
  (∀ (s : State), Up s → s.hay.firmRun = false → ∃ t, exec .haywardFirmwareStart s = .next t ∧ FirmUp t ∧ t.boot.hwrdy = true ∧
    t.hay.tripLog = [] ∧ (s.mbx.busy = true → Answered t s.mbx.ctag stCommandAborted) ∧ t.plots = s.plots ∧ t.streams = s.streams ∧
    t.fuses = s.fuses ∧ t.cfg = s.cfg) ∧
  (∀ (s : State) (o : ThermalObs), Up s → FirmUp s → ∃ t, exec (.throttleStepTick o) s = .next t ∧
    smGet 0 t.tel (telEng 3) = sat32 (smGet 0 s.tel (telEng 3)) o.fixed)) ∧
  ((∀ (a : W32) (r : HwRegion) (lo n : Nat), (r, lo, n) ∈ [(HwRegion.bootRom, 0, 0x10000), (.sram, 0x10000000, 0x80000),
      (.sensorHub, 0x20010000, 0x10000), (.controllers, 0x20020000, 0x10000), (.stile, 0x20100000, 0x100000),
      (.hub, 0x40000000, 0x40000000)] ∨ (∃ h, h < 8 ∧ r = .heath h ∧ lo = 0x20000000 + 0x1000 * h ∧ n = 0x1000) →
    lo ≤ a.toNat → a.toNat < lo + n →
    hwAt a = some (r, a.toNat - lo) ∧ ∀ inside (s : State), coreAccess inside a s = (inside r (a.toNat - lo) s, false)) ∧
  (∀ (a : W32), (0x10000 ≤ a.toNat ∧ a.toNat < 0x10000000) ∨ (0x10080000 ≤ a.toNat ∧ a.toNat < 0x20000000) ∨
      (0x20008000 ≤ a.toNat ∧ a.toNat < 0x20010000) ∨ (0x20030000 ≤ a.toNat ∧ a.toNat < 0x20100000) ∨
      (0x20200000 ≤ a.toNat ∧ a.toNat < 0x40000000) ∨ 0x80000000 ≤ a.toNat →
    ∀ inside (s : State), coreAccess inside a s = (s, true)))

/-! ## Link ports (chapter 2) -/

/-- R44, R60, R61, R341, R386: a lock starts Training with a new SEQ space and a first Hello; a lost lock ends Training in Down and takes an Up
port to Retrain with nothing discarded, and a Failed port to Down; a timeout of either state takes the port to Failed, discards all that
it had still to send and ends its streams, while fenced frames already accepted stay; a port Failed for 100 ms is reset, whether its link
Brook is locked or not.
Log entries 17 and 24 name the readings. -/
def Obligations.LinkPortStates : Prop :=
    ∀ (s : State) (p : Fin 64), Alive s → (linkClock s p = true →
    (Up s → s.fuses.lc ≠ 4 → (portOf s p).phyRst = false → (portOf s p).state = .down → roleOf s p ≠ .off →
      ∃ t, exec (.lnkLockRise p) s = .next t ∧ (portOf t p).state = .training ∧ (portOf t p).lock = true ∧
        (portOf t p).since = s.now ∧ (portOf t p).nextTx = 0 ∧ (portOf t p).nextRx = 0 ∧ (portOf t p).replay = [] ∧
        (portOf t p).rxGrant = emptySpace s p ∧ (∀ q, q ≠ p.val → portOf t q = portOf s q) ∧
        t.out = s.out ++ [helloOut s p false (emptySpace s p) 0] ∧
        t = { s with ports := t.ports, out := t.out }) ∧
    ((portOf s p).state = .training ∨ (portOf s p).state = .failed → ∃ t, exec (.lnkLockFall p) s = .next t ∧ (portOf t p).state = .down ∧
      (∀ q, q ≠ p.val → portOf t q = portOf s q) ∧ t = { s with ports := t.ports }) ∧
    ((portOf s p).state = .up → ∃ t, exec (.lnkLockFall p) s = .next t ∧ (portOf t p).state = .retrain ∧
      (portOf t p).replay = (portOf s p).replay ∧ (portOf t p).txq = (portOf s p).txq ∧
      (portOf t p).nextTx = (portOf s p).nextTx ∧ (portOf t p).nextRx = (portOf s p).nextRx ∧
      smGet 0 t.tel (telLnk p 5) = sat32 (smGet 0 s.tel (telLnk p 5)) 1 ∧
      t.out = s.out ++ [helloOut s p false (freeSpace (portOf s p)) (portOf s p).nextRx] ∧
      (∀ q, q ≠ p.val → portOf t q = portOf s q) ∧ t = { s with ports := t.ports, out := t.out, tel := t.tel }) ∧
    (∀ c, (c = .trainingTimeout p ∧ (portOf s p).state = .training ∧ (portOf s p).since + 1000000 ≤ s.now) ∨
        (c = .retrainTimeout p ∧ (portOf s p).state = .retrain ∧ (portOf s p).since + 100000 ≤ s.now) →
      ∃ t, exec c s = .next t ∧ (portOf t p).state = .failed ∧ (portOf t p).replay = [] ∧ (portOf t p).txq = [] ∧
        (∀ i ∈ (portOf t p).rxq, i.pass = true ∨ i.frame.cls = 3) ∧ (portOf t p).rxFenced = (portOf s p).rxFenced ∧
        (∀ w ∈ t.c0wait, w.egress ≠ p.val) ∧ (∀ k, (streamOf t k).inUse = true → (streamOf t k).port ≠ p.val))) ∧
    ((portOf s p).state = .failed → roleOf s p ≠ .off → (portOf s p).since + 100000000 ≤ s.now →
      ∃ t, exec (.failedPortReset p) s = .next t ∧ (portOf t p).state = .down ∧ (portOf t p).phyRst = true ∧
        (portOf t p).pulseAt = some s.now ∧ smGet 0 t.tel (telLnk p 14) = sat32 (smGet 0 s.tel (telLnk p 14)) 1 ∧
        (∀ q, q ≠ p.val → portOf t q = portOf s q) ∧ t = { s with ports := t.ports, tel := t.tel })

/-- R54, R60, R340, R386: a Hello leaves every 640 ns in Training and Retrain; a valid one ends either state with the partner's credits, in
Retrain with a resend from the SEQ it gives, and an Up port answers one with HUP 0, and counts and ignores one with HUP 1.
Log entries 14 and 17 name the readings; the count has a counter of the model's own (log entry 18). -/
def Obligations.HelloExchange : Prop :=
    ∀ (s : State) (p : Fin 64), Alive s → linkClock s p = true →
    (((portOf s p).state = .training ∨ (portOf s p).state = .retrain) → (portOf s p).lastHello + 640 ≤ s.now →
      ∃ t, exec (.helloRepeat p) s = .next t ∧
        t.out = s.out ++ [helloOut s p false (freeSpace (portOf s p)) (portOf s p).nextRx] ∧ (portOf t p).lastHello = s.now ∧
        (portOf t p).state = (portOf s p).state ∧ (∀ q, q ≠ p.val → portOf t q = portOf s q) ∧
        t = { s with ports := t.ports, out := t.out }) ∧
    (∀ (f : WireFrame) (h : HelloP), hcrcGood f.bytes = true → fcrcGood f.bytes = true → (parseHdr f.bytes).cls = 0 →
      (parseHdr f.bytes).kind = kHello → (parseHdr f.bytes).res1 = 0 → (parseHdr f.bytes).res2 = 0 →
      fld (parseHdr f.bytes).csf 12 4 = 0 → (parseHdr f.bytes).len ≤ 40 → parseHello (slice f.bytes 16 (parseHdr f.bytes).len) = some h →
      peerHello s p h = true → h.resv = false →
      ((portOf s p).state = .training → creditsOffered (roleOf s p) h.cred = true →
        ∃ t, exec (.hello p f) s = .next t ∧ (portOf t p).state = .up ∧ (portOf t p).since = s.now ∧
          (portOf t p).txCred = h.cred ∧ (portOf t p).c0Out = 0 ∧ (∀ q, q ≠ p.val → portOf t q = portOf s q)) ∧
      ((portOf s p).state = .retrain → ∃ t, exec (.hello p f) s = .next t ∧ (portOf t p).state = .up ∧
        (portOf t p).txCred = h.cred ∧ (portOf t p).txEp = none ∧
        (portOf t p).replay.map (·.seq) =
          ((portOf s p).replay.filter fun g => !older g.seq (parseHdr f.bytes).ackseq).map (·.seq) ∧
        (∀ g ∈ (portOf t p).replay, g.pend = true ∧ g.spent = false)) ∧
      ((portOf s p).state = .up → h.hup = false → ∃ t l, exec (.hello p f) s = .next t ∧
        (portOf t p).state = .up ∧ (portOf t p).txCred = h.cred ∧ (portOf t p).rxGrant = freeSpace (portOf s p) ∧
        t.out = s.out ++ l ++ [helloOut s p true (freeSpace (portOf s p)) (portOf s p).nextRx]) ∧
      ((portOf s p).state = .up → h.long = true → h.hup = true → ∃ t, exec (.hello p f) s = .next t ∧
        smGet 0 t.tally (tallyAt .hupHello p) = smGet 0 s.tally (tallyAt .hupHello p) + 1 ∧ t = { s with tally := t.tally }) ∧
      (∀ t, exec (.hello p f) s = .next t →
        t = { s with
            tally := t.tally, ports := t.ports, view := { s.view with hboot := t.view.hboot, susp := t.view.susp }, gen := t.gen, log := t.log,
            tel := t.tel, mgmt := t.mgmt, out := t.out } ∧
        ∀ q, q ≠ p.val → portOf t q = portOf s q))

/-- R49, R50, R52, R55, R57, R58: a good Data frame with the next SEQ and a credit for it is accepted, and its acknowledgement and credits are
taken; an older SEQ is discarded; a newer SEQ starts an episode with a NAK, and is discarded and counted while one runs; no credit means
Retrain; a bad HCRC or FCRC starts an episode, of which a copy of the next frame that fails again gets one more NAK.  What an accepted frame
becomes: a protocol error and a stomped frame are counted, a fenced one waits, a class-0 frame goes to the Hub, to a fabric port or to another
member, or waits in its lane, a class-2 frame cuts through or waits, every other one waits; one without a route is logged, an SOS frame
refused.
What is a header error, that an out-of-sequence frame's acknowledgement is not taken, and where frames wait, are the readings of log entries
12, 13, 15 and 16; the count of newer frames has a counter of the model's own (log entry 18); what counts as forwarded is that of 87. -/
def Obligations.DataFrameReceived : Prop :=
  (∀ (s : State) (p : Fin 64) (f : WireFrame), Alive s → linkClock s p = true → hcrcGood f.bytes = false →
    ((portOf s p).state = .up ∧ (portOf s p).rxEp = true ∨ (portOf s p).state = .training ∨ (portOf s p).state = .retrain →
      exec (.dataFrame p f) s = .next (telInc s (telLnk p 7))) ∧
    ((portOf s p).state = .up → (portOf s p).rxEp = false → ∃ t, exec (.dataFrame p f) s = .next t ∧
      portOf t p = { portOf s p with rxEp := true } ∧ (∀ q, q ≠ p.val → portOf t q = portOf s q) ∧
      smGet 0 t.tel (telLnk p 7) = sat32 (smGet 0 s.tel (telLnk p 7)) 1 ∧ smGet 0 t.tel (telLnk p 3) = sat32 (smGet 0 s.tel (telLnk p 3)) 1 ∧
      t.out = s.out ++ [controlOut s p kNak (portOf s p).nextRx []] ∧ t = { s with ports := t.ports, tel := t.tel, out := t.out })) ∧
  (∀ (s : State) (p : Fin 64) (f : WireFrame), Alive s → linkClock s p = true →
    (portOf s p).state = .up → hcrcGood f.bytes = true → (parseHdr f.bytes).kind = kData →
    (fcrcGood f.bytes = false → (portOf s p).rxEp = true →
      ((lengthGood f.bytes = false ∨ seqOf f.bytes ≠ (portOf s p).nextRx) →
        exec (.dataFrame p f) s = .next (telInc s (telLnk p 7))) ∧
      (lengthGood f.bytes = true → seqOf f.bytes = (portOf s p).nextRx → exec (.dataFrame p f) s = .next { s with
        tel := (telInc s (telLnk p 7)).tel, out := s.out ++ [controlOut s p kNak (portOf s p).nextRx []] })) ∧
    (fcrcGood f.bytes = false → (portOf s p).rxEp = false → ∃ t l, exec (.dataFrame p f) s = .next t ∧ (portOf t p).rxEp = true ∧
      (portOf t p).nextRx = (portOf s p).nextRx ∧ (portOf t p).rxq = (portOf s p).rxq ∧
      smGet 0 t.tel (telLnk p 7) = sat32 (smGet 0 s.tel (telLnk p 7)) 1 ∧
      t.out = s.out ++ l ++ [controlOut s p kNak (portOf s p).nextRx []] ∧
      ((parseHdr f.bytes).cls ≠ 2 → l = [] ∧ (∀ q, q ≠ p.val → portOf t q = portOf s q) ∧
        t = { s with ports := t.ports, tel := t.tel, out := t.out })) ∧
    (fcrcGood f.bytes = true → seqOf f.bytes = (portOf s p).nextRx →
      crGet (portOf s p).rxGrant (parseHdr f.bytes).cls < flitsFor (parseHdr f.bytes).len →
      ∃ t l, exec (.dataFrame p f) s = .next t ∧ (portOf t p).state = .retrain ∧
        (portOf t p).nextRx = (portOf s p).nextRx ∧ (portOf t p).rxq = (portOf s p).rxq ∧
        t.out = s.out ++ l ++ [helloOut s p false (freeSpace (portOf s p)) (portOf s p).nextRx]) ∧
    (fcrcGood f.bytes = true → seqOf f.bytes = (portOf s p).nextRx →
      flitsFor (parseHdr f.bytes).len ≤ crGet (portOf s p).rxGrant (parseHdr f.bytes).cls →
      ∃ u, exec (.dataFrame p f) s = .next (deliver u p f.bytes) ∧ (∀ q, q ≠ p.val → portOf u q = portOf s q) ∧
        portOf u p = { portOf s p with
          nextRx := (portOf s p).nextRx + 1, rxEp := false, accNo := (portOf s p).accNo + 1,
          rxGrant := crMod (portOf s p).rxGrant (parseHdr f.bytes).cls (· - flitsFor (parseHdr f.bytes).len),
          replay := if (parseHdr f.bytes).ackv then (portOf s p).replay.filter (fun g => newer g.seq (parseHdr f.bytes).ackseq)
            else (portOf s p).replay,
          txCred := crMod (portOf s p).txCred (parseHdr f.bytes).crcls (· + (parseHdr f.bytes).crcnt),
          c0Out := if (parseHdr f.bytes).crcls = 0 then (portOf s p).c0Out - (parseHdr f.bytes).crcnt else (portOf s p).c0Out,
          txEp := (portOf u p).txEp, ackOwed := (portOf u p).ackOwed } ∧
        ((portOf u p).ackOwed = true ∧ u.out = s.out ∨ u.out = s.out ++ [controlOut s p kAck (portOf s p).nextRx []]) ∧
        u = { s with ports := u.ports, tel := u.tel, out := u.out }) ∧
    (fcrcGood f.bytes = true → older (seqOf f.bytes) (portOf s p).nextRx = true →
      ∃ t, exec (.dataFrame p f) s = .next t ∧ (portOf t p).nextRx = (portOf s p).nextRx ∧
        (portOf t p).rxq = (portOf s p).rxq ∧ (portOf t p).rxEp = (portOf s p).rxEp ∧
        smGet 0 t.tel (telLnk p 9) = sat32 (smGet 0 s.tel (telLnk p 9)) 1 ∧
        ((portOf t p).ackOwed = true ∧ t.out = s.out ∨ t.out = s.out ++ [controlOut s p kAck ((portOf s p).nextRx - 1) []]) ∧
        t = { s with ports := t.ports, tel := t.tel, out := t.out }) ∧
    (fcrcGood f.bytes = true → newer (seqOf f.bytes) (portOf s p).nextRx = true → (portOf s p).rxEp = true →
      ∃ t, exec (.dataFrame p f) s = .next t ∧
        smGet 0 t.tally (tallyAt .outOfSequence p) = smGet 0 s.tally (tallyAt .outOfSequence p) + 1 ∧
        t = { s with tally := t.tally }) ∧
    (fcrcGood f.bytes = true → newer (seqOf f.bytes) (portOf s p).nextRx = true → (portOf s p).rxEp = false →
      ∃ t, exec (.dataFrame p f) s = .next t ∧ portOf t p = { portOf s p with rxEp := true } ∧
        (∀ q, q ≠ p.val → portOf t q = portOf s q) ∧ t.out = s.out ++ [controlOut s p kNak (portOf s p).nextRx []] ∧
        t = { s with ports := t.ports, tel := t.tel, out := t.out })) ∧
  (∀ (s t : State) (p : Fin 64) (l : List Byte) (h : Hdr) (x : Frame) (y : Port), Alive s → linkClock s p = true → h = parseHdr l →
    x = frameOf l .none → y = portOf s p → t = deliver s p l →
    let waits (z : Frame) (arr : Nat) (pass : Bool) : Prop := (portOf t p).rxq = fordFill (fordDepth .link)
      (y.rxq ++ [{ frame := z, no := y.accNo, arr := arr, pass := pass, flits := frameFlits z }])
    let holds (z : Frame) : Prop := t.c0wait.map (·.frame) = s.c0wait.map (·.frame) ++ [z] ∧ t.ports = s.ports ∧ t.fbs = s.fbs
    (headerError s p h = true ∨ stompOf l = true → t.c0wait = s.c0wait ∧ t.fbs = s.fbs ∧
      (∀ q, (portOf t q).rxq = (portOf s q).rxq ∧ (portOf t q).hubOps = (portOf s q).hubOps ∧
        (portOf t q).rxFenced = (portOf s q).rxFenced ∧ (portOf t q).txq = (portOf s q).txq) ∧
      (headerError s p h = true → smGet 0 t.tel (telLnk p 8) = sat32 (smGet 0 s.tel (telLnk p 8)) 1) ∧
      (headerError s p h = false → smGet 0 t.tel (telLnk p 7) = sat32 (smGet 0 s.tel (telLnk p 7)) 1)) ∧
    (headerError s p h = false → stompOf l = false →
      (h.cls = 0 → h.fence = true → t = setPort s p { y with rxFenced := y.rxFenced ++ [(y.accNo, y.arrived2, x)] }) ∧
      (h.dst = s.cfg.memberid →
        (h.cls = 0 → h.fence = false → linkCodes.contains (h.csf.setWidth 8) = true →
          (hubTakes s p = true → (portOf t p).hubOps = y.hubOps ++ [(y.arrived2, x)] ∧ t.c0wait = s.c0wait) ∧
          (hubTakes s p = false → holds x)) ∧
        (h.cls = 0 → h.fence = false → linkCodes.contains (h.csf.setWidth 8) = false →
          (fbUsable s (fld h.csf 8 4) = false → smGet 0 t.tel (telLnk p 13) = sat32 (smGet 0 s.tel (telLnk p 13)) 1 ∧
            t.c0wait = s.c0wait ∧ t.fbs = s.fbs) ∧
          (fbUsable s (fld h.csf 8 4) = true → fbLive (fbOf s (fld h.csf 8 4)) = true →
            fbClass0Free s (fld h.csf 8 4) = true → c0LaneFree s p = true →
            Sends s t (fld h.csf 8 4) (passFlit p x) ∧ t.c0wait = s.c0wait) ∧
          (fbUsable s (fld h.csf 8 4) = true → fbClass0Free s (fld h.csf 8 4) = false ∨ c0LaneFree s p = false → holds x)) ∧
        (h.cls = 1 ∨ h.cls = 3 → waits x y.arrived2 false) ∧
        (h.cls = 2 → ∀ fl, fl = dataFlits p (y.arrived2 + 1) false x → (portOf t p).arrived2 = y.arrived2 + 1 ∧
          (fbUsable s (fld h.csf 0 4) = false → smGet 0 t.tel (telLnk p 13) = sat32 (smGet 0 s.tel (telLnk p 13)) 1 ∧
            (portOf t p).rxq = y.rxq ∧ t.fbs = s.fbs) ∧
          (fbUsable s (fld h.csf 0 4) = true → laneFree y.rxq = true → fbPasses s (fld h.csf 0 4) fl.length = true →
            fbLive (fbOf s (fld h.csf 0 4)) = true → (portOf t p).rxq = y.rxq ∧
            ∀ g z, flitCount t g z = flitCount s g z + if g = fld h.csf 0 4 then fl.count z else 0) ∧
          (fbUsable s (fld h.csf 0 4) = true → laneFree y.rxq = false ∨ fbPasses s (fld h.csf 0 4) fl.length = false →
            waits x (y.arrived2 + 1) true ∧ t.fbs = s.fbs))) ∧
      (h.dst ≠ s.cfg.memberid → ¬(h.cls = 0 ∧ h.fence = true) →
        (routeTo s h.dst.toNat = none → smGet 0 t.tel (telLnk p 13) = sat32 (smGet 0 s.tel (telLnk p 13)) 1 ∧
          t.log = (note s stNoRoute skLink p [p, y.partner.toNat, (seqOf l).toNat]).log ∧ (portOf t p).rxq = y.rxq ∧
          (h.cls = 1 → h.sos = true → keepsRoute s p = true → recordFrame s x (refuseRec x stNoRoute 0 0) ∈ (portOf t p).txq)) ∧
        (∀ q z, routeTo s h.dst.toNat = some q → z = { x with origin := .transit } →
          (h.cls = 0 → linkClass0Free s q = true → c0LaneFree s p = true →
            (portOf t q).txq = (portOf s q).txq ++ [z] ∧ t.c0wait = s.c0wait) ∧
          (h.cls = 0 → linkClass0Free s q = false ∨ c0LaneFree s p = false → holds z) ∧
          (h.cls = 2 → laneFree y.rxq = true → linkPasses s q z = true →
            (portOf t q).txq = (portOf s q).txq ++ [z] ∧ (portOf t p).rxq = y.rxq) ∧
          (h.cls = 2 → laneFree y.rxq = false ∨ linkPasses s q z = false → waits z y.arrived2 true) ∧
          (h.cls = 1 ∨ h.cls = 3 → waits z y.arrived2 true)))))

/-- R55, R57 to R59: an acknowledgement frees every frame up to its SEQ; credits are added to their class; a NAK resends everything that is
left, and the ninth trigger of an episode takes the port to Retrain.  The frames come as R48 asks.
Log entry 14 names the readings.
R58, R59, R357: 500 ns after the oldest frame was last sent everything unacknowledged is sent again; an episode of 1.5 µs ends in Retrain;
a stray body flit starts an episode; an uncorrectable codeword only counts. -/
def Obligations.AcksNaksAndTimers : Prop :=
  (∀ (s : State) (p : Fin 64) (f : WireFrame), Alive s → linkClock s p = true →
    (portOf s p).state = .up → hcrcGood f.bytes = true → fcrcGood f.bytes = true → (parseHdr f.bytes).cls = 0 →
    (parseHdr f.bytes).res1 = 0 → (parseHdr f.bytes).res2 = 0 → fld (parseHdr f.bytes).csf 12 4 = 0 →
    (parseHdr f.bytes).len ≤ 40 →
    (∀ c, (c = .ack p f ∧ (parseHdr f.bytes).kind = kAck) ∨ (c = .credit p f ∧ (parseHdr f.bytes).kind = kCredit) →
      (parseHdr f.bytes).ackv = true → ∃ t, exec c s = .next t ∧
        (portOf t p).replay = (portOf s p).replay.filter (fun g => newer g.seq (parseHdr f.bytes).ackseq) ∧
        crGet (portOf t p).txCred (parseHdr f.bytes).crcls =
          crGet (portOf s p).txCred (parseHdr f.bytes).crcls + (parseHdr f.bytes).crcnt ∧
        (∀ k, k < 4 → k ≠ (parseHdr f.bytes).crcls → crGet (portOf t p).txCred k = crGet (portOf s p).txCred k) ∧
        (portOf t p).state = .up ∧ (∀ q, q ≠ p.val → portOf t q = portOf s q) ∧ t = { s with ports := t.ports }) ∧
    ((parseHdr f.bytes).kind = kNak →
      ((portOf s p).txEp = none → ((portOf s p).replay.any fun g => newer g.seq ((parseHdr f.bytes).ackseq - 1)) = true →
        ∃ t, exec (.nak p f) s = .next t ∧ (portOf t p).state = .up ∧ (∀ g ∈ (portOf t p).replay, g.pend = true) ∧
          (portOf t p).replay.map (·.seq) =
            ((portOf s p).replay.filter fun g => newer g.seq ((parseHdr f.bytes).ackseq - 1)).map (·.seq) ∧
          ((portOf t p).txEp.map (·.replays)) = some 1 ∧ t = { s with ports := t.ports, tel := t.tel }) ∧
      (∀ e, (portOf s p).txEp = some e → 8 ≤ e.replays →
        ((portOf s p).replay.any fun g => newer g.seq ((parseHdr f.bytes).ackseq - 1) && decide (g.seq = e.oldest)) = true →
        ∃ t, exec (.nak p f) s = .next t ∧ (portOf t p).state = .retrain))) ∧
  (∀ (s : State) (p : Fin 64), Alive s → linkClock s p = true →
    (∃ t, exec (.fecUncorrectable p) s = .next t ∧ smGet 0 t.tel (telLnk p 12) = sat32 (smGet 0 s.tel (telLnk p 12)) 1 ∧
      (∀ k, k ≠ telLnk p 12 → smGet 0 t.tel k = smGet 0 s.tel k) ∧ t = { s with tel := t.tel }) ∧
    ((portOf s p).state = .up →
      (∃ t, exec (.strayBodyFlit p) s = .next t ∧ (portOf t p).rxEp = true ∧
        smGet 0 t.tel (telLnk p 11) = sat32 (smGet 0 s.tel (telLnk p 11)) 1 ∧
        (∀ q, q ≠ p.val → portOf t q = portOf s q) ∧ t = { s with ports := t.ports, tel := t.tel, out := t.out }) ∧
      (∀ g r, (portOf s p).replay = g :: r → g.pend = false → g.sentAt + 500 ≤ s.now → (portOf s p).txEp = none →
        ∃ t, exec (.replayTimer p) s = .next t ∧ (∀ x ∈ (portOf t p).replay, x.pend = true) ∧
          (portOf t p).replay.map (·.seq) = (portOf s p).replay.map (·.seq) ∧
          (portOf t p).txEp = some { oldest := g.seq, start := s.now, replays := 1 } ∧
          t = { s with ports := t.ports, tel := t.tel }) ∧
      (∀ e, (portOf s p).txEp = some e → e.start + 1500 ≤ s.now →
        ∃ t, exec (.episodeTimeout p) s = .next t ∧ (portOf t p).state = .retrain ∧
          (portOf t p).replay = (portOf s p).replay ∧
          t.log = (note s stRetrain skLink p [p.val, (portOf s p).partner.toNat, e.oldest.toNat]).log)))

/-- R46, R54, R57, R58, R387: a queued frame is sent with the next SEQ, spends the credit of its class, is kept for replay and frees its buffers; a
frame marked for a resend goes ahead of it, with its old SEQ, and holds everything back while it needs credit that is not there. -/
def Obligations.LinkFrameSent : Prop :=
    ∀ (s : State) (p : Fin 64) (cls : BitVec 2), Alive s → linkClock s p = true →
    (portOf s p).state = .up →
    (∀ i f, (portOf s p).replay.any (·.pend) = false → pickFrame (portOf s p) cls = some i →
      (portOf s p).txq[i]? = some f → sendable (portOf s p) f = true → fenceClear s p f = true →
      (portOf s p).replay.length < 2047 →
      ∃ t l, exec (.linkFrameSend p cls) s = .next t ∧ (portOf t p).nextTx = (portOf s p).nextTx + 1 ∧
        (portOf t p).replay = (portOf s p).replay ++
          [{ seq := (portOf s p).nextTx, frame := { f with bufs := 0, c0 := .none }, sentAt := s.now }] ∧
        (portOf t p).txq = (portOf s p).txq.eraseIdx i ∧
        t.poolUsed = s.poolUsed - f.bufs - (if f.c0 = .shared then 1 else 0) ∧
        t.poolRes = s.poolRes - (if f.c0 = .reserve then 1 else 0) ∧
        crGet (portOf t p).txCred f.cls.toNat = crGet (portOf s p).txCred f.cls.toNat - frameFlits f ∧
        t.out = s.out ++ Output.link p
          (encodeFrame f kData true (takeOwed (portOf s p)).1 (takeOwed (portOf s p)).2.1 ((portOf s p).nextRx - 1) (portOf s p).nextTx)
          (decide (f.cls = 0) && !f.fence) :: l) ∧
    (∀ g, resendNext (portOf s p) = some g →
      ∃ t l, exec (.linkFrameSend p cls) s = .next t ∧ (portOf t p).nextTx = (portOf s p).nextTx ∧
        (portOf t p).txq = (portOf s p).txq ∧
        crGet (portOf t p).txCred g.frame.cls.toNat =
          crGet (portOf s p).txCred g.frame.cls.toNat - (if g.spent then 0 else frameFlits g.frame) ∧
        (portOf t p).replay.map (·.seq) = (portOf s p).replay.map (·.seq) ∧
        t.out = s.out ++ Output.link p
          (encodeFrame g.frame kData true (takeOwed (portOf s p)).1 (takeOwed (portOf s p)).2.1 ((portOf s p).nextRx - 1) g.seq) false ::
            l) ∧
    ((portOf s p).replay.any (·.pend) = true → resendNext (portOf s p) = none → exec (.linkFrameSend p cls) s = .next s)

/-- R62, R68 to R71, R101, R109, R244: a fenced frame is handed on once no earlier frame of its port waits, and stays until then; frames held
across a route change leave once the old route is clear; a waiting class-0 flit leaves once credit has returned, for a link or a fabric port;
the allocator gives one buffer a cycle: to a class-0 flit at the head of its lane first, a reserve one and, while there is none, a shared one,
then to the head of a lane of a link or fabric port, or to an Eddy or backlog; while none is left it only counts.
The places of waiting and the hold of a changed route are those of log entries 15, 82 and 86. -/
def Obligations.HandoverAndPool : Prop :=
    (∀ (s : State) (p : Fin 64) (no arr : Nat) (f : Frame) (r : List (Nat × Nat × Frame)), Alive s →
    linkClock s p = true → (portOf s p).rxFenced = (no, arr, f) :: r →
    (earlierHanded s p no = false → exec (.fencedHandover p) s = .next s) ∧
    (earlierHanded s p no = true → f.dst = s.cfg.memberid → linkCodes.contains (f.csf.setWidth 8) = true →
      ∃ t, exec (.fencedHandover p) s = .next t ∧ (portOf t p).rxFenced = r ∧
        (hubTakes s p = true → (portOf t p).hubOps = (portOf s p).hubOps ++ [(arr, f)] ∧
          t = { s with ports := t.ports, out := t.out }) ∧
        (hubTakes s p = false → (portOf t p).hubOps = (portOf s p).hubOps ∧
          t.c0wait.map (·.frame) = s.c0wait.map (·.frame) ++ [f] ∧ t = { s with ports := t.ports, c0wait := t.c0wait })) ∧
    (∀ q z, earlierHanded s p no = true → f.dst ≠ s.cfg.memberid → f.cls = 0 → f.fence = true → routeTo s f.dst.toNat = some q →
      z = { f with origin := .transit } → ∃ t, exec (.fencedHandover p) s = .next t ∧ (portOf t p).rxFenced = r ∧
        (c0LaneFree s p = true → fencePasses s f.dst.toNat z = true → (portOf t q).txq = (portOf s q).txq ++ [z] ∧
          t = { s with ports := t.ports, out := t.out }) ∧
        (c0LaneFree s p = false ∨ fencePasses s f.dst.toNat z = false → (∀ k, (portOf t k).txq = (portOf s k).txq) ∧
          t.c0wait.map (·.frame) = s.c0wait.map (·.frame) ++ [z] ∧ t = { s with ports := t.ports, c0wait := t.c0wait }))) ∧
  (∀ (s : State) (m : Fin 64) (f : Frame) (r : List Frame), Alive s → smGet [] s.routeHold m = f :: r →
    (oldRouteClear s m = false → exec (.fencedRouteRelease m) s = .next s) ∧
    (∀ q, oldRouteClear s m = true → routeTo s m = some q → ∃ t, exec (.fencedRouteRelease m) s = .next t ∧
      smGet [] t.routeHold m = [] ∧ (portOf t q).txq = (portOf s q).txq ++ f :: r ∧ (∀ j, j ≠ q → portOf t j = portOf s j))) ∧
  (∀ (s : State) (e : Fin 80) (i : Nat) (w : Reserve), Alive s →
    s.c0wait.findIdx? (fun w => decide (w.egress = e.val) && w.buffered) = some i → s.c0wait[i]? = some w →
    let freed (t : State) : Prop := t.c0wait = s.c0wait.eraseIdx i ∧ t.poolRes = s.poolRes - (if w.buf = .reserve then 1 else 0)
    (e.val < 64 → keepsRoute s e = true →
      (linkC0Room s e = true → ∃ t, exec (.class0ReserveRelease e) s = .next t ∧ freed t ∧
        t.poolUsed = s.poolUsed - (if w.buf = .shared then 1 else 0) ∧ (portOf t e).txq = w.frame :: (portOf s e).txq ∧
        t = { s with c0wait := t.c0wait, poolRes := t.poolRes, poolUsed := t.poolUsed, ports := t.ports }) ∧
      (linkC0Room s e = false → exec (.class0ReserveRelease e) s = .next s)) ∧
    (64 ≤ e.val →
      (fbUsable s (e.val - 64) = false → ∃ t, exec (.class0ReserveRelease e) s = .next t ∧ freed t ∧
        t.poolUsed = s.poolUsed - (if w.buf = .shared then 1 else 0) ∧
        smGet 0 t.tel (telLnk w.ingress 13) = sat32 (smGet 0 s.tel (telLnk w.ingress 13)) 1 ∧
        t = { s with c0wait := t.c0wait, poolRes := t.poolRes, poolUsed := t.poolUsed, tel := t.tel }) ∧
      (fbUsable s (e.val - 64) = true → fabricClock s (e.val - 64) = true → 0 < (fbOf s (e.val - 64)).txCred.c0 →
        (fbOf s (e.val - 64)).c0Out < 32 → ∃ t, exec (.class0ReserveRelease e) s = .next t ∧ freed t ∧ Sends s t (e.val - 64) w.flit ∧
        (fbLive (fbOf s (e.val - 64)) = true → .fabric (e.val - 64) w.flit ∈ t.out)) ∧
      (fbUsable s (e.val - 64) = true →
          (fbOf s (e.val - 64)).txCred.c0 = 0 ∨ 32 ≤ (fbOf s (e.val - 64)).c0Out ∨ fabricClock s (e.val - 64) = false →
        exec (.class0ReserveRelease e) s = .next s))) ∧
  (∀ (s : State) (g i : Nat) (w : Reserve), Alive s → rotPick s.rotPtr ((requesters s).filter (96 ≤ ·)) = some (96 + g) →
    c0Head s g = some i → s.c0wait[i]? = some w →
    let takes (t : State) (b : C0Buf) : Prop := t.rotPtr = 96 + g + 1 ∧
      (w.egress ≠ 81 →
        (t.c0wait.filter fun v => decide (v.buf = b)).length = (s.c0wait.filter fun v => decide (v.buf = b)).length + 1) ∧
      (∀ q, w.egress = 81 → routeTo s w.frame.dst.toNat = some q → { w.frame with c0 := b } ∈ (portOf t q).txq ∨
        { w.frame with c0 := b } ∈ smGet [] t.routeHold w.frame.dst.toNat)
    (s.poolRes < 256 → ∃ t, exec .poolAllocate s = .next t ∧ takes t .reserve ∧
      (w.egress ≠ 81 → t.poolRes = s.poolRes + 1 ∧ t.poolUsed = s.poolUsed)) ∧
    (256 ≤ s.poolRes → s.poolUsed < sharedBuffers s → ∃ t, exec .poolAllocate s = .next t ∧ takes t .shared ∧
      (w.egress ≠ 81 → t.poolRes = s.poolRes ∧ t.poolUsed = s.poolUsed + 1)) ∧
    (256 ≤ s.poolRes → sharedBuffers s ≤ s.poolUsed → exec .poolAllocate s = .next (telInc s (telEng 0)))) ∧
  (∀ (s : State) (r : Nat), Alive s → (requesters s).filter (96 ≤ ·) = [] →
    rotPick s.rotPtr ((requesters s).filter (· < 96)) = some r → s.poolUsed < sharedBuffers s →
    (∀ i, r < 64 → laneHead (portOf s r).rxq = some i → (takeBuf i).stored = false →
      ∃ t, exec .poolAllocate s = .next t ∧ t.poolUsed = s.poolUsed + 1 ∧ t.rotPtr = r + 1 ∧
        (portOf t r).rxq = laneTake (fordDepth .link) (portOf s r).rxq ∧ (∀ q, q ≠ r → portOf t q = portOf s q) ∧
        t = { s with poolUsed := t.poolUsed, rotPtr := t.rotPtr, ports := t.ports, tel := t.tel }) ∧
    (∀ f i, r = 64 + f → f < 16 → laneHead (fbOf s f).rxw = some i → (takeBuf i).stored = false →
      ∃ t, exec .poolAllocate s = .next t ∧ t.poolUsed = s.poolUsed + 1 ∧ t.rotPtr = r + 1 ∧
        (fbOf t f).rxw = (laneTake (fordDepth .io) (fbOf s f).rxw).filter (fun j => !j.stored) ∧
        (∀ q, q ≠ f → fbOf t q = fbOf s q) ∧ t = { s with poolUsed := t.poolUsed, rotPtr := t.rotPtr, fbs := t.fbs, tel := t.tel }) ∧
    (∀ f c x, r = 80 + f → f < 16 → (s.streams.find? fun x => wantsAt x f) = some (c, x) →
      ∃ t, exec .poolAllocate s = .next t ∧ t.poolUsed = s.poolUsed + 1 ∧ t.rotPtr = r + 1 ∧
        streamOf t c = (if 0 < x.wantBuf then { x with eddyBufs := x.eddyBufs + 1, wantBuf := x.wantBuf - 1 }
          else { x with backBufs := x.backBufs + 1, backWant := x.backWant - 1 }) ∧
        (∀ k, k ≠ c → streamOf t k = streamOf s k) ∧
        t = { s with poolUsed := t.poolUsed, rotPtr := t.rotPtr, streams := t.streams, fbs := t.fbs, tel := t.tel, out := t.out })) ∧
  (∀ (s : State), Alive s → (requesters s).filter (96 ≤ ·) = [] →
    (requesters s ≠ [] → sharedBuffers s ≤ s.poolUsed → exec .poolAllocate s = .next (telInc s (telEng 0))) ∧
    (requesters s = [] → exec .poolAllocate s = .next s))

/-- R23, R24, R27, R28: a standard lane never holds more than its depth and keeps its entries in order; a class-0 lane holds four flits of its
input, and four of its output; a Ford with an unlocked Brook takes nothing from its writer and shows its reader nothing, so that no frame goes
from a link port to another while the Hub or the other's Brook is unlocked; the depths of the crossings.
That one step carries an entry through every Ford whose reader does not stall is log entry 86. -/
def Obligations.FordsHoldTheirDepth : Prop :=
    (∀ (d : Nat) (q : List RxItem), (fordFill d q).map (fun i => (i.frame, i.no, i.bufs, i.stored)) =
      q.map (fun i => (i.frame, i.no, i.bufs, i.stored)) ∧
    ((q.map (·.ford)).sum ≤ d → ((fordFill d q).map (·.ford)).sum ≤ d) ∧
    (∀ (n : Nat) (i j : RxItem), q[n]? = some i → (fordFill d q)[n]? = some j → i.ford ≤ j.ford ∧ (i.ford + 4 * i.bufs ≤ i.flits → j.ford + 4 * j.bufs ≤ j.flits))) ∧
  (∀ (s : State) (w : Reserve), (waitC0 s w).c0wait.map (·.frame) = s.c0wait.map (·.frame) ++ [w.frame]) ∧
  (∀ (s : State) (g n : Nat) (w v : Reserve), (waitsAt s.c0wait g)[n]? = some w → (waitsAt (fillC0 s).c0wait g)[n]? = some v →
    v = { w with inFord := v.inFord } ∧ (w.inFord = true → v.inFord = true) ∧ (4 ≤ n → v.inFord = w.inFord)) ∧
  (∀ (s : State) (p : Nat), fordOpen s (inputBrook p) = false → fillPort s p = s ∧ (p < 64 → p ∉ requesters s)) ∧
  (∀ (s : State) (p arr seq q : Nat) (f : Frame), routeTo s f.dst.toNat = some q →
    (fordOpen s (16 + q / 8) = false → ∀ k, k ≠ p → portOf (transit s p arr seq f) k = portOf s k) ∧
    (f.cls = 0 → outC0 (portOf (transit s p arr seq f) q) ≤ max 4 (outC0 (portOf s q)))) ∧
  (∀ (s : State) (p arr : Nat) (f : Frame), p < 64 → (portOf (class0Local s p arr f) p).hubOps.length ≤ max 4 (portOf s p).hubOps.length) ∧
  (∀ (s t : State) (pl : Fin 16), exec (.fenSearch pl) s = .next t → ∀ b, (fenLane t b).length ≤ max 16 (fenLane s b).length) ∧
  (∀ (s : State) (b : Nat), lockedOn s b = false ∨ lockedOn s 34 = false → fordOpen s b = false) ∧
  (∀ b, b < 36 → b ≠ 34 → fordWidth = 64 ∧
    fordDepth (brookKind b) = (if b < 32 then 16 else if b < 34 then 32 else 8) ∧
    class0Depth (brookKind b) = (if 16 ≤ b ∧ b < 28 then 4 else 0))

/-! ## Admission (chapter 3) -/

/-- R72, R73, R85 to R87, R146: an SOS frame that fails one of checks 1 to 3 opens no stream and is answered on its port and STAG with one Refuse record that
carries the status of the first check that failed; one that passes them waits, with the vocabulary and the grammar that it names, while its
header key is searched.  That a header mask that is not enabled gives No route is the model's choice (log entry 93). -/
def Obligations.AdmissionBegins : Prop :=
    (∀ (s : State) (p : Nat) (f : Frame),
    ((roleOf s p = .peer ∧ current s f.src.toNat f.epoch = false) ∨ (tenOf s f.tenant.toNat).en = false →
      earlyChecks s p f = some (stNotAdmitted, true)) ∧
    (check1 s p f = none → (tenOf s f.tenant.toNat).en = true ∧ 16 ≤ f.payload.length ∧
      (parsePreamble f.payload).resvZero = true ∧ (roleOf s p = .peer → current s f.src.toNat f.epoch = true)) ∧
    (check1 s p f = none → s.fuses.lc ≠ 1 ∧ s.fuses.lc ≠ 2 → earlyChecks s p f = some (stLifecycle, true)) ∧
    (check1 s p f = none → s.fuses.lc = 1 ∨ s.fuses.lc = 2 → advancing s = false →
      s.boot.fenced = true ∨ s.setAct = false ∨ s.boot.farBad = true → earlyChecks s p f = some (stCannotScreen, true)) ∧
    (check1 s p f = none → check2 s f = none → stagOpen s p f.tenant.toNat f.csf = true →
      earlyChecks s p f = some (stStagInUse, false)) ∧
    (earlyChecks s p f = none → stagOpen s p f.tenant.toNat f.csf = false ∧ rillsOn s ≥
      (smGet {} (actTab s).recs f.tenant.toNat).minRills)) ∧
  (∀ (s : State) (p : Fin 64) (i : RxItem) (r : List RxItem) (f : Frame), Alive s → (portOf s p).rxq = i :: r → i.stored = true →
    f = i.frame → f.cls = 1 → f.sos = true → (∀ a ∈ s.adms, a.port ≠ p.val) →
    (∀ st disc, earlyChecks s p f = some (st, disc) → ∃ t, exec (.admission p) s = .next t ∧
      (∀ a ∈ t.adms, a.port ≠ p.val) ∧ (∀ c, (streamOf t c).inUse = true → (streamOf s c).inUse = true) ∧
      smGet 0 t.tel (telTen f.tenant.toNat 6) = sat32 (smGet 0 s.tel (telTen f.tenant.toNat 6)) 1 ∧
      (keepsRoute s p = true → recordFrame s f (refuseRec f st 0 0) ∈ (portOf t p).txq)) ∧
    (∀ m, m = maskOfTenant s f.tenant.toNat ktHeader → earlyChecks s p f = none → bmEn m = false →
      ∃ t, exec (.admission p) s = .next t ∧ (∀ a ∈ t.adms, a.port ≠ p.val) ∧
        (∀ c, (streamOf t c).inUse = true → (streamOf s c).inUse = true) ∧
        smGet 0 t.tel (telTen f.tenant.toNat 6) = sat32 (smGet 0 s.tel (telTen f.tenant.toNat 6)) 1 ∧
        (keepsRoute s p = true → recordFrame s f (refuseRec f stSNoRoute 0 0) ∈ (portOf t p).txq)) ∧
    (∀ m, m = maskOfTenant s f.tenant.toNat ktHeader → earlyChecks s p f = none → bmEn m = true → pipeRoom s m = true →
      ∃ t, exec (.admission p) s = .next t ∧ t.adms = s.adms ++ [{
          frame := f, port := p, bufs := i.bufs, vocabObj := (namedVocab s f).getD 0, gramObj := namedGrammar s f }] ∧
        (portOf t p).rxq = r ∧ (∀ q, q ≠ p.val → portOf t q = portOf s q) ∧
        smGet [] t.fenQ (pipeOf m) = smGet [] s.fenQ (pipeOf m) ++
          [.header p f.tenant.toNat (headerKey f.tenant.toNat p f.src (parsePreamble f.payload) f.csf) m] ∧
        t = { s with adms := t.adms, ports := t.ports, fenQ := t.fenQ, discards := t.discards }))

/-- R36, R72, R96, R103, R105 to R107, R110, R146, R149, R151, R266, R287: the first-match result routes an admission or refuses it with the status of its outcome; a routed one
opens the lowest free context with its tenant's masks, its set, its vocabulary and its grammar captured and its KV cache, joins an open original, repeats the verdict of an ended one, or is
Busy with a hint; one for which check 2 no longer holds is refused with its status.
The lowest free context and what a duplicate gets are those of log entries 26 and 27. -/
def Obligations.AdmissionDecides : Prop :=
    (∀ (s s' : State) (p : Nat) (r : FirstResult) (a : Adm), Alive s →
    takeResult s isFirst = some (.first p r, s') → (s.adms.find? fun a => decide (a.port = p) && !a.routed) = some a →
    (∀ act ix pr, r = .hit act ix pr → actType act ≠ 2 → fbUsable s (actFbport act) = true →
      ∃ t, exec .fenFirstMatchResult s = .next t ∧ t.fenRes = s'.fenRes ∧
        (∀ b ∈ t.adms, b.port = p → b.routed = true ∧ b.fbport = actFbport act ∧ b.policy = BitVec.ofNat 16 (actPolicy act) ∧
          b.inlane = 8 * (actFbport act / 4) + actInlane act ∧ b.outlane = 8 * (actFbport act / 4) + actOutlane act) ∧
        t.adms.length = s.adms.length ∧ t = { s with adms := t.adms, fenRes := t.fenRes }) ∧
    (∀ st pol, (r = .error ∧ st = stFenError ∧ pol = 0) ∨ (r = .miss ∧ st = stSNoRoute ∧ pol = 0) ∨
        (∃ act ix pr, r = .hit act ix pr ∧ actType act = 2 ∧ st = stDenied ∧ pol = BitVec.ofNat 16 (actDenyPolicy act)) ∨
        (∃ act ix pr, r = .hit act ix pr ∧ actType act ≠ 2 ∧ fbUsable s (actFbport act) = false ∧ st = stFabricPortIdle ∧
          pol = BitVec.ofNat 16 (actPolicy act)) →
      ∃ t, exec .fenFirstMatchResult s = .next t ∧ t.fenRes = s'.fenRes ∧ (∀ b ∈ t.adms, b.port ≠ p) ∧
        (keepsRoute s p = true → recordFrame s a.frame (refuseRec a.frame st pol 0) ∈ (portOf t p).txq))) ∧
  (∀ (s : State) (p : Fin 64) (a : Adm) (f : Frame) (tn : Nat), Alive s → (s.adms.find? fun a => decide (a.port = p.val)) = some a →
    a.routed = true → fbUsable s a.fbport = true → check2 s a.frame = none → f = a.frame → tn = f.tenant.toNat →
    (∀ c, cacheHit s tn (parsePreamble f.payload).reqid = none → quotaRoom s tn = true →
      ((freshReqs s).filter fun e => e.tenant = tn).length < cacheShare s tn → freeContext s = some c →
      ∃ t, exec (.admission p) s = .next t ∧ (streamOf t c).inUse = true ∧ (streamOf t c).port = p.val ∧
        (streamOf t c).stag = f.csf ∧ (streamOf t c).tenant = tn ∧ (streamOf t c).fbport = a.fbport ∧
        (streamOf t c).vocabObj = a.vocabObj ∧ (streamOf t c).gramObj = a.gramObj ∧
        (streamOf t c).policy = a.policy ∧ (streamOf t c).setEpoch = s.setEpoch ∧ (streamOf t c).tab = s.actB ∧
        (streamOf t c).maskN = maskOfTenant s tn ktNgram ∧ (streamOf t c).maskH = maskOfTenant s tn ktHashed ∧
        (streamOf t c).reqid = (parsePreamble f.payload).reqid ∧ (streamOf t c).gen = (parsePreamble f.payload).gen ∧
        (∀ k, k ≠ c → (streamOf t k).inUse = (streamOf s k).inUse) ∧ (objOf t (2 * c)).kind = .kvCache ∧
        (objOf t (2 * c)).owner = tn ∧ (objOf t (2 * c)).size = 6684672 ∧
        t.reqs = freshReqs s ++ [{ tenant := tn, reqid := (parsePreamble f.payload).reqid, port := p, stag := f.csf, ctx := c }] ∧
        smGet 0 t.tel (telTen tn 0) = sat32 (smGet 0 s.tel (telTen tn 0)) 1 ∧ (∀ b ∈ t.adms, b.port ≠ p.val)) ∧
    (∀ e at0, cacheHit s tn (parsePreamble f.payload).reqid = some e → e.ended = some at0 →
      ∃ t, exec (.admission p) s = .next t ∧ (∀ k, (streamOf t k).inUse = (streamOf s k).inUse) ∧ (∀ b ∈ t.adms, b.port ≠ p.val) ∧
        smGet 0 t.tel (telTen tn 2) = sat32 (smGet 0 s.tel (telTen tn 2)) 1 ∧
        (keepsRoute s p = true → recordFrame s f { refuseRec f stSDuplicate e.verdict.policy 0 with
            vkind := e.verdict.vkind, trunc := e.verdict.trunc, ooc := e.verdict.ooc, capped := e.verdict.capped, dup := true } ∈ (portOf t p).txq)) ∧
    (∀ e, cacheHit s tn (parsePreamble f.payload).reqid = some e → e.ended = none → (streamOf s e.ctx).dups.length < 3 →
      ∃ t, exec (.admission p) s = .next t ∧
        (streamOf t e.ctx).dups = (streamOf s e.ctx).dups ++ [{ port := p, stag := f.csf, src := f.src }] ∧
        (∀ k, (streamOf t k).inUse = (streamOf s k).inUse) ∧ (∀ b ∈ t.adms, b.port ≠ p.val)) ∧
    (cacheHit s tn (parsePreamble f.payload).reqid = none → quotaRoom s tn = false →
      ∃ t, exec (.admission p) s = .next t ∧ (∀ k, (streamOf t k).inUse = (streamOf s k).inUse) ∧ (∀ b ∈ t.adms, b.port ≠ p.val) ∧
        smGet 0 t.tel (telTen tn 1) = sat32 (smGet 0 s.tel (telTen tn 1)) 1 ∧
        (keepsRoute s p = true → recordFrame s f (refuseRec f stSBusy a.policy (retryUnits (busyWait s tn))) ∈ (portOf t p).txq))) ∧
  (∀ (s : State) (p : Fin 64) (a : Adm) (st : W16), Alive s → (s.adms.find? fun a => decide (a.port = p.val)) = some a → a.routed = true →
    check2 s a.frame = some st ∨ check2 s a.frame = none ∧ fbUsable s a.fbport = false ∧ st = stFabricPortIdle →
    ∃ t, exec (.admission p) s = .next t ∧ (∀ k, (streamOf t k).inUse = (streamOf s k).inUse) ∧ (∀ b ∈ t.adms, b.port ≠ p.val) ∧
      (keepsRoute s p = true → recordFrame s a.frame (refuseRec a.frame st a.policy 0) ∈ (portOf t p).txq))

/-! ## Prompt text, searches and answer text (chapters 3 to 5 and 8) -/

/-- R120, R122: units cover the text byte for byte and in order, a unit is one byte or one well-formed sequence, and a text that has ended leaves nothing;
chunks hold the units in order and at most 64 bytes each.  R108: a lane serves a stream whose bytes came within their contract before the
others, and each group in turn; an intake read takes the bytes of the stream's next segment into chunks, all but the begin of a character that
is still to come, and reads no other stream.
R128, R140, R144, R146, R148, R149, R153: a merged chunk's tokens enter the stream in chunk order; a search returns the action, index and priority of the
winner, which is the highest priority, then the lowest index, or every match, and Error with a suspect bank or a bad entry; a count result adds its weights to its
token and its features to the sketch, takes part in the verdict with some marker of the tenant, and ends the stream on Error.
Results leave their Ford in order, and a search waits while it is full (R23, R24).
Log entries 4, 28, 76, 77, 86 and 93 name the readings. -/
def Obligations.ChunksAndSearches : Prop :=
  ((∀ (final : Bool) (l : List Byte), (decodeUnits final l.length l).1.flatMap (·.bytes) ++ (decodeUnits final l.length l).2 = l ∧
    (final = true → (decodeUnits final l.length l).2 = []) ∧
    ∀ u ∈ (decodeUnits final l.length l).1, (u.valid = false → u.bytes.length = 1) ∧
      (u.valid = true → ∃ b r rs, u.bytes = b :: r ∧ followRanges b.toNat = some rs ∧ r.length = rs.length ∧
        fitRanges rs r = .whole)) ∧
  (∀ (v : Vocab) (off : Nat) (cur us : List TextUnit), unitsLen cur ≤ 64 → (∀ u ∈ us, u.bytes.length ≤ 64) →
    ((addUnits v off cur us).1.flatMap (·.units)) ++ (addUnits v off cur us).2.2 = cur ++ us ∧
    (∀ k ∈ (addUnits v off cur us).1, unitsLen k.units ≤ 64) ∧ unitsLen (addUnits v off cur us).2.2 ≤ 64 ∧
    (addUnits v off cur us).2.1 = off + ((addUnits v off cur us).1.map fun k => unitsLen k.units).sum) ∧
  (∀ (s : State) (lane c : Nat), laneNext s lane = some c → ∃ w, laneWants s lane w c = true ∧
    (w = false → ∀ d, laneWants s lane true d = false) ∧
    (∀ d, laneWants s lane w d = true → smGet 0 s.laneTurn (turnOf lane w) ≤ d → smGet 0 s.laneTurn (turnOf lane w) ≤ c ∧ c ≤ d) ∧
    (c < smGet 0 s.laneTurn (turnOf lane w) → ∀ d, laneWants s lane w d = true → c ≤ d)) ∧
  (∀ (s : State) (c : Fin 32768), Alive s → lockedOn s (streamBrook s c) = true → (streamOf s c).inUse = true →
    ((laneStalled s (streamOf s c).inlane = true ∨ laneNext s (streamOf s c).inlane ≠ some c.val) →
      exec (.intakeLaneRead c) s = .next s) ∧
    (∀ g r, laneStalled s (streamOf s c).inlane = false → laneNext s (streamOf s c).inlane = some c.val →
      (streamOf s c).segs = g :: r →
      ∃ t e n k, exec (.intakeLaneRead c) s = .next t ∧ e = ((streamOf s c).promptEnd && r.isEmpty) ∧
        n = (streamOf s c).buf.length - (r.map (·.len)).sum ∧ k ≤ n ∧ n ≤ k + 3 ∧
        (((streamOf t c).chunks.flatMap (·.units)) ++ (streamOf t c).openChunk).flatMap (·.bytes) =
          (((streamOf s c).chunks.flatMap (·.units)) ++ (streamOf s c).openChunk).flatMap (·.bytes) ++ (streamOf s c).buf.take k ∧
        (streamOf t c).buf = (streamOf s c).buf.drop k ∧
        (e = false → nextUnit false (((streamOf s c).buf.take n).drop k) = none) ∧
        (streamOf t c).intakeDone = e ∧ (e = true → (streamOf t c).buf = [] ∧ (streamOf t c).openChunk = []) ∧
        (streamOf t c).segs = r ∧ (streamOf t c).promptBufs = (streamOf s c).promptBufs - g.bufs ∧
        t.poolUsed = s.poolUsed - g.bufs ∧ smGet 0 t.laneTurn (turnOf (streamOf s c).inlane g.within) = c.val + 1 ∧
        (∀ i, i ≠ turnOf (streamOf s c).inlane g.within → smGet 0 t.laneTurn i = smGet 0 s.laneTurn i) ∧
        (∀ k, k ≠ c.val → streamOf t k = streamOf s k) ∧
        t = { s with streams := t.streams, poolUsed := t.poolUsed, laneTurn := t.laneTurn, jobs := t.jobs, tel := t.tel }))) ∧
  ((∀ (s : State) (c : Fin 32768) (k : Chunk) (r : List Chunk), Alive s → lockedOn s (streamBrook s c) = true →
    (streamOf s c).chunks = k :: r → laneStalled s (streamOf s c).inlane = false →
    ∃ t, exec (.mergeWave c) s = .next t ∧ (streamOf t c).chunks = r ∧
      (streamOf t c).tokens = (streamOf s c).tokens ++ tokensOf k.off (mergeChunk (vocabOf s (streamOf s c)) k.units) ∧
      (streamOf t c).weights = (streamOf s c).weights ++
        (tokensOf k.off (mergeChunk (vocabOf s (streamOf s c)) k.units)).map (fun _ => 0) ∧
      (∀ j, j ≠ c.val → streamOf t j = streamOf s j) ∧
      t = { s with streams := t.streams, fenQ := t.fenQ, jobs := t.jobs, tel := t.tel }) ∧
  (∀ (s s' : State) (want : FenResult → Bool) (r : FenResult), takeResult s want = some (r, s') → ∃ i pl, s.fenRes[i]? = some (pl, r) ∧
    want r = true ∧ fordOpen s (28 + pl / 4) = true ∧ (∀ j q, j < i → s.fenRes[j]? = some q → q.1 / 4 ≠ pl / 4) ∧
    s' = { s with fenRes := s.fenRes.eraseIdx i }) ∧
  (∀ (s : State) (pl : Fin 16), Alive s → resultRoom s pl = false → exec (.fenSearch pl) s = .next s) ∧
  (∀ (s : State) (pl : Fin 16) (r : List Search), Alive s → lockedOn s (28 + pl.val / 4) = true → resultRoom s pl = true →
    (∀ p tn k m, pipeQ s pl = .header p tn k m :: r → ∃ t res l, exec (.fenSearch pl) s = .next t ∧
      t.fenRes = s.fenRes ++ [(pl.val, .first p res)] ∧ pipeQ t pl = r ++ l ∧
      (fenSuspect s m = true ∨ (∃ x ∈ fenHits s m k, actParityGood x.2 = false) → res = .error) ∧
      (fenSuspect s m = false → (∀ x ∈ fenHits s m k, actParityGood x.2 = true) →
        (fenHits s m k = [] → res = .miss) ∧
        (fenHits s m k ≠ [] → ∃ x ∈ fenHits s m k, res = .hit (fenAction x.2.bits) x.1 (fenPrio x.2.bits) ∧
          ∀ y ∈ fenHits s m k, fenPrio y.2.bits ≤ fenPrio x.2.bits ∧ (fenPrio y.2.bits = fenPrio x.2.bits → x.1 ≤ y.1))) ∧
      t = { s with fenRes := t.fenRes, fenQ := t.fenQ, scrubQ := t.scrubQ, streams := t.streams }) ∧
    (∀ c i h k m, pipeQ s pl = .count c i h k m :: r → ∃ t err l, exec (.fenSearch pl) s = .next t ∧
      t.fenRes = s.fenRes ++ [(pl.val, .count c i ((fenHits s m k).map fun x => (matchLen h x.2.bits, fenAction x.2.bits)) err)] ∧
      pipeQ t pl = r ++ l ∧
      (err = true ↔ fenSuspect s m = true ∨ ∃ x ∈ fenHits s m k, actParityGood x.2 = false) ∧
      t = { s with fenRes := t.fenRes, fenQ := t.fenQ, scrubQ := t.scrubQ, streams := t.streams })) ∧
  (∀ (r : SetRec) (v w : Nat), (∃ m ∈ r.markers, m.vslot = v) → ∃ m ∈ r.markers, m.vslot = v ∧ someMarker r v w = m.markid) ∧
  (∀ (s s' : State) (c tok : Nat) (hits : List (Nat × W32)) (err : Bool), Alive s →
    takeResult s (fun r => !isFirst r) = some (.count c tok hits err, s') → (streamOf s c).inUse = true →
    (err = true → ∃ t, exec .fenCountResult s = .next t ∧ t.fenRes.length < s.fenRes.length ∧ (streamOf t c).inUse = false) ∧
    (err = false → ∃ t, exec .fenCountResult s = .next t ∧ t.fenRes = s'.fenRes ∧
      (∀ w, (streamOf s c).weights[tok]? = some w →
        (streamOf t c).weights[tok]? = some (w + (hits.map fun h => actWeight h.2).sum)) ∧
      (∀ j, j ≠ tok → (streamOf t c).weights[j]? = (streamOf s c).weights[j]?) ∧
      (∀ k, smGet 0 (streamOf s c).sketch k ≤ 32767 → smGet 0 (streamOf t c).sketch k =
        min 32767 (smGet 0 (streamOf s c).sketch k + (hits.filter fun h => decide (actFeat h.2 % 4096 = k)).length)) ∧
      (∀ h ∈ hits, actVreq h.2 = 2 → (streamOf t c).worst = .refuse) ∧
      ((∀ h ∈ hits, actVreq h.2 ≠ 1 ∧ actVreq h.2 ≠ 2) → (streamOf t c).worst = (streamOf s c).worst ∧
        (streamOf t c).spans = (streamOf s c).spans) ∧
      (streamOf t c).spans.length = (streamOf s c).spans.length + (hits.filter fun h => decide (actVreq h.2 = 1)).length ∧
      (∀ j, j ≠ c → streamOf t j = streamOf s j) ∧
      t = { s with fenRes := t.fenRes, streams := t.streams, jobs := t.jobs, tel := t.tel, free := t.free })))

/-- R125: merge_wave returns what merge_reference returns, for every chunk of every vocabulary that passes R118. -/
def Obligations.WavesMergeAsReference : Prop :=
    ∀ (o : List Byte) (v : Vocab) (us : List TextUnit), parseVocab o = some v →
    mergeChunk v us = mergeReference v (initialSymbols v us).length (initialSymbols v us)

/-! ## Rill programs, the answer path and the deep stage (chapters 4, 6 and 7) -/

/-- R20, R21, R28, R34, R39, R107, R274, R295: the first queued job whose classifier is out of the slow tier goes to Rills that are in the mask,
powered, not draining and reached by open Fords: it enters the dispatch queue of their Brook, and starts there once they are free and, for a
classifier in the far tier, the reads of its weights can be issued; the Rills are no longer idle and are brought to the slowest setting among
them; on other Rills it does not start; the streams of a queued job with a classifier in the slow tier wait, and it starts its demand move.
Log entries 31, 35 and 48 name the readings. -/
def Obligations.ProgramsDispatch : Prop :=
    (∀ (s : State) (l : List (Fin 128)) (a b : List Job) (j : Job) (o ten : Nat) (p : Prog), Alive s → s.jobs = a ++ j :: b → j ∉ a →
    (∀ i ∈ s.jobs, ∃ o ten, jobObj s i = some (o, ten) ∧ ((objOf s o).home.tier = .slow ↔ i ∈ a)) →
    (∀ i ∈ a, ∀ o ten, jobObj s i = some (o, ten) → (objOf s o).state ≠ .home) → jobObj s j = some (o, ten) →
    p = { job := j, rills := l.map (·.val), obj := o, tenant := ten, kvCtx := stepCtx j } →
    let waits (t : State) : Prop :=
      ∀ c, streamOf t c = { streamOf s c with waited := (streamOf s c).waited || a.any fun i => (liveStreams s i).contains c }
    let reads : Option State := if (objOf s o).home.tier = .far then
      memIssue s (objOf s o).home.loc.toNat (objOf s o).size false (.weights s.progNo o) else some s
    let step (m : Nat) : Nat := ladderDiv (heathAt s (heathOf m)).step (rillRole s m) false
    (l ≠ [] → l.Nodup → s.disp = [] →
      (∀ n ∈ l, s.mask.contains n.val = true ∧ s.draining.contains n.val = false ∧ (plotOf s n).st ≠ .gated ∧
        fordOpen s (n.val / 8) = true) →
      (∀ u v, (∀ n ∈ l, rillFree s n = true) → reads = some v → u = s.progNo →
        ∃ t, exec (.rillDispatch l) s = .next t ∧ waits t ∧ t.jobs = a ++ b ∧ smGet [] t.progs u = [p] ∧ t.progNo = u + 1 ∧
          (∀ k, k ≠ u → smGet [] t.progs k = smGet [] s.progs k) ∧ (∀ k, smGet [] t.disp k = []) ∧
          (∀ n ∈ l, (plotOf t n).div = maxOf (l.map fun (m : Fin 128) => step m) ∧ (plotOf t n).usedAt = s.now + 1 ∧
            (plotOf t n).stretch = (plotOf s n).stretch ∧
            ((plotOf t n).stretch = true ∨ (plotOf t n).follows = true ↔ ∃ m ∈ l, (plotOf s m).stretch = true)) ∧
          (∀ n, n ∉ l.map (·.val) → plotOf t n = plotOf s n) ∧
          t = { s with
              streams := t.streams, jobs := t.jobs, progs := t.progs, progNo := t.progNo, plots := t.plots, disp := t.disp,
              memTags := v.memTags, memRest := v.memRest, out := v.out }) ∧
      ((∃ n ∈ l, rillFree s n = false) ∨ reads = none →
        ∃ t, exec (.rillDispatch l) s = .next t ∧ waits t ∧ t.jobs = a ++ b ∧ smGet [] t.disp ((l.map (·.val)).headD 0 / 8) = [p] ∧
          t = { s with streams := t.streams, jobs := t.jobs, disp := t.disp })) ∧
    ((l = [] ∨ ¬ l.Nodup ∨ ∃ n ∈ l, s.mask.contains n.val = false ∨ s.draining.contains n.val = true ∨ (plotOf s n).st = .gated ∨
        fordOpen s (n.val / 8) = false) →
      ∃ t, exec (.rillDispatch l) s = .next t ∧ waits t ∧ t = { s with streams := t.streams })) ∧
  (∀ (s : State) (l : List (Fin 128)) (j : Job) (o ten : Nat), Alive s → s.jobs = [j] → jobObj s j = some (o, ten) →
    (objOf s o).state = .home → (objOf s o).home.tier = .slow →
    moveAllowed s o (if (objOf s o).pref.tier = .slow then { tier := .far } else (objOf s o).pref) = true →
    ((objOf s o).pref.tier = .near → (objOf s o).pref.pool = false → s.mask.contains (objOf s o).pref.rill = true) →
    roomIn s (if (objOf s o).pref.tier = .slow then { tier := .far } else (objOf s o).pref) (objOf s o).size = true →
    ∃ t m, exec (.rillDispatch l) s = .next t ∧ (objOf t o).state = .moving ∧ (objOf t o).move = some m ∧ m.demand = true ∧
      m.fromHost = false ∧ m.dest.tier = (if (objOf s o).pref.tier = .slow then .far else (objOf s o).pref.tier) ∧
      (∀ k, k ≠ o → objOf t k = objOf s k) ∧ smGet 0 t.tel (telTen ten 18) = sat32 (smGet 0 s.tel (telTen ten 18)) 1 ∧
      (∀ c, streamOf t c = { streamOf s c with waited := (streamOf s c).waited || (liveStreams s j).contains c }) ∧
      t.jobs = [j] ∧ t.dmaTag = s.dmaTag + 1 ∧
      t = { s with
          streams := t.streams, objs := t.objs, dmaQ := t.dmaQ, dmaWait := t.dmaWait, dmaTag := t.dmaTag, memTags := t.memTags,
          conTags := t.conTags, memRest := t.memRest, conRest := t.conRest, out := t.out, tel := t.tel })

/-- R16, R76, R78, R82, R83, R96, R99, R100, R168, R197, R201, R204, R206: what a finished program does once its requests are answered.  Its SRAM
and the counts of its Rills stay, and the errors that it corrected are counted.  A window or summary verdict joins the prompt verdict, and
the last one decides it; a first-stage verdict releases or holds its token's text, writes the KV slots and the carried block back and moves
the step on, which has written its slot in every plane and reached every point once; a deep verdict clears the released text of its snapshot
and releases what was held; Refuse ends the stream; a double-bit error ends the streams and loses the object that holds the word and the
failing Rill's counts, and the errors corrected are counted all the same.
The prompt of a stream whose grammar is in the far tier is forwarded once its tables have come (R222, R228).
What the microcode has the units do, and the verdicts, are operands, and how a verdict of Hold counts, the order of equal verdicts (R82), which stage keeps which
text (R99, R102), and the reads for the position-0 mask, are those of log entries 9, 20, 33 to 37, 48, 90 and 91. -/
def Obligations.ProgramsComplete : Prop :=
    (∀ (s : State) (prog c : Nat) (p : Prog) (r : List Prog) (out : ProgOut), Alive s → s.draining = [] → s.disp = [] →
    smGet [] s.progs prog = p :: r → (∀ n ∈ p.rills, lockedOn s (n / 8) = true) → weightsAsked s prog = false → p.rills.Nodup →
    ownError p out = none → (streamOf s c).inUse = true → ((∃ k e, p.job = .window c k e) ∨ p.job = .summary c) →
    let x := streamOf s c
    let v := verdictAt out.verdicts 0
    let w := worseOf (x.worst, x.worstPolicy) (v.sev, v.policy)
    let run := runOps (runOn s p 0) out.ops (runFrom s p out)
    ∃ t, exec (.rillProgramComplete prog out) s = .next t ∧ smGet [] t.progs prog = [] ∧
      t.sram = run.sram ∧ t.flips = run.flips ∧ smGet 0 t.tel (telEng 3) = sat32 (smGet 0 s.tel (telEng 3)) run.fixed ∧
      (∀ n ∈ p.rills, (blockOf t n p.obj).points = ((run.rows.filter fun y => decide (y.1 = n)).map (·.2)).foldl
        (fun l r => addAt l r.1 (rowPoint r.2)) (blockOf s n p.obj).points) ∧
      ((1 < x.outstanding ∨ x.finalQueued = false ∨ x.verdictDone = true) → streamOf t c =
          { x with worst := w.1, worstPolicy := w.2, outstanding := x.outstanding - 1,
                   spans := x.spans ++ if v.sev = .redact then spansOf v else [] } ∧
        (∀ k, k ≠ c → streamOf t k = streamOf s k) ∧
        t = { s with progs := t.progs, streams := t.streams, counters := t.counters, tel := t.tel, sram := t.sram, flips := t.flips }) ∧
      (x.outstanding ≤ 1 → x.finalQueued = true → x.verdictDone = false →
        ((w.1 = .refuse ∨ w.1 = .hold ∨ ((recOfStream s x).capref = true ∧ x.capped = true)) → (streamOf t c).inUse = false) ∧
        (w.1 = .pass → ((recOfStream s x).capref && x.capped) = false →
          (x.gen = true → makeMask (grammarOf s x) (vocabOf s x).eostok x.hedge ≠ []) →
          (streamOf t c).inUse = true ∧ (streamOf t c).verdictDone = true ∧
          (farGrammar s x = none → (streamOf t c).fwdIds = x.tokens.length ∧ (streamOf t c).maskDue = false) ∧
          (farGrammar s x ≠ none → (streamOf t c).fwdIds = x.fwdIds ∧ (streamOf t c).maskDue = true) ∧
          (answerEnded (vocabOf s x) x = false →
            (streamOf t c).deadline = some (s.now + 1000 * max 50 (tenOf s x.tenant).deadline))))) ∧
  (∀ (s : State) (prog : Nat) (p : Prog) (r : List Prog) (out : ProgOut), Alive s → smGet [] s.progs prog = p :: r →
    (weightsAsked s prog = true ∨ (∃ n ∈ p.rills, lockedOn s (n / 8) = false) ∨
      (∃ c pos car, p.job = .firstStage c pos car ∧ wholeStep (classDesc s p.obj) out.ops = false)) →
    exec (.rillProgramComplete prog out) s = .next s) ∧
  (∀ (s : State) (prog c pos : Nat) (car : Option Carried) (p : Prog) (r : List Prog) (out : ProgOut) (run : RillRun), Alive s →
    s.draining = [] → s.disp = [] → smGet [] s.progs prog = p :: r → p.job = .firstStage c pos car →
    (∀ n ∈ p.rills, lockedOn s (n / 8) = true) → ownError p out = none → (streamOf s c).inUse = true →
    wholeStep (classDesc s p.obj) out.ops = true → run = (runStep (runOn s p pos) car out.ops (runFrom s p out)).1 →
    stepStalls s prog p run = false →
    let x := streamOf s c
    let v := verdictAt out.verdicts 0
    let part := x.eddy.takeWhile fun b => decide (b.tok ≤ pos)
    ∃ t, exec (.rillProgramComplete prog out) s = .next t ∧ smGet [] t.progs prog = [] ∧ t.sram = run.sram ∧
      (v.sev = .refuse → (streamOf t c).inUse = false) ∧
      (v.sev ≠ .refuse → (streamOf t c).inUse = true ∧ (streamOf t c).stepped = pos + 1 ∧ (streamOf t c).stepping = none ∧
        (streamOf t c).blockAck = false ∧
        smGet {} t.blocks c = { pos := BitVec.ofNat 32 pos, points := presentBlock (classDesc s p.obj).points.length run.obs } ∧
        smGet [] t.kv c = run.kv ∧
        (∀ k, k ≠ c → streamOf t k = streamOf s k)) ∧
      (v.sev = .pass → x.deepHold = false → (∀ b ∈ part, b.st ≠ .held) →
        (streamOf t c).eddy = part.map (fun b => { b with st := .released }) ++ x.eddy.drop part.length) ∧
      (v.sev = .hold → (∀ b ∈ part, b.st = .released ∨ b.tok = pos ∧ b.st = .written) →
        (streamOf t c).eddy = part.map (fun b => if b.st = .released then b else { b with st := .held }) ++
          x.eddy.drop part.length) ∧
      (v.sev ≠ .refuse → (streamOf t c).eddyOff = x.eddyOff)) ∧
  (∀ (s : State) (prog tn k at0 i c snap : Nat) (late : Bool) (p : Prog) (l : List (Nat × Nat)) (r : List Prog) (out : ProgOut),
    Alive s → s.draining = [] → s.disp = [] → smGet [] s.progs prog = p :: r → p.job = .deep tn k l at0 late →
    (∀ n ∈ p.rills, lockedOn s (n / 8) = true) → weightsAsked s prog = false → ownError p out = none → l[i]? = some (c, snap) →
    (streamOf s c).inUse = true → (∀ j y, l[j]? = some y → y.1 = c → j = i) →
    let x := streamOf s c
    let v := verdictAt out.verdicts i
    let part := x.eddy.takeWhile fun b => decide (b.tok < snap) && decide (b.st ≠ .written)
    let rel := part.takeWhile fun b => decide (b.st = .released)
    let rest := (part.drop rel.length).map (fun b => { b with st := EddyState.released }) ++ x.eddy.drop part.length
    let ends := x.textEnded && decide (x.stepped = x.outToks) && decide (x.outToks ≤ snap) && rest.isEmpty
    ∃ t, exec (.rillProgramComplete prog out) s = .next t ∧ smGet [] t.progs prog = [] ∧
      ((v.sev = .refuse ∨ v.sev = .hold) → (streamOf t c).inUse = false) ∧
      (v.sev = .pass → (streamOf t c).inUse = !ends ∧ (ends = false → (streamOf t c).eddy = rest ∧
        (streamOf t c).eddyOff = ((rel.getLast?).map (·.past)).getD x.eddyOff)) ∧
      ((v.sev = .pass ∨ v.sev = .redact) → (streamOf t c).inUse = true →
        (streamOf t c).deepHold = (x.deepHold && (late || decide (at0 + 88000 < s.now)))) ∧
      (∀ m, (∀ y ∈ l, y.1 ≠ m) → streamOf t m = streamOf s m)) ∧
  (∀ (s : State) (prog : Nat) (p : Prog) (r : List Prog) (out : ProgOut) (e : SramErr) (run : RillRun) (ev : Option (Nat × Breach)),
    Alive s → s.draining = [] → s.disp = [] → smGet [] s.progs prog = p :: r → (∀ n ∈ p.rills, lockedOn s (n / 8) = true) →
    (run, ev) = runProg s p out → stepStalls s prog p run = false → progFits s p out = true → p.rills.Nodup →
    out.sramErr = some e → e.rill ∈ p.rills →
    ∃ t, exec (.rillProgramComplete prog out) s = .next t ∧ smGet [] t.progs prog = [] ∧ t.sram = run.sram ∧ t.flips = run.flips ∧
      smGet 0 t.tel (telEng 3) = sat32 (smGet 0 s.tel (telEng 3)) run.fixed ∧
      (ev = none → ∀ n ∈ p.rills, n ≠ e.rill → (blockOf t n p.obj).points =
        ((run.rows.filter fun y => decide (y.1 = n)).map (·.2)).foldl (fun l r => addAt l r.1 (rowPoint r.2))
          (blockOf s n p.obj).points) ∧
      (∀ c ∈ liveStreams s p.job, (streamOf t c).inUse = false) ∧ (∀ b ∈ t.counters, b.rill ≠ e.rill) ∧
      (∀ o, objAt s e.rill e.word = some o →
        ((objOf t o).state = .lost ∨ (objOf t o).state = .free) ∧ ((objOf t o).state = .lost → e.rill ∉ t.mask)) ∧
      smGet 0 t.tel (telEng 4) = sat32 (smGet 0 s.tel (telEng 4)) 1 ∧ (∀ n ∈ t.mask, n ∈ s.mask))

/-- R167, R170, R172, R177 to R182, R184, R185: rounding is to nearest with ties away from zero; the Bell encoder takes the nearest level, the larger
of two at the same distance, and never writes 1000b; partial sums, combined multipliers and bias keep the limits of R179; an output is
saturated to its width, TBL does not act on a wide output, and clip reports saturation only; the per-element word of an attention weight has
the token's KMANT and its KEXP, and value groups are read with cm = AMANT; a program changes no Rill's SRAM but its own.
That a table which is not loaded reads 0 is the model's choice (log entry 95). -/
def Obligations.RillArithmetic : Prop :=
    (∀ (x : Int) (s : Nat), 2 * (2 ^ s * rshiftRound x s - x).natAbs ≤ 2 ^ s ∧
    (2 * (2 ^ s * rshiftRound x s - x).natAbs = 2 ^ s → s = 0 ∨ x.natAbs < (2 ^ s * rshiftRound x s).natAbs)) ∧
  (∀ t k, t ≤ 127 → k < 8 → ∀ d e : Nat, d = ((bellLevels.getD (bellIndex t) 0 : Int) - t).natAbs →
    e = ((bellLevels.getD k 0 : Int) - t).natAbs → d ≤ e ∧ (d = e → k ≤ bellIndex t)) ∧
  (∀ (v : Int) (em es : Nat), bellEncode v em es ≠ 8) ∧
  (∀ (codes : List (BitVec 4)) (acts : List Int), (∀ a ∈ acts, -128 ≤ a ∧ a ≤ 127) →
    (partialSum codes acts).natAbs ≤ 16256 * min codes.length acts.length) ∧
  (∀ w a, w ≤ 4095 → a ≤ 4095 → 0 ≤ combined w a ∧ combined w a ≤ 65504) ∧
  (∀ i, -(2 ^ 45 - 1) ≤ (biasInit i).1 ∧ (biasInit i).1 ≤ 2 ^ 45 - 1) ∧
  (∀ (acc : Int) (w : ReqWord) (k : Nat) (tb : List Int), ∃ y, y = rshiftRound (acc * Int.ofNat w.omul) (min (w.oshift + k) 63) ∧
    (w.wide = true → (requantise acc w k tb).1 = max (-32768) (min 32767 y) ∧ ((requantise acc w k tb).2 = true ↔ y < -32768 ∨ 32767 < y)) ∧
    (w.wide = false → ((requantise acc w k tb).2 = true ↔ y < -128 ∨ 127 < y) ∧
      (w.tbl = false → (requantise acc w k tb).1 = max (-128) (min 127 y)) ∧
      (w.tbl = true → (requantise acc w k tb).1 = tb.getD (max (-128) (min 127 y) + 128).toNat 0))) ∧
  (∀ (w : W16) (os : Nat), weighReq w os = { omul := w.toNat % 4096, oshift := min (os + w.toNat / 4096) 63, wide := false, tbl := false }) ∧
  (∀ a, combined valueWmant a = a) ∧
  (∀ (c : RillCtx) (ops : List (Nat × RillOp)) (x : RillRun) (r : Nat), c.rills ≠ [] → r ∉ c.rills →
    smGet [] (runOps c ops x).sram r = smGet [] x.sram r)

/-- R186 to R188, R192 to R195, R200: a first pass whose t the clamp does not change clips no output of its row, and keeps AMANT, OMUL and OSHIFT in
their ranges; the group maximum of a KV group maps to index 7; a step at position p attends to max(0, p − 2,047) to p; a full group is written
to slot p mod 2,048 of its plane, codes and scale word together, and no other slot; a step is recomputed at most once.
That the first pass's words have TBL 0 is the model's choice (log entry 95). -/
def Obligations.FirstPassAndKv : Prop :=
    (∀ (m : List Nat) (e : Int) (i g : Nat) (w : GroupWords), (∀ y ∈ m, y < 2 ^ 46) → (firstPassRow m e).clamp = false → m[i]? = some g →
    (firstPassRow m e).groups[i]? = some w → w.amant ≤ 4095 ∧ (g ≠ 0 → 16384 ≤ w.omul ∧ w.omul ≤ 32768 ∧ 8 ≤ w.oshift) ∧
    ∀ x : Int, x.natAbs ≤ g → (requantise x (groupReq w) 0 []).2 = false ∧ (requantise x (groupReq w) 0 []).1.natAbs ≤ 127) ∧
  (∀ m, 0 < m → m ≤ 32768 → ∃ em es km ke, kvGroupWords m = (em, es, km, ke) ∧ 8128 ≤ em ∧ em ≤ 16256 ∧ 1032 ≤ km ∧ km ≤ 2064 ∧
    ke ≤ 15 ∧ bellEncode m em es = 7) ∧
  (∀ p t, t ∈ window p ↔ p - 2047 ≤ t ∧ t ≤ p) ∧
  (∀ (kv : List Host.Cell) (pos n : Nat) (g : List Int) (k : List Host.Cell), n < 96 → g.length = 64 → k = kvPut kv pos n g →
    (∀ em es km ke, kvGroupWords (maxOf (g.map Int.natAbs)) = (em, es, km, ke) →
      kvCodes k n pos = g.map (fun v => bellEncode v em es) ∧ kvScale k n pos = BitVec.ofNat 16 (km + 4096 * ke)) ∧
    (∀ m t, m < 96 → (m, t % 2048) ≠ (n, pos % 2048) → kvCodes k m t = kvCodes kv m t ∧ kvScale k m t = kvScale kv m t)) ∧
  (∀ (c : RillCtx) (car : Option Carried) (ops : List (Nat × RillOp)) (x y : RillRun) (b : Nat × Breach),
    runStep c car ops x = (y, some b) → y.breach = none ∧ (car = none → b = (0, .high))) ∧
  (∀ (d : ClassDesc) (ops : List (Nat × RillOp)), wholeStep d ops = true →
    (∀ n, n < 96 → ∃ o ∈ ops, o.2.wrote = [n]) ∧ (ops.flatMap fun o => opPoint o.2).Perm (List.range d.points.length))

/-- R204 to R207, R378: a flush adds every Rill's counter blocks to the point records and clears them, with one refresh of the
estimates of a first-stage classifier; CALIB_READ gives the records of a classifier as bytes, CALIB_CLEAR zeroes the counters at
the next flush and keeps the estimates, and a tenant without a set is out of range for both.
That both commands are out of range without a classifier is read by inference (log entry 38). -/
def Obligations.CalibrationCounters : Prop :=
    (∀ (s : State), Alive s → ∃ t, exec .calibFlush s = .next t ∧ (∀ b ∈ t.counters, 128 ≤ b.rill) ∧
    (∀ o, (∀ b ∈ s.counters, b.obj ≠ o) → (∀ tn role, s.mbx.running ≠ some (.calibClear tn role)) →
      smGet [] t.ests o = smGet [] s.ests o) ∧
    (∀ b, s.counters = [b] → b.rill < 128 → (∀ tn role, s.mbx.running ≠ some (.calibClear tn role)) →
      (smGet [] t.ests b.obj).length = (smGet [] s.ests b.obj).length ∧
      ∀ k p, (smGet [] s.ests b.obj)[k]? = some p → ∃ q, (smGet [] t.ests b.obj)[k]? = some q ∧
        q.nout = min (p.nout + (b.points.getD k {}).nout) (2 ^ 48 - 1) ∧
        q.nclip = min (p.nclip + (b.points.getD k {}).nclip) (2 ^ 32 - 1) ∧
        q.nclamp = min (p.nclamp + (b.points.getD k {}).nclamp) (2 ^ 16 - 1) ∧
        (classRole s b.obj ≠ some 2 → q.est = p.est ∧ q.nref = min (p.nref + (b.points.getD k {}).nref) (2 ^ 32 - 1)) ∧
        (∀ w, classRole s b.obj = some 2 → b.words[k]? = some w →
          q.nref = min (min (p.nref + (b.points.getD k {}).nref) (2 ^ 32 - 1) + 1) (2 ^ 32 - 1) ∧
          q.est = (p.est.zip w.2).map fun x => refreshEst x.1 x.2 w.1)) ∧
    (∀ tn role o, s.mbx.busy = true → s.mbx.running = some (.calibClear tn role) → calibObj s tn role = some o →
      Finished s t 0 ∧ ∀ p ∈ smGet [] t.ests o, p = ({ est := p.est } : PointRec)) ∧
    t = { s with counters := t.counters, ests := t.ests, mbx := t.mbx, gen := t.gen }) ∧
  (∀ (s : State) (a : MbxArgs), Alive s → MailboxFree s →
    let tn := fld (argOf s a 0) 0 6
    let role := fld (argOf s a 0) 8 2
    (∃ t, exec (.calibRead a) s = .next t ∧
      (calibObj s tn role = none → Answered t a.ctag stOutOfRange ∧ t.out = s.out) ∧
      (∀ o, calibObj s tn role = some o →
        (bufferGood s (argOf64 s a 1) (encodeTable (smGet [] s.ests o)).length = false → Answered t a.ctag stOutOfRange ∧ t.out = s.out) ∧
        (bufferGood s (argOf64 s a 1) (encodeTable (smGet [] s.ests o)).length = true → Answered t a.ctag 0 ∧
          resultReg t 0 = BitVec.ofNat 32 (encodeTable (smGet [] s.ests o)).length ∧
          t.out = s.out ++ [.buffer (argOf64 s a 1).toNat (encodeTable (smGet [] s.ests o))])) ∧
      t = { s with mbx := t.mbx, gen := t.gen, out := t.out }) ∧
    (∃ t, exec (.calibClear a) s = .next t ∧
      (calibObj s tn role = none → Answered t a.ctag stOutOfRange) ∧
      (calibObj s tn role ≠ none → t.mbx.busy = true ∧ t.mbx.ctag = a.ctag ∧ t.mbx.running = some (.calibClear tn role)) ∧
      t = { s with mbx := t.mbx, gen := t.gen }))

/-- R101, R109, R131 to R133, R135, R196, R197, R202, R203, R215, R220, R226, R228, R361, R362: tokens from the fabric join their open stream up
to its EOSTOK, and fill pool buffers behind other work of their lane; a later ID out of range ends the stream; each flit's credit goes back
unless a stream of the port waits for a buffer, and tokens for no stream are counted; the outflow lane turns a token into text in the Eddy, waits
for a buffer, stops meanwhile for its other streams, and ends the stream on an ID out of range; the Hedge steps no token before the prompt
verdict and its position-0 mask, reads its tables from the far tier, takes the first transition that applies, or ends the stream; a first-stage
step reads the cache and the block and queues its program, or waits for room at a port.
Log entries 23, 26, 28, 39, 48 and 93 name the readings. -/
def Obligations.AnswerTokens : Prop :=
    (∀ (s : State) (fb : Fin 16) (tn lp : BitVec 6) (stag : W16) (ids : List (BitVec 19)), Alive s →
    lockedOn s (24 + fb.val / 4) = true → fbLive (fbOf s fb) = true →
    ∃ t, exec (.fabricTokens fb tn lp stag ids) s = .next t ∧
      (findStream s lp.toNat tn.toNat stag = none →
        t.streams = s.streams ∧ smGet 0 t.tel (telFab fb 6) = sat32 (smGet 0 s.tel (telFab fb 6)) 1) ∧
      (∀ c x l r, findStream s lp.toNat tn.toNat stag = some (c, x) → ids.map (·.toNat) = l ++ r →
        (answerEnded (vocabOf s x) x = true → l = []) →
        (answerEnded (vocabOf s x) x = false → (∀ i ∈ l.dropLast, i ≠ (vocabOf s x).eostok) ∧
          (r ≠ [] → l.getLast? = some (vocabOf s x).eostok)) →
        ((∃ i ∈ r, (vocabOf s x).ntok ≤ i) → (streamOf t c).inUse = false) ∧
        ((∀ i ∈ r, i < (vocabOf s x).ntok) →
          (streamOf t c).ansIds = x.ansIds ++ l ∧ (streamOf t c).ansAt = x.ansAt ++ l.map (fun _ => s.now) ∧
          (streamOf t c).inUse = true ∧
          (l ≠ [] → (streamOf t c).deadline = (if (vocabOf s x).eostok ∈ l then none
              else if x.promptEnd && !x.verdictDone then x.deadline
              else some (s.now + 1000 * max 50 (tenOf s x.tenant).deadline)) ∧
            (streamOf t c).backWant =
              (if outlaneBusy s x.outlane then ceilDiv (x.ansIds.length + l.length) 64 - x.backBufs else x.backWant)) ∧
          (∀ k, k ≠ c → streamOf t k = streamOf s k) ∧
          smGet 0 t.tel (telFab fb 6) = (if r = [] then smGet 0 s.tel (telFab fb 6) else sat32 (smGet 0 s.tel (telFab fb 6)) 1) ∧
          smGet 0 t.tel (telTen tn.toNat 23) = sat32 (smGet 0 s.tel (telTen tn.toNat 23)) l.length ∧
          (if portWants t fb then t.out = s.out ∧ fbOf t fb = { fbOf s fb with owe1 := (fbOf s fb).owe1 + 1 }
            else t.out = s.out ++ [.fabricCredit fb 1 1] ∧ fbOf t fb = fbOf s fb) ∧
          t = { s with streams := t.streams, tel := t.tel, out := t.out, fbs := t.fbs })) ∧
      smGet 0 t.tel (telFab fb 1) = sat32 (smGet 0 s.tel (telFab fb 1)) 1) ∧
  (∀ (s : State) (c : Fin 32768), lockedOn s (streamBrook s c) = true → s.boot.phase ≠ .held →
    (∃ y ∈ s.streams, y.1 ≠ c.val ∧ y.2.inUse = true ∧ y.2.outlane = (streamOf s c).outlane ∧ 0 < y.2.wantBuf) →
    exec (.outflowToken c) s = .next s) ∧
  (∀ (s : State) (c : Fin 32768) (tk : Nat) (rest : List Nat), Alive s → lockedOn s (streamBrook s c) = true →
    outlaneStopped s (streamOf s c).outlane c = false →
    (streamOf s c).inUse = true → (streamOf s c).textEnded = false → ((streamOf s c).gen = true → (streamOf s c).hedged ≠ 0) →
    (streamOf s c).ansIds = tk :: rest →
    let x := streamOf s c
    let v := vocabOf s x
    let new := (tokenText v x.hb tk).2.take (answerLimit - x.ansLen)
    let full := decide (answerLimit - x.ansLen ≤ (tokenText v x.hb tk).2.length)
    let left := if full then [] else rest
    let back := min x.backBufs (ceilDiv left.length 64)
    ∃ t, exec (.outflowToken c) s = .next t ∧
      (v.ntok ≤ tk → (streamOf t c).inUse = false) ∧
      (tk < v.ntok → 256 * x.eddyBufs < x.eddy.length + new.length →
        streamOf t c = { x with wantBuf := ceilDiv (x.eddy.length + new.length) 256 - x.eddyBufs } ∧ t = { s with streams := t.streams }) ∧
      (tk < v.ntok → x.eddy.length + new.length ≤ 256 * x.eddyBufs →
        streamOf t c = { x with
          ansIds := left, hedged := x.hedged - 1, hb := (tokenText v x.hb tk).1,
          eddy := x.eddy ++ new.zipIdx.map (fun b =>
            { byte := b.1, tok := x.outToks, st := .written, at' := x.ansLen + b.2, past := x.ansLen + b.2 + 1 }),
          outToks := x.outToks + 1, ansLen := x.ansLen + new.length, backBufs := back,
          backWant := min x.backWant (ceilDiv left.length 64 - back),
          textEnded := decide (tk = v.eostok) || full, ansTrunc := full, wantBuf := 0,
          deadline := if full then none else x.deadline } ∧
        t.poolUsed = s.poolUsed - (x.backBufs - back) ∧
        (∀ k, k ≠ c.val → streamOf t k = streamOf s k) ∧
        t = { s with streams := t.streams, poolUsed := t.poolUsed, fbs := t.fbs, out := t.out }) ∧
      (tk ≠ v.eostok → (v.tokens.getD tk { bytes := [], emit := false }).emit = false → (tokenText v x.hb tk).2 = [])) ∧
  (∀ (s : State) (c : Fin 32768), Alive s → (streamOf s c).verdictDone = false ∨ (streamOf s c).gen = false →
    exec (.hedgeStep c) s = .next s) ∧
  (∀ (s : State) (c : Fin 32768) (o : Nat), Alive s → lockedOn s (streamBrook s c) = true →
    (streamOf s c).inUse = true → (streamOf s c).gen = true → (streamOf s c).verdictDone = true →
    farGrammar s (streamOf s c) = some o →
    ((streamOf s c).maskDue = true ∨ (streamOf s c).gramRead = false ∧
      ∃ tk, (streamOf s c).ansIds[(streamOf s c).hedged]? = some tk ∧ tk < (vocabOf s (streamOf s c)).ntok) →
    (gramAsked s c = true ∨ memIssue s (objOf s o).home.loc.toNat (objOf s o).size false (.gram c) = none →
      ∃ t, exec (.hedgeStep c) s = .next t ∧ (∀ k, streamOf t k = streamOf s k) ∧ t = { s with streams := t.streams }) ∧
    (∀ u, gramAsked s c = false → memIssue s (objOf s o).home.loc.toNat (objOf s o).size false (.gram c) = some u →
      ∃ t, exec (.hedgeStep c) s = .next t ∧ (∀ k, streamOf t k = streamOf s k) ∧ t = { u with streams := t.streams })) ∧
  (∀ (s : State) (c : Fin 32768) (tk : Nat), Alive s → lockedOn s (streamBrook s c) = true →
    (streamOf s c).inUse = true → (streamOf s c).gen = true → (streamOf s c).verdictDone = true → (streamOf s c).maskDue = false →
    (streamOf s c).ansIds[(streamOf s c).hedged]? = some tk →
    (farGrammar s (streamOf s c) = none ∨ (streamOf s c).gramRead = true ∨ (vocabOf s (streamOf s c)).ntok ≤ tk) →
    let x := streamOf s c
    let v := vocabOf s x
    let g := grammarOf s x
    let past := { x with hedged := x.hedged + 1, gramRead := false }
    ∃ t, exec (.hedgeStep c) s = .next t ∧
      (v.ntok ≤ tk ∨ (tk = v.eostok ∧ accepting g x.hedge = true) → streamOf t c = past ∧ t = { s with streams := t.streams }) ∧
      (tk < v.ntok → ((tk = v.eostok ∧ accepting g x.hedge = false) ∨
          (tk ≠ v.eostok ∧ ∀ y ∈ (gstate g x.hedge.state).trans, y.cls = classOf g tk → transApplies y x.hedge.stack = false)) →
        (streamOf t c).inUse = false) ∧
      (∀ a y b, tk < v.ntok → tk ≠ v.eostok → (gstate g x.hedge.state).trans = a ++ y :: b →
        (∀ z ∈ a, z.cls = classOf g tk → transApplies z x.hedge.stack = false) → y.cls = classOf g tk →
        y.pop <+: x.hedge.stack →
        let h : Hedge := { x.hedge with state := y.next, stack := y.push.reverse ++ x.hedge.stack.drop y.pop.length, pos := x.hedge.pos + 1 }
        (64 < h.stack.length → (streamOf t c).inUse = false) ∧
        (h.stack.length ≤ 64 → makeMask g v.eostok h = [] → (streamOf t c).inUse = false) ∧
        (h.stack.length ≤ 64 → makeMask g v.eostok h ≠ [] → streamOf t c = { past with hedge := h } ∧
          (∀ k, k ≠ c.val → streamOf t k = streamOf s k) ∧
          t = { s with streams := t.streams, fbs := t.fbs, poolUsed := t.poolUsed, out := t.out, tel := t.tel } ∧
          (fbLive (fbOf s x.fbport) = true → ∀ m ∈ maskFlits x (encodeMask (makeMask g v.eostok h) v.ntok
              ((makeMask g v.eostok h).contains v.eostok) (maskOverflows g h (makeMask g v.eostok h)) x.stag x.tenant x.vocab x.grammar
              h.pos), flitCount s x.fbport m < flitCount t x.fbport m)))) ∧
  (∀ (s : State) (c : Fin 32768) (car : Carried) (loc : W64), Alive s → (streamOf s c).inUse = true →
    (streamOf s c).stepped < (streamOf s c).outToks → (streamOf s c).stepping = none → (streamOf s c).blockAck = true →
    stepRequest s c = false → car = carriedOf (makeBlock s c) c →
    loc = (if (objOf s (2 * c.val + 1)).state = .free then (objOf s (2 * c.val)).home.loc + 6684672 else (objOf s (2 * c.val + 1)).home.loc) →
    let kv : Option State := memIssue s (objOf s (2 * c.val)).home.loc.toNat (objOf s (2 * c.val)).size false (.kv c)
    let both : Option State := kv.bind fun u => memIssue u loc.toNat (blockSize car.points) false (.block c)
    (both = none → exec (.firstStageStep c) s = .next s) ∧
    (∀ v, both = some v → ∃ t, exec (.firstStageStep c) s = .next t ∧
      streamOf t c = { streamOf s c with stepping := some (streamOf s c).stepped } ∧
      (∀ k, k ≠ c.val → streamOf t k = streamOf s k) ∧ t.jobs = s.jobs ++ [.firstStage c (streamOf s c).stepped (some car)] ∧
      smGet {} t.blocks c = car ∧ ((smGet {} s.blocks c).points ≠ [] → car = smGet {} s.blocks c) ∧
      ((smGet {} s.blocks c).points = [] → (recOfStream s (streamOf s c)).seed ≠ 2 * c.val + 1 →
        car = firstBlock s (recOfStream s (streamOf s c))) ∧ (∀ k, k ≠ c.val → smGet {} t.blocks k = smGet {} s.blocks k) ∧
      ((objOf s (2 * c.val + 1)).state ≠ .free → t.objs = s.objs) ∧
      ((objOf s (2 * c.val + 1)).state = .free → (objOf t (2 * c.val + 1)).state = .home ∧ (objOf t (2 * c.val + 1)).kind = .pinned ∧
        (objOf t (2 * c.val + 1)).size = 65536 ∧ (objOf t (2 * c.val + 1)).home = { tier := .far, loc := loc } ∧
        ∀ k, k ≠ 2 * c.val + 1 → objOf t k = objOf s k) ∧
      t = { s with
          streams := t.streams, jobs := t.jobs, objs := t.objs, blocks := t.blocks,
          memTags := v.memTags, memRest := v.memRest, out := v.out }))

/-- R94, R96, R104, R287: at its tick every answer stream of a tenant without a pass is given one, the lowest with room; a pass takes
snapshots of its streams and queues its program, once a tick and at its offset; a pass that runs past 88 µs is counted and logged once,
and the new text of its streams is held; an expired deadline ends its stream with Timeout.
Log entries 26, 34 and 39 name the readings. -/
def Obligations.DeepStage : Prop :=
    (∀ (s : State) (tn : Fin 64), Alive s → answerStreams s tn ≠ [] →
    (smGet 0 s.tickAt tn = 0 ∨ smGet 0 s.tickAt tn - 1 + 500000 ≤ s.now) → ∃ t, exec (.deepTick tn) s = .next t ∧
      smGet 0 t.tickAt tn = s.now + 1 ∧ (∀ k, k ≠ tn.val → smGet 0 t.tickAt k = smGet 0 s.tickAt k) ∧
      (∀ x ∈ answerStreams s tn, x.2.passNo = 0 → (streamOf t x.1).passNo ≠ 0 ∧ (streamOf t x.1).passNo ≤ 5) ∧
      (∀ c, (∀ x ∈ answerStreams s tn, x.2.passNo = 0 → x.1 ≠ c) → streamOf t c = streamOf s c) ∧
      (∀ c, { streamOf t c with passNo := 0 } = { streamOf s c with passNo := 0 }) ∧
      (∀ x, (answerStreams s tn).filter (fun x => decide (x.2.passNo = 0)) = [x] → ∃ k, (streamOf t x.1).passNo = k + 1 ∧
        (∀ j, j < k → (recOfStream s (streamOf s x.1)).passstr ≤ (inPass s tn j).length) ∧
        (k < 4 → (inPass s tn k).length < (recOfStream s (streamOf s x.1)).passstr)) ∧
      t = { s with streams := t.streams, tickAt := t.tickAt }) ∧
  (∀ (s : State) (tn : Fin 64), (answerStreams s tn = [] ∨
    (smGet 0 s.tickAt tn ≠ 0 ∧ s.now < smGet 0 s.tickAt tn - 1 + 500000)) → exec (.deepTick tn) s = .next s) ∧
  (∀ (s : State) (tn : Fin 64) (k : Fin 5), Alive s → smGet 0 s.tickAt tn ≠ 0 →
    smGet 0 s.passAt (5 * tn.val + k.val) ≠ smGet 0 s.tickAt tn → smGet 0 s.tickAt tn - 1 + 88000 * k.val ≤ s.now →
    let snap (b : Bool) : List (Nat × Nat) := ((inPass s tn k).filter fun x => x.2.tab = b).map fun x => (x.1, x.2.stepped)
    let job (b : Bool) : List Job := if snap b = [] then [] else [.deep tn k (snap b) s.now false]
    ∃ t, exec (.deepPassStart tn k) s = .next t ∧ t.jobs = s.jobs ++ job false ++ job true ∧
      smGet 0 t.passAt (5 * tn.val + k.val) = smGet 0 s.tickAt tn ∧
      (∀ i, i ≠ 5 * tn.val + k.val → smGet 0 t.passAt i = smGet 0 s.passAt i) ∧
      t = { s with jobs := t.jobs, passAt := t.passAt } ∧ exec (.deepPassStart tn k) t = .next t) ∧
  (∀ (s : State) (tn : Fin 64) (k : Fin 5) (j : Job), Alive s → j ∈ s.jobs ++ (progList s ++ dispList s).map (·.job) → overdue s tn k j = true →
    ∃ t, exec (.deepPassOverrun tn k) s = .next t ∧ smGet 0 t.tel (telTen tn 12) = sat32 (smGet 0 s.tel (telTen tn 12)) 1 ∧
      t.log = (note s evDeepOverrun skTenant tn [tn, 0, k]).log ∧
      (∀ c ∈ liveStreams s j, streamOf t c = { streamOf s c with deepHold := true }) ∧
      (∀ c, { streamOf t c with deepHold := false } = { streamOf s c with deepHold := false }) ∧
      (∀ i ∈ t.jobs ++ (progList t ++ dispList t).map (·.job), overdue t tn k i = false) ∧ exec (.deepPassOverrun tn k) t = .next t ∧
      t = { s with jobs := t.jobs, progs := t.progs, disp := t.disp, streams := t.streams, log := t.log, tel := t.tel, gen := t.gen,
                   mgmt := t.mgmt, out := t.out }) ∧
  (∀ (s : State) (c : Fin 32768) (d : Nat), Alive s → (streamOf s c).deadline = some d → (streamOf s c).inUse = true →
    ∃ t, exec (.streamDeadline c) s = .next t ∧ (s.now < d → t = s) ∧
      (d ≤ s.now → (streamOf t c).inUse = false ∧ (∀ k, k ≠ c.val → streamOf t k = streamOf s k) ∧
        smGet 0 t.tel (telTen (streamOf s c).tenant 15) = sat32 (smGet 0 s.tel (telTen (streamOf s c).tenant 15)) 1 ∧
        smGet {} t.blocks c = {} ∧ t.kv = s.kv ∧
        ((keepsRoute s (streamOf s c).port = true ∧ releasedPart (streamOf s c) = []) →
          (clientFrame s c (streamOf s c).src (streamOf s c).stag (streamOf s c).tenant true true
            (encodeRecord { recOf (streamOf s c) vkRefuse sgControl (streamOf s c).policy with
              status := stSTimeout, trunc := (streamOf s c).trunc, ooc := (streamOf s c).ooc, capped := (streamOf s c).capped,
              last := true })) ∈ (portOf t (streamOf s c).port).txq)))

/-! ## Fen maintenance (chapter 6) -/

/-- R141, R144, R147, R150, R157 to R165, R378: a bank runs its queued operations one at a time; each changes the entries the rules name and
no other, with their parity and shadow records; it completes when the shadow is acknowledged, and finishes the command that queued it unless a
restart has aborted that one; the mailbox commands queue legal operations
and refuse the others, and all of a bank that a Bale load may take; a bank mask is stored unless an enabled one breaks its rule.
Log entries 41, 44, 52, 84, 88 and 94 name the readings. -/
def Obligations.FenOperations : Prop :=
    (∀ (s : State) (b : Fin 64) (o : BankOp) (host : Bool) (r : List (BankOp × Bool)), Alive s →
    lockedOn s (28 + b.val / 16) = true → opsOf s b = (o, host) :: r → doneOf s b = [] →
    let grans := distinct ((touched s b o).map fun e => shadowAt b e / 256)
    (s.boot.farBad = false → shadowWrites b grans s = none → exec (.fenBankOp b) s = .next s) ∧
    ((s.boot.farBad = true ∨ (shadowWrites b grans s).isSome = true) → ∃ t d, exec (.fenBankOp b) s = .next t ∧ opsOf t b = r ++ (heldOps s b).take 1 ∧
      heldOps t b = (heldOps s b).drop 1 ∧ doneOf t b = [d] ∧ d.op = o ∧ d.fromHost = host ∧
      (∀ e, o = .read e → d.status = 0 ∧ d.data = (cellAt s b e).bits ∧ d.waits = 0 ∧ t.fen = s.fen) ∧
      (∀ e, o = .invalidate e → d.status = 0 ∧ fenValid (cellAt t b e).bits = false ∧
        (∀ i, i < 448 → i ≠ 432 → (cellAt t b e).bits.getLsbD i = (cellAt s b e).bits.getLsbD i)) ∧
      (∀ e x, o = .write e x → d.status = 0 ∧ fenValid (cellAt t b e).bits = true ∧
        (∀ i, i < 432 → (cellAt t b e).bits.getLsbD i = x.getLsbD i)) ∧
      (∀ e x, o = .insert e x → (∀ i, e ≤ i → i < 8192 → fenValid (cellAt s b i).bits = true) →
        d.status = stFenBankFull ∧ t.fen = s.fen) ∧
      (∀ e x j, o = .insert e x → e ≤ j → j < 8192 → fenValid (cellAt s b j).bits = false →
        (∀ i, e ≤ i → i < j → fenValid (cellAt s b i).bits = true) → d.status = 0 ∧
        (∀ i, e < i → i ≤ j → (cellAt t b i).bits = (cellAt s b (i - 1)).bits) ∧ fenValid (cellAt t b e).bits = true ∧
        (∀ i, i < 432 → (cellAt t b e).bits.getLsbD i = x.getLsbD i) ∧ (∀ i, i < e ∨ j < i → cellAt t b i = cellAt s b i)) ∧
      (∀ k e, (k ≠ b.val ∨ e ∉ touched s b o) → e < 8192 → (∀ i ∈ touched s b o, i < 8192) → cellAt t k e = cellAt s k e) ∧
      (∀ e ∈ touched s b o, parityGood (cellAt t b e) = true) ∧
      (s.boot.farBad = true → t.far = s.far ∧ t.memTags = s.memTags ∧ t.out = s.out ∧ d.waits = 0) ∧
      (s.boot.farBad = false →
        (∀ e ∈ touched s b o, shadowRec t b e = shadowBytes (cellAt t b e).bits) ∧
        (∀ a, (∀ e ∈ touched s b o, a < shadowAt b e ∨ shadowAt b e + 64 ≤ a) → memGet (farInit a) t.far a = memGet (farInit a) s.far a) ∧
        (d.waits = 0 ↔ touched s b o = [])) ∧
      t = { s with
        bankQ := t.bankQ, bankHeld := t.bankHeld, bankDone := t.bankDone, fen := t.fen, far := t.far, memTags := t.memTags,
        memRest := t.memRest, out := t.out })) ∧
  (∀ (s : State) (b : Fin 64) (d : BankDone) (r : List BankDone), Alive s → lockedOn s (28 + b.val / 16) = true → doneOf s b = d :: r →
    (d.waits ≠ 0 → exec (.fenOpComplete b) s = .next s) ∧
    (d.waits = 0 → ∃ t, exec (.fenOpComplete b) s = .next t ∧ doneOf t b = [] ∧
      smGet [] t.opLog b = smGet [] s.opLog b ++ (if d.fromHost && isChange d.op && decide (d.status = 0) then [d.op] else []) ∧
      t.suspect = (if d.fromHost = false ∧ (∀ x ∈ opsOf s b ++ heldOps s b, x.2 = true) then s.suspect.filter (· ≠ b.val) else s.suspect) ∧
      (d.fromHost = true → smGet 0 s.opOrphans b = 0 → s.mbx.busy = true → s.mbx.running = some (.fenOp b) → Finished s t d.status ∧
        t.opOrphans = s.opOrphans ∧ ∀ e i, d.op = .read e → i < 14 → resultReg t i = d.data.extractLsb' (32 * i) 32) ∧
      (d.fromHost = true → 0 < smGet 0 s.opOrphans b → t.mbx = s.mbx ∧ smGet 0 t.opOrphans b = smGet 0 s.opOrphans b - 1 ∧
        ∀ k, k ≠ b.val → smGet 0 t.opOrphans k = smGet 0 s.opOrphans k) ∧
      (d.fromHost = false → t.mbx = s.mbx ∧ t.opOrphans = s.opOrphans) ∧
      t = { s with bankDone := t.bankDone, opLog := t.opLog, suspect := t.suspect, opOrphans := t.opOrphans, mbx := t.mbx, gen := t.gen })) ∧
  (∀ (s : State) (a : MbxArgs), Alive s → MailboxFree s →
    let b := fld (argOf s a 0) 16 6
    let e := fld (argOf s a 0) 0 13
    let x : FenEntry := entryBits (BitVec.ofNat 448 ((List.range 14).foldl (fun y i => y + at' (argOf s a (1 + i)).toNat (32 * i)) 0))
    let queued (o : BankOp) (t : State) : Prop := t.mbx.busy = true ∧ t.mbx.ctag = a.ctag ∧ t.mbx.running = some (.fenOp b) ∧
      ((opsOf s b).length < 16 → heldOps s b = [] → opsOf t b = opsOf s b ++ [(o, true)] ∧ t.bankHeld = s.bankHeld) ∧
      (16 ≤ (opsOf s b).length ∨ heldOps s b ≠ [] → heldOps t b = heldOps s b ++ [(o, true)] ∧ t.bankQ = s.bankQ) ∧
      (∀ k, k ≠ b → opsOf t k = opsOf s k ∧ heldOps t k = heldOps s k) ∧
      t = { s with bankQ := t.bankQ, bankHeld := t.bankHeld, mbx := t.mbx }
    let refused (st : W16) (t : State) : Prop := Answered t a.ctag st ∧ t = { s with mbx := t.mbx, gen := t.gen }
    (bankLoading s b = true → ∀ c ∈ [Instr.fenRead a, .fenInvalidate a, .fenWrite a, .fenInsert a],
      ∃ t, exec c s = .next t ∧ refused stBankLoading t) ∧
    (bankLoading s b = false → (∃ t, exec (.fenRead a) s = .next t ∧ queued (.read e) t) ∧
      (∃ t, exec (.fenInvalidate a) s = .next t ∧ queued (.invalidate e) t) ∧
      (∀ c o old, (c = .fenWrite a ∧ o = .write e x ∧ old = some e) ∨ (c = .fenInsert a ∧ o = .insert e x ∧ old = none) →
        (legalInBank s b x = true → uniqueInBanks s b old x = true → ∃ t, exec c s = .next t ∧ queued o t) ∧
        (legalInBank s b x = false ∨ uniqueInBanks s b old x = false → ∃ t, exec c s = .next t ∧ refused stIllegalEntry t)))) ∧
  (∀ (s : State) (a : MbxArgs), Alive s → MailboxFree s →
    let tn := fld (argOf s a 0) 0 6
    let kt := max 1 (fld (argOf s a 0) 8 2)
    let m : W16 := (argOf s a 1).setWidth 16
    let ok : Prop := ∀ k ∈ bmBanks m, k / 4 = bmA m / 4 ∧ (bankCfgOf s k).used = true ∧ (bankCfgOf s k).ktype = kt ∧
      (((bankCfgOf s k).shared = false ∧ (bankCfgOf s k).owner = tn) ∨ ((bankCfgOf s k).shared = true ∧ kt = 1))
    ∃ t, exec (.fenMask a) s = .next t ∧
      (ok → Answered t a.ctag 0 ∧ smGet 0 (actTab t).masks (4 * tn + kt) = m ∧
        (∀ k, k ≠ 4 * tn + kt → smGet 0 (actTab t).masks k = smGet 0 (actTab s).masks k) ∧ otherTab t = otherTab s ∧
        actTab t = { actTab s with masks := (actTab t).masks } ∧
        t = { s with tabA := t.tabA, tabB := t.tabB, mbx := t.mbx, gen := t.gen }) ∧
      (¬ok → Answered t a.ctag stMaskRefused ∧ t = { s with mbx := t.mbx, gen := t.gen }))

/-- R162 to R164: a scrub compares one entry of every idle bank of a clocked Brook with its shadow: one that a search queued, else the next
of the bank's pass, which only then moves on.  A good pair that agrees stays; a good shadow repairs the entry, a good entry the shadow, each
logged; with both bad the bank becomes suspect and its reload is queued.  Log entries 41 and 94 name the readings. -/
def Obligations.FenScrubs : Prop :=
    (∀ (s : State), Up s → s.boot.farBad = false → ∃ t, exec .fenScrub s = .next t ∧
    (∀ b, b < 64 → (bankBusy s b = true ∨ lockedOn s (28 + b / 16) = false) → smGet 0 t.scrubPos b = smGet 0 s.scrubPos b ∧
      ∀ e, e < 8192 → cellAt t b e = cellAt s b e ∧ shadowRec t b e = shadowRec s b e) ∧
    (∀ b, b < 64 → bankBusy s b = false → lockedOn s (28 + b / 16) = true →
      let e := scrubNext s b
      let c := cellAt s b e
      let l := shadowRec s b e
      let x := shadowEntry l
      let asked := s.scrubQ.filter fun y => y.1 = b
      (asked = [] → e = smGet 0 s.scrubPos b % 8192 ∧ smGet 0 t.scrubPos b = (e + 1) % 8192) ∧
      (∀ y r, asked = y :: r → e = y.2 % 8192 ∧ smGet 0 t.scrubPos b = smGet 0 s.scrubPos b ∧ (t.scrubQ.filter fun y => y.1 = b) = r) ∧
      (∀ i, i < 8192 → i ≠ e → cellAt t b i = cellAt s b i ∧ shadowRec t b i = shadowRec s b i) ∧
      (shadowGood l = true → parityGood c = true → c.bits = x → cellAt t b e = c ∧ shadowRec t b e = l) ∧
      (shadowGood l = true → (parityGood c = false ∨ c.bits ≠ x) →
        (cellAt t b e).bits = (if fenValid x then setValid (entryBits x) true else setValid c.bits false) ∧
        parityGood (cellAt t b e) = true ∧ shadowRec t b e = shadowBytes (cellAt t b e).bits) ∧
      (shadowGood l = false → parityGood c = true → cellAt t b e = c ∧ shadowRec t b e = shadowBytes c.bits) ∧
      (shadowGood l = false → parityGood c = false → cellAt t b e = c ∧ shadowRec t b e = l ∧ t.suspect.contains b = true) ∧
      ((shadowGood l = true ∨ parityGood c = true) → t.suspect.contains b = s.suspect.contains b ∧ opsOf t b = [])) ∧
    (∀ x ∈ t.scrubQ, x ∈ s.scrubQ) ∧
    t = { s with
      fen := t.fen, far := t.far, suspect := t.suspect, bankQ := t.bankQ, bankHeld := t.bankHeld, scrubQ := t.scrubQ,
      scrubPos := t.scrubPos, log := t.log, tel := t.tel, gen := t.gen, mgmt := t.mgmt, out := t.out }) ∧
  (∀ (s : State), Up s → s.boot.farBad = true → exec .fenScrub s = .next s)

/-! ## Weirs and Sluices (chapter 9) -/

/-- R235 to R237: SIGNAL and SET raise or set the value and answer with it, then the wake rule serves waiters from the head while the value is at
least the head's N; an N of 0 and an overflowing SIGNAL change nothing.  Where no visibility hold is in force every waiter served gets its
COMPLETE with the value after its own subtraction. -/
def Obligations.WeirRaisesAndWakes : Prop :=
    (∀ (v : W32) (q : List Waiter), ∃ k, (wakeQueue v q).1.map (·.1) = q.take k ∧ (wakeQueue v q).2.1 = q.drop k ∧
    (wakeQueue v q).2.2.toNat + ((q.take k).map (·.n.toNat)).sum = v.toNat ∧
    ∀ h r, q.drop k = h :: r → (wakeQueue v q).2.2.toNat < h.n.toNat) ∧
  (∀ (s : State) (fb : Fin 16) (tenant : BitVec 6) (op : OpBody) (w : Nat), OpTaken s fb → w = (opObj op).toNat →
    ownsWeir s tenant w = true →
    (∀ st, (opN op = 0 ∧ st = 0) ∨ (0xFFFFFFFF < (weirOf s w).val.toNat + (opN op).toNat ∧ st = stWeirOverflow) →
      ∃ t, exec (.signal fb tenant op) s = .next t ∧ Sends s t fb (opDone tenant op opcSignal st (weirOf s w).val 0) ∧
        t = { s with fbs := t.fbs, poolUsed := t.poolUsed, tel := t.tel, out := t.out }) ∧
    (∀ c k v, (c = .signal fb tenant op ∧ k = opcSignal ∧ opN op ≠ 0 ∧
          (weirOf s w).val.toNat + (opN op).toNat ≤ 0xFFFFFFFF ∧ v = (weirOf s w).val + opN op) ∨
        (c = .set fb tenant op ∧ k = opcSet ∧ v = opN op) →
      ∃ t, exec c s = .next t ∧
        weirOf t w = { weirOf s w with
          val := (wakeQueue v (weirOf s w).queue).2.2, queue := (wakeQueue v (weirOf s w).queue).2.1,
          last := { kind := 1, eng := s.cfg.memberid, agent := opAgent op } } ∧
        (∀ j, j ≠ w → weirOf t j = weirOf s j) ∧
        ((wakeQueue v (weirOf s w).queue).1 = [] → Sends s t fb (opDone tenant op k 0 v 0)) ∧
        ((weirOf s w).holds = [] → ∀ f y, flitCount t f y = flitCount s f y +
          (if f = fb.val ∧ y = opDone tenant op k 0 v 0 then 1 else 0) +
          (((wakeQueue v (weirOf s w).queue).1.filter fun a => decide (a.1.fb = f) && fbLive (fbOf s f)).map
            fun a => waiterDone w a.1 0 false a.2 0).count y) ∧
        t = { s with weirs := t.weirs, fbs := t.fbs, poolUsed := t.poolUsed, tel := t.tel, out := t.out }))

/-- R235, R236: READ changes nothing; DECREMENT subtracts or answers Underflow and consults no waiter; WAIT subtracts at once only past an empty
queue, else joins its tail, or is refused Busy (R231) without a place; BIND binds to the open stream of the tenant, unbinds, or is
refused.  Each answers once, with the Weir's value. -/
def Obligations.WeirTakesAndReads : Prop :=
    ∀ (s : State) (fb : Fin 16) (tenant : BitVec 6) (op : OpBody) (w : Nat), OpTaken s fb → w = (opObj op).toNat →
    ownsWeir s tenant w = true →
    (∃ t, exec (.read fb tenant op) s = .next t ∧ Sends s t fb (opDone tenant op opcRead 0 (weirOf s w).val 0) ∧
      t = { s with fbs := t.fbs, poolUsed := t.poolUsed, tel := t.tel, out := t.out }) ∧
    (∀ c k, (c = .decrement fb tenant op ∧ k = opcDecrement ∧ (opN op).toNat ≤ (weirOf s w).val.toNat) ∨
        (c = .wait fb tenant op ∧ k = opcWait ∧ (opN op = 0 ∨
          ((weirOf s w).queue = [] ∧ (opN op).toNat ≤ (weirOf s w).val.toNat))) →
      ∃ t, exec c s = .next t ∧ weirOf t w = { weirOf s w with val := (weirOf s w).val - opN op } ∧
        (∀ j, j ≠ w → weirOf t j = weirOf s j) ∧ Sends s t fb (opDone tenant op k 0 ((weirOf s w).val - opN op) 0) ∧
        t = { s with weirs := t.weirs, fbs := t.fbs, poolUsed := t.poolUsed, tel := t.tel, out := t.out }) ∧
    ((weirOf s w).val.toNat < (opN op).toNat → ∃ t, exec (.decrement fb tenant op) s = .next t ∧
      Sends s t fb (opDone tenant op opcDecrement stUnderflow (weirOf s w).val 0) ∧
      t = { s with fbs := t.fbs, poolUsed := t.poolUsed, tel := t.tel, out := t.out }) ∧
    (opN op ≠ 0 → (weirOf s w).queue ≠ [] ∨ (weirOf s w).val.toNat < (opN op).toNat →
      (waiterRoom s tenant = true → ∃ t, exec (.wait fb tenant op) s = .next t ∧
        weirOf t w = { weirOf s w with queue := (weirOf s w).queue ++
          [{ agent := opAgent op, tag := opTag op, fb := fb, tenant := tenant, n := opN op, opc := opcWait,
             deadline := s.now + 1000 * max 8 (opTmo op).toNat }] } ∧
        (∀ j, j ≠ w → weirOf t j = weirOf s j) ∧ SendsNone s t ∧ t = { s with weirs := t.weirs, tel := t.tel, out := t.out }) ∧
      (waiterRoom s tenant = false → ∃ t, exec (.wait fb tenant op) s = .next t ∧
        Sends s t fb (opDone tenant op opcWait stWBusy (weirOf s w).val 0) ∧
        t = { s with fbs := t.fbs, poolUsed := t.poolUsed, tel := t.tel, out := t.out })) ∧
    (∀ b, ((opN op).getLsbD 31 = true ∧ b = none) ∨
        ((opN op).getLsbD 31 = false ∧ ∃ x, findStream s (fld (opN op) 16 6) tenant.toNat ((opN op).setWidth 16) = some x ∧
          b = some x.1) →
      ∃ t, exec (.bind fb tenant op) s = .next t ∧ weirOf t w = { weirOf s w with bound := b } ∧
        (∀ j, j ≠ w → weirOf t j = weirOf s j) ∧ Sends s t fb (opDone tenant op opcBind 0 (weirOf s w).val 0) ∧
        t = { s with weirs := t.weirs, fbs := t.fbs, poolUsed := t.poolUsed, tel := t.tel, out := t.out }) ∧
    ((opN op).getLsbD 31 = false → findStream s (fld (opN op) 16 6) tenant.toNat ((opN op).setWidth 16) = none →
      ∃ t, exec (.bind fb tenant op) s = .next t ∧
        Sends s t fb (opDone tenant op opcBind stNoStream (weirOf s w).val 0) ∧
        t = { s with fbs := t.fbs, poolUsed := t.poolUsed, tel := t.tel, out := t.out })

/-- R230, R233: an operation on an object that its tenant does not own changes no object and is answered Not owner; a code that fabric ports
do not accept is answered Bad operation.  That their COMPLETE carries N 0 and MASK 0 is the model's choice (log entry 32). -/
def Obligations.OperationRefusals : Prop :=
    ∀ (s : State) (fb : Fin 16) (tenant : BitVec 6) (op : OpBody), OpTaken s fb →
    (∀ c k st,
      (ownsWeir s tenant (opObj op).toNat = false ∧ st = stNotOwner ∧ (c, k) ∈
        [(Instr.signal fb tenant op, opcSignal), (.wait fb tenant op, opcWait), (.decrement fb tenant op, opcDecrement),
         (.read fb tenant op, opcRead), (.set fb tenant op, opcSet), (.bind fb tenant op, opcBind)]) ∨
      (ownsSluice s tenant (opSluice op) = false ∧ st = stNotOwner ∧ (c, k) ∈
        [(Instr.sluiceArrive fb tenant op, opcSluiceArrive), (.sluiceWait fb tenant op, opcSluiceWait)]) ∨
      (fabricCodes.contains k = false ∧ st = stBadOperation ∧ c = .fabricUnknownOperation fb tenant k op) →
      ∃ t, exec c s = .next t ∧ Sends s t fb (opDone tenant op k st 0 0) ∧
        t = { s with fbs := t.fbs, poolUsed := t.poolUsed, tel := t.tel, out := t.out })

/-- R240, R243: an arrival that is refused changes no Sluice; an accepted one sets this engine's bit and keeps the agent waiting, with a LINK_ARRIVE
queued or held toward every other member of the mask, behind the class-2 messages toward it that entered the same fabric port before; the arrival that fills the mask completes the generation.  SLUICE_WAIT waits in
generation G alone.
That a suspended member is not current here is read by inference (log entry 78). -/
def Obligations.SluiceArriveAndWait : Prop :=
    ∀ (s : State) (fb : Fin 16) (tenant : BitVec 6) (op : OpBody) (i : Nat) (x : Sluice) (own : W64) (me : Waiter),
    OpTaken s fb → i = opSluice op → ownsSluice s tenant i = true → x = sluiceOf s i → own = 1#64 <<< s.cfg.memberid.toNat →
    me = { agent := opAgent op, tag := opTag op, fb := fb, tenant := tenant, n := 0, opc := opcSluiceArrive,
           deadline := s.now + 1000 * max 8 (opTmo op).toNat } →
    (∀ st m, (opGen op ≠ x.gen ∨ x.arrival ≠ none) ∧ st = stBadGeneration ∧ m = 0 ∨
        (opGen op = x.gen ∧ x.arrival = none ∧ (m = (notMembers s (opMask op) ||| (own &&& ~~~(opMask op)))) ∧ m ≠ 0 ∧
          st = stMemberLeft) ∨
        (opGen op = x.gen ∧ x.arrival = none ∧ notMembers s (opMask op) ||| (own &&& ~~~(opMask op)) = 0 ∧
          m = noRoutes s (opMask op) ∧ m ≠ 0 ∧ st = stNoRoute) →
      ∃ t, exec (.sluiceArrive fb tenant op) s = .next t ∧ Sends s t fb (opDone tenant op opcSluiceArrive st 0 m) ∧
        t = { s with fbs := t.fbs, poolUsed := t.poolUsed, tel := t.tel, out := t.out }) ∧
    (opGen op = x.gen → x.arrival = none → notMembers s (opMask op) ||| (own &&& ~~~(opMask op)) = 0 →
      noRoutes s (opMask op) = 0 → sluicesInProgress s < 64 →
      (∀ g, x.cur.mask = some g → g ≠ opMask op → ∃ t, exec (.sluiceArrive fb tenant op) s = .next t ∧
        (sluiceOf t i).gen = x.gen + 1 ∧ (sluiceOf t i).arrival = none ∧ (sluiceOf t i).cur = x.nxt ∧ t.ports = s.ports ∧
        (x.before ++ x.waiters = [] → Sends s t fb (opDone tenant op opcSluiceArrive stMaskMismatch 0 x.cur.arrived))) ∧
      (x.cur.mask = none ∨ x.cur.mask = some (opMask op) → waiterRoom s tenant = true →
        ∃ t, exec (.sluiceArrive fb tenant op) s = .next t ∧
          (∀ j, j ≠ i → sluiceOf t j = sluiceOf s j) ∧
          (∀ m, m < 64 → (opMask op).getLsbD m = true → m ≠ s.cfg.memberid.toNat →
            let w : Frame := weirFrame s m tenant opcLinkArrive true
              { obj := BitVec.ofNat 14 i, gen := opGen op, mask := opMask op } (.arrive i (opGen op))
            ((∃ j ∈ (fbOf s fb).rxw, j.frame.dst.toNat = m) → { frame := w } ∈ (fbOf t fb).rxw) ∧
            ((∀ j ∈ (fbOf s fb).rxw, j.frame.dst.toNat ≠ m) →
              w ∈ smGet [] t.routeHold m ∨ ∃ p, routeTo s m = some p ∧ w ∈ (portOf t p).txq)) ∧
          (x.cur.arrived ||| own ≠ opMask op → SendsNone s t ∧
            sluiceOf t i = { x with
              cur := { mask := some (opMask op), arrived := x.cur.arrived ||| own }, arrival := some me,
              before := x.waiters, waiters := [], last := { kind := 1, eng := s.cfg.memberid, agent := opAgent op } }) ∧
          (x.cur.arrived ||| own = opMask op →
            (sluiceOf t i).gen = x.gen + 1 ∧ (sluiceOf t i).cur = x.nxt ∧ (sluiceOf t i).nxt = {} ∧
            (sluiceOf t i).arrival = none ∧ (sluiceOf t i).before = [] ∧ (sluiceOf t i).waiters = [] ∧
            (x.waiters = [] → Sends s t fb (waiterDone i me 0 false 0 (opMask op)))) ∧
          t = { s with
              sluices := t.sluices, ports := t.ports, routeHold := t.routeHold, fbs := t.fbs, poolUsed := t.poolUsed,
              tel := t.tel, out := t.out })) ∧
    ((opGen op ≠ x.gen → ∃ t, exec (.sluiceWait fb tenant op) s = .next t ∧
        Sends s t fb (opDone tenant op opcSluiceWait stBadGeneration 0 0) ∧
        t = { s with fbs := t.fbs, poolUsed := t.poolUsed, tel := t.tel, out := t.out }) ∧
      (opGen op = x.gen → waiterRoom s tenant = true → ∃ t, exec (.sluiceWait fb tenant op) s = .next t ∧
        sluiceOf t i = { x with waiters := x.waiters ++ [{ me with opc := opcSluiceWait }] } ∧
        (∀ j, j ≠ i → sluiceOf t j = sluiceOf s j) ∧ SendsNone s t ∧
        t = { s with sluices := t.sluices, tel := t.tel, out := t.out }))

/-- R243, R246, R247, R388: a REMOTE_SIGNAL or RESIGNAL that is refused sends nothing and takes no tag; an accepted one takes the lowest free link tag and
queues a fenced LINK_SIGNAL, behind the class-2 messages toward its destination that entered the same fabric port before, REMOTE_SIGNAL
with the next SIGSEQ of its destination and RESIGNAL with the agent's; the LINK_ACK from that
engine with that tag answers the agent and frees the tag, one for a quarantined tag of that engine frees it, and every LINK_ACK that
answers no agent is counted.
The lowest free link tag is the choice of log entry 26.  R24: once the Hub has taken a frame, the flits that wait for its lane move up.
R248, with R230, R236 and R384: a LINK_SIGNAL that is not current is counted, logged and not acknowledged; a newer SIGSEQ is applied and becomes the new H;
one within the window is applied once; every other one is Stale; a signal that is not applied changes neither the Weir nor the window.
The LINK_ACK goes back with the outcome.
That its count has no place in the telemetry, so a counter of the model's own holds it, is that of log entry 18. -/
def Obligations.RemoteSignals : Prop :=
  ((∀ (s : State) (fb : Fin 16) (tenant : BitVec 6) (op : OpBody) (m : Nat), OpTaken s fb → m = (opDst op).toNat →
    (∀ c k st, (c = .remoteSignal fb tenant op ∧ k = opcRemoteSignal ∨ c = .resignal fb tenant op ∧ k = opcResignal) →
      (m = s.cfg.memberid.toNat ∧ st = stBadOperation) ∨
      (m ≠ s.cfg.memberid.toNat ∧ (isMember s m = false ∨ isSusp s m = true) ∧ st = stMemberLeft) ∨
      (m ≠ s.cfg.memberid.toNat ∧ isMember s m = true ∧ isSusp s m = false ∧ routeTo s m = none ∧ st = stNoRoute) ∨
      (m ≠ s.cfg.memberid.toNat ∧ isMember s m = true ∧ isSusp s m = false ∧ routeTo s m ≠ none ∧
        (∀ t, t < 1024 → linkTagOf s t ≠ .free) ∧ st = stWBusy) →
      ∃ t, exec c s = .next t ∧ Sends s t fb (opDone tenant op k st 0 0) ∧
        t = { s with fbs := t.fbs, poolUsed := t.poolUsed, tel := t.tel, out := t.out }) ∧
    (∀ c k seq p g, (c = .remoteSignal fb tenant op ∧ k = opcRemoteSignal ∧ seq = smGet 0 s.outCtr m + 1 ∨
        c = .resignal fb tenant op ∧ k = opcResignal ∧ seq = opSigseq op) →
      m ≠ s.cfg.memberid.toNat → isMember s m = true → isSusp s m = false → routeTo s m = some p →
      g < 1024 → linkTagOf s g = .free → (∀ t, t < g → linkTagOf s t ≠ .free) →
      ∃ t, exec c s = .next t ∧ SendsNone s t ∧
        linkTagOf t g = .used (opAgent op) (opTag op) fb tenant k (opObj op) (opDst op) seq
          (s.now + 1000 * max 8 (opTmo op).toNat) ∧
        (∀ j, j ≠ g → linkTagOf t j = linkTagOf s j) ∧
        smGet 0 t.outCtr m = (if k = opcRemoteSignal then seq else smGet 0 s.outCtr m) ∧
        (∀ j, j ≠ m → smGet 0 t.outCtr j = smGet 0 s.outCtr j) ∧
        (∀ w, w = weirFrame s m tenant opcLinkSignal true { obj := opObj op, tag := BitVec.ofNat 16 g, n := opN op, sigseq := seq } (.signal g) →
          ((∃ j ∈ (fbOf s fb).rxw, j.frame.dst.toNat = m) → (fbOf t fb).rxw = (fbOf s fb).rxw ++ [{ frame := w }] ∧ t.ports = s.ports ∧
            t.routeHold = s.routeHold) ∧
          ((∀ j ∈ (fbOf s fb).rxw, j.frame.dst.toNat ≠ m) → t.fbs = s.fbs ∧
            (w ∈ smGet [] t.routeHold m ∨ (portOf t p).txq = (portOf s p).txq ++ [w]))) ∧
        t = { s with
            linkTags := t.linkTags, outCtr := t.outCtr, ports := t.ports, routeHold := t.routeHold, fbs := t.fbs,
            tel := t.tel, out := t.out })) ∧
  (∀ (s : State) (p : Nat), (s.c0wait = [] → hubTaken s p = modPort s p fun x => { x with hubOps := x.hubOps.drop 1 }) ∧
    (∀ q, (portOf (hubTaken s p) q).txq = (portOf s q).txq ∧ (portOf (hubTaken s p) q).state = (portOf s q).state) ∧
    hubTaken s p = { s with ports := (hubTaken s p).ports, c0wait := (hubTaken s p).c0wait, out := (hubTaken s p).out } ∧
    SendsNone s (hubTaken s p)) ∧
  (∀ (s u : State) (p : Fin 64) (arr : Nat) (f : Frame) (g : Nat), HubHas s p opcLinkAck arr f → u = hubTaken s p →
    g = (opTag (bodyOf f.payload)).toNat →
    (∀ agent tag fb tenant opc obj seq d, g < 1024 → linkTagOf s g = .used agent tag fb tenant opc obj f.src seq d →
      fbLive (fbOf s fb) = true →
      ∃ t, exec (.linkAck p) s = .next t ∧ linkTagOf t g = .free ∧ (∀ j, j ≠ g → linkTagOf t j = linkTagOf s j) ∧
        Sends u t fb (completeFlit tenant { obj := obj, tag := tag, agent := agent, status := opStatus (bodyOf f.payload),
                                            opc := opc, sigseq := seq }) ∧
        t = { u with linkTags := t.linkTags, fbs := t.fbs, poolUsed := t.poolUsed, tel := t.tel, out := t.out }) ∧
    (∀ x, linkTagOf s g = x → x = .free ∨ (∃ since dst, x = .quarantined since dst) ∨
        (∃ agent tag fb tenant opc obj dst seq d, x = .used agent tag fb tenant opc obj dst seq d ∧ dst ≠ f.src) →
      ∃ t, exec (.linkAck p) s = .next t ∧ ((∃ since, x = .quarantined since f.src) → linkTagOf t g = .free) ∧
        ((∀ since, x ≠ .quarantined since f.src) → linkTagOf t g = x) ∧
        smGet 0 t.tel (telEng 7) = sat32 (smGet 0 s.tel (telEng 7)) 1 ∧ (∀ j, j ≠ g → linkTagOf t j = linkTagOf s j) ∧
        t = { u with linkTags := t.linkTags, tel := t.tel }))) ∧
  (∀ (s u : State) (p : Fin 64) (arr : Nat) (f : Frame) (b : OpBody) (m w : Nat) (x : InWin), HubHas s p opcLinkSignal arr f →
    u = hubTaken s p → b = bodyOf f.payload → m = f.src.toNat → w = (opObj b).toNat → x = smGet {} s.inWin m →
    (current s m f.epoch = false → ∃ t, exec (.linkSignal p) s = .next t ∧ t.weirs = s.weirs ∧ t.inWin = s.inWin ∧
      t.ports = u.ports ∧ t.tally = (count s .signalNotCurrent p).tally ∧
      t.log = (note s stNotCurrent skMember m
        [f.tenant.toNat, (opObj b).toNat, 0, (opTag b).toNat, (opSigseq b).toNat, f.src.toNat]).log) ∧
    (current s m f.epoch = true →
      (∀ st, ((newer (opSigseq b) x.high = true ∨
              (newer (opSigseq b) x.high = false ∧ (x.high - opSigseq b).toNat < 1024 ∧
                x.rec'.getLsbD (x.high - opSigseq b).toNat = false)) ∧
            ((ownsWeir s f.tenant w = false ∧ st = stNotOwner) ∨
              (ownsWeir s f.tenant w = true ∧ 0xFFFFFFFF < (weirOf s w).val.toNat + (opN b).toNat ∧ st = stWeirOverflow))) ∨
          (newer (opSigseq b) x.high = false ∧ (x.high - opSigseq b).toNat < 1024 ∧
            x.rec'.getLsbD (x.high - opSigseq b).toNat = true ∧ st = stWDuplicate) ∨
          (newer (opSigseq b) x.high = false ∧ 1024 ≤ (x.high - opSigseq b).toNat ∧ st = stStale) →
        ∃ t, exec (.linkSignal p) s = .next t ∧ SendsNone s t ∧
          t = { u with ports := t.ports, log := t.log, gen := t.gen, tel := t.tel, mgmt := t.mgmt, out := t.out } ∧
          ∀ q, routeTo s m = some q → (portOf t q).txq = (portOf s q).txq ++ [weirFrame s m f.tenant opcLinkAck false
            { obj := opObj b, tag := opTag b, status := st, opc := opcLinkSignal, sigseq := opSigseq b } .reply]) ∧
      (ownsWeir s f.tenant w = true → (weirOf s w).val.toNat + (opN b).toNat ≤ 0xFFFFFFFF →
        newer (opSigseq b) x.high = true ∨
          ((x.high - opSigseq b).toNat < 1024 ∧ x.rec'.getLsbD (x.high - opSigseq b).toNat = false) →
        ∃ t, exec (.linkSignal p) s = .next t ∧
          (opN b ≠ 0 → (weirOf t w).val = (wakeQueue ((weirOf s w).val + opN b) (weirOf s w).queue).2.2 ∧
            (weirOf t w).queue = (wakeQueue ((weirOf s w).val + opN b) (weirOf s w).queue).2.1 ∧
            (weirOf t w).last = { kind := 2, eng := f.src, agent := 0, sigseq := opSigseq b }) ∧
          (p.val, arr) ∈ (weirOf t w).holds ∧ (∀ j, j ≠ w → weirOf t j = weirOf s j) ∧
          (newer (opSigseq b) x.high = true → (smGet {} t.inWin m).high = opSigseq b ∧
            (smGet {} t.inWin m).rec'.getLsbD 0 = true ∧
            ∀ k, 0 < k → k < 1024 → (smGet {} t.inWin m).rec'.getLsbD k =
              (decide ((opSigseq b - x.high).toNat ≤ k) && x.rec'.getLsbD (k - (opSigseq b - x.high).toNat))) ∧
          (newer (opSigseq b) x.high = false → (smGet {} t.inWin m).high = x.high ∧
            ∀ k, k < 1024 → (smGet {} t.inWin m).rec'.getLsbD k =
              (x.rec'.getLsbD k || decide (k = (x.high - opSigseq b).toNat))) ∧
          (∀ j, j ≠ m → smGet {} t.inWin j = smGet {} s.inWin j) ∧
          t = { u with
              weirs := t.weirs, inWin := t.inWin, ports := t.ports, fbs := t.fbs, poolUsed := t.poolUsed, log := t.log, gen := t.gen, tel := t.tel,
              mgmt := t.mgmt, out := t.out } ∧
          ∀ q, routeTo s m = some q → (portOf t q).txq = (portOf s q).txq ++ [weirFrame s m f.tenant opcLinkAck false
            { obj := opObj b, tag := opTag b, status := 0, opc := opcLinkSignal, sigseq := opSigseq b } .reply])))

/-- R230, R240, R242: a LINK_ARRIVE sets its source's bit in generation G or G + 1, and completes a Sluice in progress that it fills; a second one
changes nothing; one that is not accepted changes no Sluice and is rejected; a LINK_REJECT for the generation in progress completes it with
its status, and any other is counted, in a counter of the model's own (log entry 18); an arrival's
deadline completes it with Timeout and the members that have not arrived.
Log entries 19 and 83 name the readings. -/
def Obligations.SluicesFromLinks : Prop :=
    (∀ (s u : State) (p : Fin 64) (arr : Nat) (f : Frame) (b : OpBody) (i : Nat) (x : Sluice), HubHas s p opcLinkArrive arr f →
    u = hubTaken s p → b = bodyOf f.payload → i = opSluice b → x = sluiceOf s i →
    (∀ st, arriveRefusal s f b = some st → ∃ t, exec (.linkArrive p) s = .next t ∧ t.sluices = s.sluices ∧ SendsNone s t ∧
      (current s f.src.toNat f.epoch = false → st = stNotCurrent) ∧
      (current s f.src.toNat f.epoch = true → ownsSluice s f.tenant i = true → opGen b ≠ x.gen → opGen b ≠ x.gen + 1 →
        st = stBadGeneration) ∧
      ∀ q, routeTo s f.src.toNat = some q → (portOf t q).txq = (portOf s q).txq ++
        [weirFrame s f.src.toNat f.tenant opcLinkReject false
          { obj := BitVec.ofNat 14 i, status := st, gen := opGen b, mask := opMask b } .reply]) ∧
    (current s f.src.toNat f.epoch = true → ownsSluice s f.tenant i = true → (opMask b).getLsbD f.src.toNat = true →
      (opGen b = x.gen ∨ opGen b = x.gen + 1 → ((if opGen b = x.gen then x.cur else x.nxt).mask = none ∨
          (if opGen b = x.gen then x.cur else x.nxt).mask = some (opMask b)) →
        (if opGen b = x.gen then x.cur else x.nxt).arrived.getLsbD f.src.toNat = true →
        exec (.linkArrive p) s = .next u) ∧
      (opGen b = x.gen → x.cur.arrived.getLsbD f.src.toNat = false → x.cur.mask = none ∨ x.cur.mask = some (opMask b) →
        ∃ t, exec (.linkArrive p) s = .next t ∧ (∀ j, j ≠ i → sluiceOf t j = sluiceOf s j) ∧
          (x.arrival = none ∨ x.cur.arrived ||| 1#64 <<< f.src.toNat ≠ opMask b →
            (sluiceOf t i).cur = { mask := some (opMask b), arrived := x.cur.arrived ||| 1#64 <<< f.src.toNat } ∧
            (sluiceOf t i).gen = x.gen ∧ (sluiceOf t i).nxt = x.nxt ∧ (sluiceOf t i).arrival = x.arrival ∧
            (sluiceOf t i).before = x.before ∧ (sluiceOf t i).waiters = x.waiters ∧ (p.val, arr) ∈ (sluiceOf t i).holds ∧ SendsNone s t) ∧
          (x.arrival ≠ none → x.cur.arrived ||| 1#64 <<< f.src.toNat = opMask b →
            (sluiceOf t i).gen = x.gen + 1 ∧ (sluiceOf t i).cur = x.nxt ∧ (sluiceOf t i).arrival = none ∧
            (sluiceOf t i).before = [] ∧ (sluiceOf t i).waiters = [])) ∧
      (opGen b = x.gen + 1 → x.nxt.arrived.getLsbD f.src.toNat = false → x.nxt.mask = none ∨ x.nxt.mask = some (opMask b) →
        x.arrival = none ∨ sluiceFull x = false →
        ∃ t, exec (.linkArrive p) s = .next t ∧ (∀ j, j ≠ i → sluiceOf t j = sluiceOf s j) ∧ SendsNone s t ∧
          (sluiceOf t i).nxt = { mask := some (opMask b), arrived := x.nxt.arrived ||| 1#64 <<< f.src.toNat } ∧
          (sluiceOf t i).cur = x.cur ∧ (sluiceOf t i).gen = x.gen ∧ (sluiceOf t i).arrival = x.arrival))) ∧
  (∀ (s : State) (c : Instr) (i : Nat) (st : W16) (mk : W64) (rip : Bool),
    (∃ p arr f, c = .linkReject p ∧ HubHas s p opcLinkReject arr f ∧ i = opSluice (bodyOf f.payload) ∧
      current s f.src.toNat f.epoch = true ∧ ownsSluice s f.tenant i = true ∧ (sluiceOf s i).arrival ≠ none ∧
      opGen (bodyOf f.payload) = (sluiceOf s i).gen ∧ st = opStatus (bodyOf f.payload) ∧ mk = (sluiceOf s i).cur.arrived ∧
      rip = false) ∨
    (∃ sl : Fin 256, ∃ a g, c = .sluiceArrivalDeadline sl ∧ Alive s ∧ i = sl.val ∧ (sluiceOf s i).arrival = some a ∧
      a.deadline ≤ s.now ∧ (sluiceOf s i).cur.mask = some g ∧ st = stWTimeout ∧ mk = g &&& ~~~(sluiceOf s i).cur.arrived ∧
      rip = replayInProgress s) →
    ∃ t, exec c s = .next t ∧ (sluiceOf t i).gen = (sluiceOf s i).gen + 1 ∧ (sluiceOf t i).cur = (sluiceOf s i).nxt ∧
      (sluiceOf t i).arrival = none ∧ (sluiceOf t i).before = [] ∧ (sluiceOf t i).waiters = [] ∧ (∀ j, j ≠ i → sluiceOf t j = sluiceOf s j) ∧
      ((sluiceOf s i).holds = [] → ∀ f y, flitCount t f y = flitCount s f y +
        (((sluiceWaiters (sluiceOf s i)).filter fun a => decide (a.fb = f) && fbLive (fbOf s f)).map
          fun a => waiterDone i a st rip 0 mk).count y) ∧
      t = { s with
        sluices := t.sluices, ports := t.ports, c0wait := t.c0wait, fbs := t.fbs, poolUsed := t.poolUsed, tel := t.tel, out := t.out }) ∧
  (∀ (s u : State) (p : Fin 64) (arr : Nat) (f : Frame) (i : Nat), HubHas s p opcLinkReject arr f → u = hubTaken s p → i = opSluice (bodyOf f.payload) →
    current s f.src.toNat f.epoch = false ∨ ownsSluice s f.tenant i = false ∨ (sluiceOf s i).arrival = none ∨
      opGen (bodyOf f.payload) ≠ (sluiceOf s i).gen →
    ∃ t, exec (.linkReject p) s = .next t ∧ t.tally = (count s .reject p).tally ∧ t = { u with tally := t.tally })

/-- R65, R237, R241, R245: the µs check takes every waiter whose deadline has come out of its queue and answers it with a Timeout COMPLETE, which
carries the Weir's value or who has arrived and whether a replay is in progress, answers every remote signal that is due so and
quarantines its tag, and leaves the others; a tag is freed 10 ms after its timeout; a COMPLETE leaves once its holds have ended, and none is lost. -/
def Obligations.HubDeadlines : Prop :=
    ∀ (s : State), Alive s →
    (∃ t, exec .waiterDeadline s = .next t ∧
      (∀ w, ∀ y ∈ (weirOf t w).queue, s.now < y.deadline ∧ y ∈ (weirOf s w).queue) ∧
      (∀ w, (∀ y ∈ (weirOf s w).queue, s.now < y.deadline) → weirOf t w = weirOf s w) ∧
      (∀ w h r, (weirOf s w).queue = h :: r → s.now < h.deadline →
        weirOf t w = { weirOf s w with queue := (weirOf s w).queue.filter fun y => decide (s.now < y.deadline) }) ∧
      (∀ i, sluiceOf t i = { sluiceOf s i with
        before := (sluiceOf s i).before.filter fun y => decide (s.now < y.deadline),
        waiters := (sluiceOf s i).waiters.filter fun y => decide (s.now < y.deadline) }) ∧
      (∀ k, linkTagOf t k = match linkTagOf s k with
        | .used a g fb te o ob ds sq d => if d ≤ s.now then .quarantined s.now ds else .used a g fb te o ob ds sq d
        | x => x) ∧
      (∀ w, ∀ y ∈ (weirOf s w).queue, y.deadline ≤ s.now → fbLive (fbOf s y.fb) = true →
        ∀ e, e = waiterDone w y stWTimeout (replayInProgress s) (weirOf s w).val 0 → flitCount s y.fb e < flitCount t y.fb e) ∧
      (∀ i, ∀ y ∈ (sluiceOf s i).before ++ (sluiceOf s i).waiters, y.deadline ≤ s.now → fbLive (fbOf s y.fb) = true →
        ∀ e, e = waiterDone i y stWTimeout (replayInProgress s) 0 (sluiceOf s i).cur.arrived → flitCount s y.fb e < flitCount t y.fb e) ∧
      (∀ k a g fb te o ob ds sq d, linkTagOf s k = .used a g fb te o ob ds sq d → d ≤ s.now → fbLive (fbOf s fb) = true →
        ∀ e, e = completeFlit te { obj := ob, tag := g, agent := a, status := stWTimeout, rip := replayInProgress s, opc := o, sigseq := sq } →
          flitCount s fb e < flitCount t fb e) ∧
      t = { s with
        weirs := t.weirs, sluices := t.sluices, linkTags := t.linkTags, fbs := t.fbs, poolUsed := t.poolUsed, tel := t.tel,
        out := t.out }) ∧
    (∃ t, exec .tagQuarantineExpiry s = .next t ∧
      (∀ k, linkTagOf t k = match linkTagOf s k with
        | .quarantined a d => if a + 10000000 ≤ s.now then .free else .quarantined a d
        | x => x) ∧
      (∀ k, smGet .free t.memTags k = match smGet .free s.memTags k with
        | .quarantined a => if a + 10000000 ≤ s.now then .free else .quarantined a
        | x => x) ∧
      (∀ k, smGet .free t.conTags k = match smGet .free s.conTags k with
        | .quarantined a => if a + 10000000 ≤ s.now then .free else .quarantined a
        | x => x) ∧
      t = { s with linkTags := t.linkTags, memTags := t.memTags, conTags := t.conTags }) ∧
    (∀ fb : Fin 16, fbLive (fbOf s fb) = true → ∃ t, exec (.visibilityHoldRelease fb) s = .next t ∧
      (fbOf t fb).heldC = (fbOf s fb).heldC.filter (fun h => h.holds.any (holdForce s)) ∧
      ((∀ h ∈ (fbOf s fb).heldC, h.flit.fclass = 0) → SendsNone s t) ∧ (∀ f, f ≠ fb.val → fbOf t f = fbOf s f) ∧
      t = { s with fbs := t.fbs, poolUsed := t.poolUsed, tel := t.tel, out := t.out })

/-! ## Memory, content and objects (chapter 9) -/

/-- R63, R65, R67, R158, R197, R209, R239, R261, R273, R285, R289, R364 to R367: a transfer asks, at every port that holds some of its
granules, for at most eight of them at a time; a response to an outstanding tag frees it at its last beat and the transfer's rest follows,
or its issuer goes on once all of it is answered; an error ends or marks what waits for it; a response to a tag that is not outstanding is
discarded and counted and frees a quarantined tag, and a request past its deadline gives its issuer Timeout and its tag is quarantined.
Log entries 46 and 48 name the readings. -/
def Obligations.RequestAnswers : Prop :=
    (∀ (off len mp g : Nat), 0 < len → mp < 8 → (((portRun off len mp).1 ≤ g ∧ g < (portRun off len mp).1 + (portRun off len mp).2) ↔
    off / 256 ≤ 8 * g + mp ∧ 256 * (8 * g + mp) < off + len)) ∧
  (∀ (s u : State) (off len : Nat) (wr : Bool) (who : Issuer), memIssue s off len wr who = some u →
    (∀ mp, mp < 8 → (portRun off (max 1 len) mp).2 ≠ 0 → ∃ tag, memTag s mp tag = .free ∧ (if wr then 1024 ≤ tag ∧ tag < 1536 else tag < 1024) ∧
      memTag u mp tag = .used who (s.now + 1000 * s.cfg.memtmo) ∧
      .memory mp tag wr (portRun off (max 1 len) mp).1 (min (portRun off (max 1 len) mp).2 8) ∈ u.out) ∧
    u = { s with memTags := u.memTags, memRest := u.memRest, out := u.out }) ∧
  (∀ (s : State) (mp : Fin 8) (tag : BitVec 11) (who : Issuer) (d : Nat) (last err wr : Bool) (c : Instr) (rest : Nat × Nat), Alive s →
    lockedOn s (32 + mp.val / 4) = true → memTag s mp tag.toNat = .used who d → rest = smGet (0, 0) s.memRest (2048 * mp + tag.toNat) →
    (c = .memoryReadResponse mp tag last err ∧ tag.toNat < 1024 ∧ wr = false) ∨
      (c = .memoryWriteResponse mp tag err ∧ 1024 ≤ tag.toNat ∧ last = true ∧ wr = true) →
    (last = false → err = false → exec c s = .next s) ∧
    (last = true → err = false → rest.2 ≠ 0 → who ≠ .nobody → ∃ t, exec c s = .next t ∧
      memTag t mp tag.toNat = .used who (s.now + 1000 * s.cfg.memtmo) ∧
      smGet (0, 0) t.memRest (2048 * mp + tag.toNat) = (if rest.2 ≤ 8 then (0, 0) else (rest.1 + 8, rest.2 - 8)) ∧
      t.out = s.out ++ [.memory mp tag.toNat wr rest.1 (min rest.2 8)] ∧
      t = { s with memTags := t.memTags, memRest := t.memRest, out := t.out }) ∧
    (last = true → err = false → rest.2 = 0 ∨ who = .nobody → ∃ t, exec c s = .next t ∧ memTag t mp tag.toNat = .free ∧
      (∀ b x, who = .shadow b → doneOf s b = [x] → doneOf t b = [{ x with waits := x.waits - 1 }] ∧
        t = { s with memTags := t.memTags, memRest := t.memRest, bankDone := t.bankDone }) ∧
      (∀ k x, memAsks (setMemTag s mp tag.toNat .free) who = false → (streamOf s k).maskDue = false →
        (who = .gram k ∧ x = { streamOf s k with gramRead := true } ∨ who = .block k ∧ wr = true ∧ x = { streamOf s k with blockAck := true }) →
        streamOf t k = x ∧ (∀ j, j ≠ k → streamOf t j = streamOf s j) ∧
        t = { s with memTags := t.memTags, memRest := t.memRest, streams := t.streams }) ∧
      ((∃ k, who = .kv k) ∨ (∃ no o, who = .weights no o) ∨ who = .stage ∨ who = .nobody →
        t = { s with memTags := t.memTags, memRest := t.memRest })) ∧
    (err = true → ∃ t, exec c s = .next t ∧ (last = true → memTag t mp tag.toNat = .free) ∧
      (wr = false → smGet 0 t.tel (telEng 5) = sat32 (smGet 0 s.tel (telEng 5)) 1) ∧
      (∀ k o, who = .gram k → (streamOf s k).gramObj = some o → wr = false → (objOf t o).state = .lost ∨ (objOf t o).state = .free) ∧
      (∀ no o, who = .weights no o → wr = false → (objOf t o).state = .lost ∨ (objOf t o).state = .free) ∧
      (∀ ch x r, who = .dma ch → smGet [] s.dmaQ ch = x :: r → x.started = true → x.status = 0 → smGet [] t.dmaQ ch =
        { x with status := if wr then stWriteFailed else stUncorrectable, badWrite := wr || x.flushed } :: r) ∧
      (∀ k, who = .kv k ∨ who = .block k ∧ wr = true → (streamOf t k).inUse = false) ∧
      (∀ k, who = .block k → wr = false → t.streams = s.streams ∧
        (∀ pos car, Job.firstStage k pos car ∈ s.jobs → Job.firstStage k pos none ∈ t.jobs) ∧
        (∀ j ∈ t.jobs, j ∈ s.jobs ∨ ∃ pos, j = .firstStage k pos none) ∧
        (∀ no p r pos car, smGet [] s.progs no = p :: r → p.job = .firstStage k pos car →
          (smGet [] t.progs no).head? = some { p with job := .firstStage k pos none }) ∧
        t = { s with
          memTags := t.memTags, memRest := t.memRest, tel := t.tel, jobs := t.jobs, progs := t.progs, disp := t.disp }) ∧
      (∀ b x, who = .shadow b → doneOf s b = [x] → wr = true → doneOf t b = [{ x with waits := x.waits - 1, status := stWriteFailed }] ∧
        t = { s with memTags := t.memTags, memRest := t.memRest, bankDone := t.bankDone }))) ∧
  (∀ (s : State) (mp : Fin 8) (tag : BitVec 11) (last err : Bool) (c : Instr), Alive s → lockedOn s (32 + mp.val / 4) = true →
    (c = .memoryReadResponse mp tag last err ∨ (c = .memoryWriteResponse mp tag err ∧ last = true)) →
    (∀ who d, memTag s mp tag.toNat ≠ .used who d) → ∃ t, exec c s = .next t ∧
      smGet 0 t.tel (telEng 7) = sat32 (smGet 0 s.tel (telEng 7)) 1 ∧
      ((last = true ∨ memTag s mp tag.toNat = .free) → memTag t mp tag.toNat = .free) ∧ (last = false → t.memTags = s.memTags) ∧
      t = { s with tel := t.tel, memTags := t.memTags, memRest := t.memRest }) ∧
  (∀ (s u : State) (tag : BitVec 9) (last : Bool) (status : BitVec 3) (who : Issuer) (d : Nat) (wr : Bool) (c : Instr) (rest : Nat × Nat),
    Alive s → lockedOn s 33 = true → conTag s tag.toNat = .used who d → rest = smGet (0, 0) s.conRest tag.toNat →
    u = setConTag s tag.toNat .free → (c = .contentCompletion tag last status ∧ tag.toNat < 256 ∧ wr = false) ∨
      (c = .contentWriteAck tag ∧ 256 ≤ tag.toNat ∧ last = true ∧ status = 0 ∧ wr = true) →
    (last = false → status = 0 → exec c s = .next s) ∧
    (last = true → status = 0 → rest.2 ≠ 0 → who ≠ .nobody → ∃ t, exec c s = .next t ∧
      conTag t tag.toNat = .used who (s.now + 1000 * s.cfg.contmo) ∧
      t.out = s.out ++ [.content tag.toNat wr (rest.1 / 64) (ceilDiv (min rest.2 (4096 - rest.1 % 4096)) 64)] ∧
      t = { s with conTags := t.conTags, conRest := t.conRest, out := t.out }) ∧
    (last = true → status = 0 → rest.2 = 0 ∨ who = .nobody →
      ((∀ ch, who ≠ .dma ch) → (∀ k, who ≠ .gram k ∧ who ≠ .block k ∧ who ≠ .shadow k) → exec c s = .next u) ∧
      (∀ ch x r v, who = .dma ch → smGet [] s.dmaQ ch = x :: r → x.started = true → x.dstsp = 1 → x.flushed = false → x.status = 0 →
        conWrites u (.dma ch) = false → conIssue u (x.dst + x.len - 64) 64 false (.dma ch) = some v →
        ∃ t, exec c s = .next t ∧ smGet [] t.dmaQ ch = { x with flushed := true } :: r ∧ t = { v with dmaQ := t.dmaQ })) ∧
    (status ≠ 0 → ∃ t, exec c s = .next t ∧ (last = true → conTag t tag.toNat = .free) ∧
      (∀ i, who = .shard i → t.load = { s.load with missing := s.load.missing ++ [i] } ∧
        t = { s with conTags := t.conTags, conRest := t.conRest, load := t.load }) ∧
      (∀ ch x r, who = .dma ch → smGet [] s.dmaQ ch = x :: r → x.started = true → x.status = 0 → smGet [] t.dmaQ ch =
        { x with status := stContentError, badWrite := x.flushed } :: r))) ∧
  (∀ (s : State) (tag : BitVec 9) (status : BitVec 3), Alive s → lockedOn s 33 = true →
    (∀ who d, conTag s tag.toNat ≠ .used who d) → ∀ c ∈ [Instr.contentCompletion tag true status, .contentWriteAck tag],
      ∃ t, exec c s = .next t ∧ conTag t tag.toNat = .free ∧ smGet 0 t.tel (telEng 7) = sat32 (smGet 0 s.tel (telEng 7)) 1 ∧
      t = { s with tel := t.tel, conTags := t.conTags, conRest := t.conRest }) ∧
  (∀ (s : State) (mp : Fin 8) (mt : BitVec 11) (ct : BitVec 9) (who : Issuer) (d : Nat), Alive s →
    (memTag s mp mt.toNat = .used who d → (s.now < d → exec (.completionTimeout (.memory mp mt)) s = .next s) ∧
      (d ≤ s.now → ∃ t, exec (.completionTimeout (.memory mp mt)) s = .next t ∧ memTag t mp mt.toNat = .quarantined s.now ∧
        (∀ c, who = .kv c ∨ who = .block c → (streamOf t c).inUse = false) ∧
        (∀ c o, who = .gram c → (streamOf s c).gramObj = some o → (streamOf t c).inUse = false) ∧
        (∀ no o, who = .weights no o → ∀ x ∈ smGet [] s.progs no, ∀ c ∈ liveStreams s x.job, (streamOf t c).inUse = false) ∧
        (∀ ch x r, who = .dma ch → smGet [] s.dmaQ ch = x :: r → x.started = true → x.status = 0 →
          smGet [] t.dmaQ ch = { x with status := stMTimeout, badWrite := decide (1024 ≤ mt.toNat) || x.flushed } :: r) ∧
        (who = .stage → s.load.state = .loading → loadMoving s = false → t.load.state = .failed ∧ t.load.status = stMTimeout))) ∧
    (conTag s ct.toNat = .used who d → (s.now < d → exec (.completionTimeout (.content ct)) s = .next s) ∧
      (d ≤ s.now → ∃ t, exec (.completionTimeout (.content ct)) s = .next t ∧ conTag t ct.toNat = .quarantined s.now ∧
        (∀ i, who = .shard i → t.load.missing = s.load.missing ++ [i]) ∧
        (∀ ch x r, who = .dma ch → smGet [] s.dmaQ ch = x :: r → x.started = true → x.status = 0 →
          smGet [] t.dmaQ ch = { x with status := stMTimeout, badWrite := decide (256 ≤ ct.toNat) || x.flushed } :: r))))

/-- R168, R230, R236, R239, R264, R271 to R273, R275: a transfer waits for its requests, and one that a bound stalled starts; one into the content
window first reads its last 64 bytes, and a further descriptor follows while its move has more to copy; a finished move makes
the destination the object's home, keeps the source until it is freed, puts the bytes into a Rill's SRAM, takes the CRC-64 into the slow tier
and checks it on the way out, raises the Weir it names and completes with its DTAG; a failed one leaves the object at home or lost, with the
status in the mailbox and failed writes logged.  A reload rereads the object from its Bale: verified, the object is at home again, with the
sources of its earlier moves; with shards lost, or no longer by the rules of its kind, it stays lost and that is logged.
Which results can occur is read by inference (log entry 85), and so are the arguments of the log (log entry 46); log entry 43 gives the home of
a reload. -/
def Obligations.TransfersAndReloads : Prop :=
    (∀ (s : State) (ch : Fin 16) (d : Dma) (q : List Dma) (r : DmaRes), Alive s → lockedOn s (32 + ch.val / 8) = true →
    smGet [] s.dmaQ ch = d :: q →
    (d.started = false → exec (.dmaTransferComplete ch r) s = .next (startDma s ch)) ∧
    (d.started = true → dmaAsked s ch = true ∨ dmaPossible d r = false → exec (.dmaTransferComplete ch r) s = .next s) ∧
    (d.started = true → dmaAsked s ch = false → dmaPossible d r = true → d.dstsp = 1 → d.flushed = false → d.status = 0 →
      exec (.dmaTransferComplete ch r) s = .next (flushDma s ch)) ∧
    (d.started = true → dmaAsked s ch = false → d.dstsp ≠ 1 ∨ d.flushed = true → d.status = 0 → d.more ≠ 0 → ∀ data, r = .good data →
      exec (.dmaTransferComplete ch r) s = .next (startDma { s with dmaQ := smSet [] s.dmaQ ch ({ d with
        src := d.src + d.len, dst := d.dst + d.len, len := min 0xFFFFFFC0 d.more, more := d.more - 0xFFFFFFC0, copied := d.copied ++ data,
        started := false, flushed := false } :: q) } ch)) ∧
    (d.started = true → dmaAsked s ch = false → dmaPossible d r = true → s.draining = [] → s.load.ending = none →
    d.dstsp ≠ 1 ∨ d.flushed = true ∨ d.status ≠ 0 → d.more = 0 ∨ d.status ≠ 0 ∨ (∀ data, r ≠ .good data) →
    ∃ t, exec (.dmaTransferComplete ch r) s = .next t ∧
      (s.dmaWait = [] → q = [] → smGet [] t.dmaQ ch = [] ∧ (∀ k, k ≠ ch.val → smGet [] t.dmaQ k = smGet [] s.dmaQ k)) ∧
      (∀ id m, d.obj = some id → (objOf s id).state = .moving → (objOf s id).move = some m →
        let ends (st : W16) : Prop := smGet (0, 0) t.dmaDone ch = (d.dtag, st) ∧
          (d.fromHost = true → s.mbx.busy = true → s.mbx.running = some (.move id) → Finished s t st)
        let moved (data : List Byte) : Prop := objOf t id = { objOf s id with
            state := .home, home := m.dest, move := none, oldHomes := (objOf s id).oldHomes ++ [(objOf s id).home],
            crc := if m.dest.tier = .slow then some (crc64 data) else none } ∧
          (m.dest.tier = .near → m.dest.pool = false → (plotOf t m.dest.rill).resid = true ∧ smGet [] t.sram m.dest.rill =
            memWrite 0 (smGet [] s.sram m.dest.rill) m.dest.loc.toNat (data.take (objOf s id).size)) ∧
          (m.dest.tier ≠ .near ∨ m.dest.pool = true → t.sram = s.sram)
        let differs (data : List Byte) : Prop := ∃ c, (objOf s id).crc = some c ∧ crc64 data ≠ c
        (∀ data, d.status = 0 → r = .good data → ¬differs (d.copied ++ data) → moved (d.copied ++ data) ∧ (∀ k, k ≠ id → objOf t k = objOf s k) ∧
          (d.sigen = false ∨ ownsWeir s (BitVec.ofNat 6 d.tenant) d.weir = true ∧
            (d.count = 0 ∨ overflows s d.weir d.count = false) → ends 0) ∧
          (d.sigen = true → ownsWeir s (BitVec.ofNat 6 d.tenant) d.weir = true → overflows s d.weir d.count = true → d.count ≠ 0 →
            ends stWeirOverflow) ∧
          (d.sigen = true → ownsWeir s (BitVec.ofNat 6 d.tenant) d.weir = false → ends stNotOwner) ∧
          t.load = { s.load with arrived := s.load.arrived ++ (if s.load.moving.contains id then [id] else []) } ∧
          (d.sigen = false → t = { s with
            dmaQ := t.dmaQ, dmaWait := t.dmaWait, dmaDone := t.dmaDone, objs := t.objs, plots := t.plots, mbx := t.mbx, gen := t.gen,
            sram := t.sram, flips := t.flips, load := t.load, tel := t.tel, memTags := t.memTags, memRest := t.memRest, conTags := t.conTags,
            conRest := t.conRest, out := t.out })) ∧
        (∀ st, (d.status = st ∧ (st = stOutOfRange ∨ st = stMTimeout)) ∨
            (d.status = stWriteFailed ∨ d.status = 0 ∧ r = .writeFailed) ∧ st = stWriteFailed ∨
            (d.status = stContentError ∨ d.status = 0 ∧ r = .contentFailed) ∧ st = stContentError →
          objOf t id = { objOf s id with state := .home, move := none } ∧ ends st ∧ t.sram = s.sram ∧
          (st = stWriteFailed ∨ d.badWrite = true ∨ st = stContentError ∧ d.dstsp = 1 → t.log =
            (noteMemory s st 0xFFFFFFFF id (if d.dstsp = 0 then memPortOf d.dst else 0) d.dst d.dtag.toNat).log) ∧
          (st ≠ stWriteFailed → d.badWrite = false → st ≠ stContentError ∨ d.dstsp ≠ 1 → t.log = s.log)) ∧
        (d.status = stUncorrectable ∨ d.status = 0 ∧ (r = .readFailed ∨ ∃ data, r = .good data ∧ differs (d.copied ++ data)) →
          ((objOf t id).state = .lost ∨ (objOf t id).state = .free) ∧ ends stUncorrectable) ∧
        (∀ b w, d.status = 0 → r = .sramFailed b w → ends stUncorrectable ∧ smGet 0 t.tel (telEng 4) = sat32 (smGet 0 s.tel (telEng 4)) 1 ∧
          (objAt s d.srill w = some id → ((objOf t id).state = .lost ∨ (objOf t id).state = .free) ∧ t.mask.contains d.srill = false))) ∧
      (d.obj = none → d.status = 0 → d.sigen = true → ownsWeir s (BitVec.ofNat 6 d.tenant) d.weir = true →
        overflows s d.weir d.count = false → d.count ≠ 0 → s.dmaWait = [] → q = [] →
        t = { raiseWeir s d.weir d.count { kind := 3, eng := s.cfg.memberid, agent := BitVec.ofNat 16 ch, sigseq := 0 } with
          dmaQ := t.dmaQ, dmaDone := t.dmaDone }))) ∧
  (∀ (s : State) (obj : Nat), Alive s → s.draining = [] → ∃ t, exec (.moveSourceFree obj) s = .next t ∧
    (objOf t obj = { objOf s obj with oldHomes := (objOf s obj).oldHomes.drop 1 } ∨ objOf t obj = {}) ∧
    (usersOf s obj ≠ 0 → objOf t obj = { objOf s obj with oldHomes := (objOf s obj).oldHomes.drop 1 }) ∧
    t = { s with objs := t.objs, ests := t.ests, plots := t.plots }) ∧
  (∀ (s : State) (obj : Nat) (img : BaleImage) (unread : List Nat), Alive s →
    ((objOf s obj).state ≠ .lost → exec (.objectReload obj img unread) s = .next s) ∧
    ((objOf s obj).state = .lost →
      let freed : State := setObj s obj { objOf s obj with state := .free }
      (∀ data h a, reread s (objOf s obj) img unread = .ok data → objStands (objOf s obj) img data = true → reloadHome freed obj = some h →
        (h.tier = .fen ∧ a = (objOf s obj).home.loc ∨ h.tier ≠ .fen ∧ placeIn freed h (objOf s obj).size = some a) →
        ∃ t, exec (.objectReload obj img unread) s = .next t ∧ (∀ k, k ≠ obj → objOf t k = objOf s k) ∧
          objOf t obj = { objOf s obj with
            state := .home, home := { h with loc := a }, crc := if h.tier = .slow then some (crc64 data) else none } ∧
          (h.tier = .near → h.pool = false → smGet [] t.sram h.rill =
            memWrite 0 (smGet [] s.sram h.rill) a.toNat (data.take (objOf s obj).size)) ∧
          (∀ n, s.mask.contains n = true → t.mask.contains n = true) ∧
          t = { s with objs := t.objs, plots := t.plots, mask := t.mask, sram := t.sram, flips := t.flips }) ∧
      (∀ data, reread s (objOf s obj) img unread = .ok data → objStands (objOf s obj) img data = true →
        (∀ h, reloadHome freed obj = some h → h.tier ≠ .fen ∧
        placeIn freed h (objOf s obj).size = none) → exec (.objectReload obj img unread) s = .next s) ∧
      (∀ f, reread s (objOf s obj) img unread = .error f ∨
          (∃ data, reread s (objOf s obj) img unread = .ok data ∧ objStands (objOf s obj) img data = false ∧ f = []) →
        ∃ t, exec (.objectReload obj img unread) s = .next t ∧
        t.log = (note s stShardsLost skBale 0 ([(objOf s obj).bale.1.toNat % 2 ^ 32, (objOf s obj).bale.1.toNat / 2 ^ 32,
          (objOf s obj).bale.2.toNat] ++ shardWords f)).log ∧
        t = { s with log := t.log, tel := t.tel, gen := t.gen, mgmt := t.mgmt, out := t.out })))

/-- R259, R264, R269 to R271, R275, R378: OBJ_QUERY gives the object record; OBJ_MOVE is refused in the order of R271, or the object is
Moving, with a descriptor queued, and the command waits; SLOW_GRANT takes the lowest free region for a range in the window that meets no
other; SLOW_RELEASE gives a region back once nothing is in it.
The choice of channel and Rill and the rounding are the model's (log entries 30 and 54). -/
def Obligations.PlacementCommands : Prop :=
    (∀ (s : State) (a : MbxArgs), Alive s → MailboxFree s →
    let id := fld (argOf s a 0) 0 17
    let o := objOf s id
    (∃ t, exec (.objQuery a) s = .next t ∧ Answered t a.ctag 0 ∧
      (∀ i, i < 6 → resultReg t i = BitVec.ofNat 32 (objRecord id o (setsOf s id) (usersShown s id) / 2 ^ (32 * i))) ∧
      t = { s with mbx := t.mbx, gen := t.gen }) ∧
    (∃ t, exec (.objMove a) s = .next t ∧
      let tier := fld (argOf s a 1) 0 2
      let rp := fld (argOf s a 1) 8 8
      let dest : Option Home := if tier = 0 then some { tier := .far } else if tier = 1 then some { tier := .near, pool := true }
        else if tier = 3 then some (slowHome s o.size) else if rp < 191 then some { tier := .near, rill := min rp 127 }
        else (anyRill s o.size).map fun r => { tier := .near, rill := r }
      let refused (st : W16) : Prop := Answered t a.ctag st ∧ t = { s with mbx := t.mbx, gen := t.gen }
      (o.state = .free → refused stOutOfRange) ∧
      (∀ h, dest = some h →
        (o.state = .moving → refused stObjectMoving) ∧
        ((o.state = .lost ∨ o.state = .home ∧ moveAllowed s id h = false) → refused stMoveForbidden) ∧
        (o.state = .home → moveAllowed s id h = true → h.tier = .near → h.pool = false → s.mask.contains h.rill = false →
          refused stRillNotInMask) ∧
        (o.state = .home → moveAllowed s id h = true → (h.tier = .near → h.pool = false → s.mask.contains h.rill = true) →
          (placeIn s h o.size = none → refused stNoSpace) ∧
          (∀ b, placeIn s h o.size = some b → t.mbx.busy = true ∧ t.mbx.ctag = a.ctag ∧ t.mbx.running = some (.move id) ∧
            objOf t id = ({ o with state := .moving, move := some ⟨{ h with loc := b }, true, false⟩ } : Obj) ∧
            (∀ k, k ≠ id → objOf t k = objOf s k) ∧
            (∃ ch d, ch < 16 ∧ (∀ k, k < 16 → (smGet [] s.dmaQ ch).length ≤ (smGet [] s.dmaQ k).length) ∧
              d.obj = some id ∧ d.len = min 0xFFFFFFC0 (alignUp 64 o.size) ∧ d.more = alignUp 64 o.size - 0xFFFFFFC0 ∧ d.srcsp = spaceOf o.home ∧ d.dstsp = spaceOf h ∧
              d.src = o.home.loc.toNat ∧ d.dst = b.toNat ∧ d.dtag = s.dmaTag ∧ d.fromHost = true ∧ d.sigen = bitAt (argOf s a 2) 14 ∧
              (d.sigen = true → d.weir = fld (argOf s a 2) 0 14 ∧ d.tenant = fld (argOf s a 2) 16 6 ∧ d.count = argOf s a 3) ∧
              (64 ≤ (smGet [] s.dmaQ ch).length → t.dmaWait = s.dmaWait ++ [d] ∧ t.dmaQ = s.dmaQ) ∧
              ((smGet [] s.dmaQ ch).length < 64 → t.dmaWait = s.dmaWait ∧ (∀ k, k ≠ ch → smGet [] t.dmaQ k = smGet [] s.dmaQ k) ∧
                (smGet [] t.dmaQ ch).map (fun x => { x with started := false, status := 0 }) =
                  (smGet [] s.dmaQ ch ++ [d]).map fun x => { x with started := false, status := 0 })) ∧
            t = { s with
              mbx := t.mbx, objs := t.objs, dmaQ := t.dmaQ, dmaWait := t.dmaWait, dmaTag := t.dmaTag, memTags := t.memTags,
              memRest := t.memRest, conTags := t.conTags, conRest := t.conRest, out := t.out }))) ∧
      (dest = none → o.state ≠ .free → refused stNoSpace))) ∧
  (∀ (s : State) (a : MbxArgs), Alive s → MailboxFree s →
    let base := ((argOf64 s a 0).toNat + 2 ^ 20) / 2 ^ 21 * 2 ^ 21
    let len := max (2 ^ 21) (((argOf64 s a 2).toNat + 2 ^ 20) / 2 ^ 21 * 2 ^ 21)
    ∃ t, exec (.slowGrant a) s = .next t ∧ t = { s with slow := t.slow, mbx := t.mbx, gen := t.gen } ∧
      ((∀ r, r < 16 → (smGet (0, 0) s.slow r).2 ≠ 0) → Answered t a.ctag stMBusy ∧ t.slow = s.slow) ∧
      (∀ r, r < 16 → (smGet (0, 0) s.slow r).2 = 0 → (∀ i, i < r → (smGet (0, 0) s.slow i).2 ≠ 0) →
        (2 ^ 42 < base + len → Answered t a.ctag stOutOfRange ∧ t.slow = s.slow) ∧
        (base + len ≤ 2 ^ 42 → inSlow s base len = true → Answered t a.ctag stRegionConflict ∧ t.slow = s.slow) ∧
        (base + len ≤ 2 ^ 42 → inSlow s base len = false → Answered t a.ctag 0 ∧ resultReg t 0 = BitVec.ofNat 32 r ∧
          smGet (0, 0) t.slow r = (base, len + 1) ∧ ∀ i, i ≠ r → smGet (0, 0) t.slow i = smGet (0, 0) s.slow i))) ∧
  (∀ (s : State) (a : MbxArgs), Alive s → MailboxFree s →
    let r := fld (argOf s a 0) 0 4
    ∃ t, exec (.slowRelease a) s = .next t ∧ t = { s with slow := t.slow, mbx := t.mbx, gen := t.gen } ∧
      ((smGet (0, 0) s.slow r).2 = 0 → Answered t a.ctag stOutOfRange ∧ t.slow = s.slow) ∧
      ((smGet (0, 0) s.slow r).2 ≠ 0 →
        ((∃ x ∈ s.objs, ∃ h ∈ homesOf x.2, h.tier = .slow ∧ h.rill = r) → Answered t a.ctag stRegionConflict ∧ t.slow = s.slow) ∧
        ((∀ x ∈ s.objs, ∀ h ∈ homesOf x.2, h.tier = .slow → h.rill ≠ r) → Answered t a.ctag 0 ∧
          (smGet (0, 0) t.slow r).2 = 0 ∧ ∀ i, i ≠ r → smGet (0, 0) t.slow i = smGet (0, 0) s.slow i)))

/-- R283: P and Q rebuild any one or any two missing data shards. -/
def Obligations.ParityRebuilds : Prop :=
    ∀ (len : Nat) (data : List (List Byte)) (p q : List Byte), data.length ≤ 64 → (∀ d ∈ data, d.length = len) → p.length = len →
    q.length = len →
    (∀ i, i < len → p.getD i 0 = (data.map fun d => d.getD i 0).foldl (· ^^^ ·) 0) →
    (∀ i, i < len → q.getD i 0 = (data.zipIdx.map fun d => gfMul (gfPow d.2) (d.1.getD i 0)).foldl (· ^^^ ·) 0) →
    ∀ (broken : List (List Byte)) (a b : Nat), broken.length = data.length → a < data.length → b < data.length → a ≠ b →
      (∀ j, j ≠ a → j ≠ b → broken[j]? = data[j]?) →
      rebuildPQ len broken a b p q = (data.getD a [], data.getD b []) ∧
      (broken[b]? = data[b]? → rebuildP len broken a p = data.getD a [] ∧ rebuildQ len broken a q = data.getD a [])

/-- R151, R269, R279, R283 to R285, R287 to R289, R348, R378: a load is accepted only in its lifecycle states, with the loader and the other table
free, a far tier, the
image in the window and room for its payload; at acceptance the active table is copied and nothing active changes.  A load that fails leaves the
active set, is reported with every shard found failed and discards its build, once the objects of it that move have ended their moves; one that
passes every check fills the other table, and is loaded once its objects have arrived at their homes.  A commit waits for the switch, which
needs no sag and no admission, makes the other table the active set under the next epoch, with the masks of the entry sets that it brought,
and ends the streams of tenants short of Rills.
Log entries 30 and 48 to 53 name the readings. -/
def Obligations.BaleLoads : Prop :=
    (∀ (s : State) (a : MbxArgs) (m : BaleImage), Alive s → MailboxFree s →
    let base := (argOf64 s a 0).toNat
    let ok : Prop := (s.fuses.lc = 1 ∨ s.fuses.lc = 2) ∧ advancing s = false ∧ s.load.image = none ∧
      (∀ x ∈ openStreams s, x.2.tab = s.actB) ∧ s.boot.farBad = false ∧
      base + (match usedHdr s m with | some h => imageLen (baleHdr h) | none => 8192) ≤ 2 ^ 42 ∧
      ∀ h, usedHdr s m = some h → heapUse s + granules (baleHdr h).paylen ≤ storeSize s { tier := .far }
    let room (h : List Byte) : Option W64 :=
      placeIn { freeOrphans (setOtherTab s (actTab s)) with load := {} } { tier := .far } (stagingLen (baleHdr h))
    (ok → ∃ t, exec (.baleLoad a m) s = .next t ∧ Answered t a.ctag 0 ∧ t.actB = s.actB ∧ actTab t = actTab s ∧
      (∀ h, usedHdr s m = some h → room h = none → otherTab t = {} ∧ t.load.state = .failed ∧ t.load.status = stDoesNotFit ∧
        t.load.image = none ∧ t.gen.intstat.getLsbD 0 = true) ∧
      (∀ h b, usedHdr s m = some h → room h = some b → t.load.stageAt = b.toNat ∧ t.load.stageLen = stagingLen (baleHdr h)) ∧
      ((∀ h, usedHdr s m = some h → room h ≠ none) → otherTab t = actTab s ∧ t.load.state = .loading ∧ t.load.image = some m ∧
        t.load.base = base ∧ t.load.present % 2 ^ 66 = (argOf s a 2).toNat + 2 ^ 32 * (argOf s a 3).toNat + 2 ^ 64 * ((argOf s a 4).toNat % 4) ∧
        t.load.commit = false) ∧
      t = { s with
        load := t.load, tabA := t.tabA, tabB := t.tabB, objs := t.objs, ests := t.ests, plots := t.plots, mbx := t.mbx, gen := t.gen,
        memTags := t.memTags, memRest := t.memRest, conTags := t.conTags, conRest := t.conRest, out := t.out }) ∧
    (¬ok → ∃ t, exec (.baleLoad a m) s = .next t ∧ t = { s with mbx := t.mbx, gen := t.gen } ∧
      (¬(s.fuses.lc = 1 ∨ s.fuses.lc = 2) → Answered t a.ctag stNotAvailable) ∧
      ((s.fuses.lc = 1 ∨ s.fuses.lc = 2) → advancing s = false → s.load.image ≠ none → Answered t a.ctag stBBusy) ∧
      ∃ st, Answered t a.ctag st ∧ st ≠ 0)) ∧
  (∀ (s : State) (m : BaleImage), Alive s → s.load.state = .loading → s.load.image = some m →
    let gone : List Nat := match usedHdr s m with
      | some h => (List.range ((baleHdr h).k + 2)).filter (shardMissing s)
      | none => s.load.missing
    let reported (f : List Nat) : List Nat := (List.range 66).filter fun i => f.contains i || gone.contains i || s.load.failed.contains i
    (s.load.moving ≠ [] →
      ((∃ o ∈ s.load.moving, (objOf s o).state = .moving) → exec .baleLoadEnd s = .next s) ∧
      (s.load.ending = none → (∀ o ∈ s.load.moving, (objOf s o).state = .home ∧ s.load.arrived.contains o = true) →
        ∃ t, exec .baleLoadEnd s = .next t ∧ t.load = { s.load with state := .loaded, status := 0, moving := [], arrived := [] } ∧
          t.gen.intstat.getLsbD 0 = true ∧ t = { s with load := t.load, gen := t.gen }) ∧
      (∀ st g, (∀ o ∈ s.load.moving, (objOf s o).state ≠ .moving) →
          (s.load.ending = some (st, g) ∨ s.load.ending = none ∧ st = stUncorrectable ∧ g = reported [] ∧
            ∃ o ∈ s.load.moving, (objOf s o).state = .lost ∨ s.load.arrived.contains o = false) →
        ∃ t, exec .baleLoadEnd s = .next t ∧ t.load = { state := .failed, status := st, failed := g } ∧
          otherTab t = {} ∧ actTab t = actTab s ∧ t.gen.intstat.getLsbD 0 = true)) ∧
    (s.load.moving = [] → s.load.ending = none →
    (∀ st, ((usedHdr s m = none ∧ st = stNoGoodHeader) ∨ (∃ h, usedHdr s m = some h ∧
        ((s.boot.baleFmts.contains (baleHdr h).format = false ∧ st = stFormatRefused) ∨
          (s.boot.baleFmts.contains (baleHdr h).format = true ∧ notNewer s (baleHdr h) = true ∧ st = stNotNewer)))) →
      ∃ t, exec .baleLoadEnd s = .next t ∧ t.load = { state := .failed, status := st, failed := reported [] } ∧ otherTab t = {} ∧
        actTab t = actTab s ∧ t.gen.intstat.getLsbD 0 = true ∧ t.mbx = s.mbx ∧ t.streams = s.streams ∧
        (s.load.stageLen ≠ 0 → t.fen = s.fen ∧ t.far = s.far)) ∧
    (∀ h, usedHdr s m = some h → s.boot.baleFmts.contains (baleHdr h).format = true → notNewer s (baleHdr h) = false →
      unaskedData s (baleHdr h) = [] →
      (s.load.staged = false → exec .baleLoadEnd s = .next (readStage s)) ∧
      (s.load.staged = true → loadWaits s = true → exec .baleLoadEnd s = .next s) ∧
      (loadWaits s = false →
        (∀ i, repair s h m = .need i → exec .baleLoadEnd s = .next (readShard { s with load := { s.load with
          failed := (List.range ((baleHdr h).k + 2)).filter fun j => s.load.asked.contains j && shardBad s h m j } } (baleHdr h) i)) ∧
        (∀ f, repair s h m = .lost f → ∃ t, exec .baleLoadEnd s = .next t ∧ t.load.state = .failed ∧ t.load.status = stShardsLost ∧
          t.load.failed = reported f ∧ actTab t = actTab s ∧ t.gen.intstat.getLsbD 0 = true ∧
          t.log = (note s stShardsLost skBale 0 ([(baleHdr h).id.toNat % 2 ^ 32, (baleHdr h).id.toNat / 2 ^ 32,
            (baleHdr h).seq.toNat] ++ shardWords f)).log) ∧
        (∀ data f st, repair s h m = .good data f → buildSet s m h data = .error st → ∃ t, exec .baleLoadEnd s = .next t ∧
          t.load.state = .failed ∧ t.load.status = st ∧ t.load.failed = reported f ∧ otherTab t = {} ∧ actTab t = actTab s) ∧
        (∀ data f u, repair s h m = .good data f → buildSet s m h data = .ok u → ∃ t, exec .baleLoadEnd s = .next t ∧
          t.load.failed = f ++ [(baleHdr h).k, (baleHdr h).k + 1].filter (fun i => shardMissing s i && !f.contains i) ∧
          t.load.image = some m ∧ actTab t = actTab s ∧ otherTab t = otherTab u ∧ t.streams = s.streams ∧
          t.setEpoch = s.setEpoch ∧ (∀ o, 65536 ≤ o → (objOf s o).state ≠ .free → objOf t o = objOf s o) ∧
          (u.load.moving = [] → t.load.state = .loaded ∧ t.load.status = 0 ∧ t.gen.intstat.getLsbD 0 = true) ∧
          (u.load.moving ≠ [] → t.load.state = .loading ∧ t = { u with load := { u.load with failed := t.load.failed } } ∧
            ∀ o ∈ u.load.moving, (objOf t o).state = .moving)))))) ∧
  (∀ (s : State) (a : MbxArgs), Alive s → MailboxFree s →
    (∃ t, exec (.baleCommit a) s = .next t ∧
      (s.load.state = .loaded → s.load.image ≠ none → Answered t a.ctag 0 ∧ t.load.commit = true ∧ t.load.deferred = s.hay.sag) ∧
      ((s.load.state ≠ .loaded ∨ s.load.image = none) → Answered t a.ctag stNothingToCommit ∧ t.load = s.load) ∧
      t = { s with load := t.load, mbx := t.mbx, gen := t.gen } ∧
      { t.load with commit := s.load.commit, deferred := s.load.deferred } = s.load) ∧
    (∃ t, exec (.baleAbort a) s = .next t ∧ Answered t a.ctag 0 ∧ actTab t = actTab s ∧ t.actB = s.actB ∧ t.streams = s.streams ∧
      (∀ m g, s.load.image = some m → g = (List.range 66).filter (fun i => (match usedHdr s m with
            | some h => (List.range ((baleHdr h).k + 2)).filter (shardMissing s)
            | none => s.load.missing).contains i || s.load.failed.contains i) →
        ((∀ o ∈ s.load.moving, (objOf s o).state ≠ .moving) → otherTab t = {} ∧ t.load = { state := .failed, status := stAborted, failed := g }) ∧
        ((∃ o ∈ s.load.moving, (objOf s o).state = .moving) → s.load.ending = none → t.load = { s.load with ending := some (stAborted, g) } ∧
          t = { s with load := t.load, mbx := t.mbx, gen := t.gen })) ∧
      (s.load.image = none → t = { s with mbx := t.mbx, gen := t.gen })) ∧
    (∃ t, exec (.baleStatus a) s = .next t ∧ Answered t a.ctag 0 ∧
      resultReg t 0 = (match s.load.state with | .idle => 0 | .loading => 1 | .loaded => 2 | .failed => 3) ∧
      resultReg t 1 = s.load.status.setWidth 32 ∧
      (s.load.failed.Nodup → ∀ i, i < 66 → (resultReg t (2 + i / 32)).getLsbD (i % 32) = s.load.failed.contains i) ∧
      t = { s with mbx := t.mbx, gen := t.gen })) ∧
  (∀ (s : State), Alive s →
    ((s.load.commit = false ∨ s.hay.sag = true ∨ s.adms ≠ []) → exec .setEpochSwitch s = .next s) ∧
    (s.load.commit = true → s.hay.sag = false → s.adms = [] → ∃ t, exec .setEpochSwitch s = .next t ∧ t.actB = !s.actB ∧
      { actTab t with masks := (otherTab s).masks } = otherTab s ∧ otherTab t = actTab s ∧
      (∀ k, smGet 0 (actTab t).masks k = smGet 0 (if (otherTab s).fens.any (fun x => decide (x.1 = k) && decide (smGet 0 (actTab s).fens k ≠ x.2))
        then (otherTab s).masks else (actTab s).masks) k) ∧ t.setEpoch = s.setEpoch + 1 ∧ t.setAct = true ∧ t.load.image = none ∧
      t.load.commit = false ∧ t.load.state = s.load.state ∧ t.fen = s.fen ∧
      (∀ c, (streamOf s c).inUse = true → (recOfStream s (streamOf s c)).minRills ≠ 0 →
        rillsOn s < (recOfStream s (streamOf s c)).minRills → (streamOf t c).inUse = false) ∧
      ((∀ x ∈ openStreams s, (recOfStream s x.2).minRills ≤ rillsOn s) → t.streams = s.streams ∧
        (∀ x ∈ (otherTab s).recs, ∀ o ∈ recClasses x.2, (∃ y ∈ s.ests, y.1 = o) ∨
          smGet [] t.ests o = freshTable ((classRole s o).getD 0) (classDesc s o)) ∧
        (∀ o, objOf t o = objOf s o ∨ objOf t o = {} ∧ (usersOf s o = 0 ∧ (tabObjs s.tabA).contains o = false ∧ (tabObjs s.tabB).contains o = false ∨
            ∃ k, (objOf s o).content = .estTable k) ∨
          (objOf s o).state = .free ∧ ∃ k, (objOf t o).content = .estTable k ∧ (objOf t o).kind = .pinned ∧
            (∃ y ∈ s.load.tables, y.1 = k ∧ (objOf t o).home = { tier := .far, loc := BitVec.ofNat 64 y.2.1 }) ∧ (objOf t o).size = tableSize (freshTable ((classRole s k).getD 0) (classDesc s k))) ∧
        t = { s with
          actB := t.actB, setAct := t.setAct, setEpoch := t.setEpoch, load := t.load, objs := t.objs, ests := t.ests,
          plots := t.plots })))

/-! ## Fabric ports (chapter 13) -/

/-- R47, R50, R52, R62, R68, R70, R244, R359 to R362: a Pass flit leaves on the route of its engine, or waits for a class-0 buffer, unfenced
without credit or behind another, fenced where it must wait; it is logged without a route, or counted when its body is no class-0 payload; a
class-2 flit leaves its port, and returns
its credit, when its message so far cuts through or can not be carried, and is kept otherwise; a message that another cuts off is discarded; at
the end a poisoned message is
discarded, one that no link frame carries too, each with what was forwarded of it stomped, one of which nothing was kept leaves as one link
frame, and any other waits for buffers of
the pool in the Ford's lane; a flit of a reserved kind only counts, and so does a poisoned message of one flit.
That a message leaves as one frame at its end is the model's choice (log entry 22), and so is what a stomped frame carries (log entry 87). -/
def Obligations.FabricMessages : Prop :=
    (∀ (s : State) (fb : Fin 16) (tenant eng : BitVec 6) (csf : W16) (fence : Bool) (payload : List Byte) (x : Frame),
    OpTaken s fb →
    x = { cls := 0, fence := fence, src := s.cfg.memberid, dst := eng, tenant := tenant, epoch := s.view.epoch, csf := csf,
          payload := payload, origin := .agent fb } →
    (∀ q pass, payload.length ≤ 40 → eng ≠ s.cfg.memberid → routeTo s eng.toNat = some q →
      pass = (c0LaneFree s (64 + fb) && (if fence then fencePasses s eng.toNat x else linkClass0Free s q)) →
      ∃ t, exec (.fabricPass fb tenant eng csf fence payload) s = .next t ∧
        (pass = true → (portOf t q).txq = (portOf s q).txq ++ [x] ∧ (∀ j, j ≠ q → portOf t j = portOf s j) ∧ t.c0wait = s.c0wait ∧
          t.out = s.out ++ [.fabricCredit fb 0 1]) ∧
        (pass = false → t.ports = s.ports ∧ t.out = s.out ∧ t.c0wait = (waitC0 s
          { egress := if fence then 81 else q, ingress := 64 + fb, frame := x, flit := { fclass := 0, fkind := 1 } }).c0wait) ∧
        t = { s with ports := t.ports, c0wait := t.c0wait, tel := t.tel, out := t.out }) ∧
    (payload.length ≤ 40 → eng = s.cfg.memberid ∨ routeTo s eng.toNat = none →
      ∃ t, exec (.fabricPass fb tenant eng csf fence payload) s = .next t ∧
        t.log = (note s stNoRoute skFabric fb [fb, eng.toNat]).log ∧
        t = { s with log := t.log, gen := t.gen, tel := t.tel, mgmt := t.mgmt, out := t.out }) ∧
    (40 < payload.length → ∃ t, exec (.fabricPass fb tenant eng csf fence payload) s = .next t ∧
      t.out = s.out ++ [.fabricCredit fb 0 1] ∧ smGet 0 t.tel (telFab fb 6) = sat32 (smGet 0 s.tel (telFab fb 6)) 1 ∧
      t = { s with tel := t.tel, out := t.out })) ∧
  (∀ (s : State) (f : Nat) (d : OpenMsg), dropMessage s f none = s ∧
    smGet 0 (dropMessage s f (some d)).tel (telFab f 6) = sat32 (smGet 0 s.tel (telFab f 6)) 1 ∧
    (dropMessage s f (some d)).out = s.out ++ (if d.kept = 0 then [] else [.fabricCredit f 2 d.kept]) ∧
    (∀ q, routeTo s d.eng.toNat = some q → (portOf (dropMessage s f (some d)) q).txq = (portOf s q).txq ++
      (if 0 < d.sent then [{ dataFrame s f d with payload := d.body.take d.sent, stomp := true }] else [])) ∧
    dropMessage s f (some d) = { s with
      ports := (dropMessage s f (some d)).ports, tel := (dropMessage s f (some d)).tel, out := (dropMessage s f (some d)).out }) ∧
  (∀ (s u : State) (fb : Fin 16) (fl : DataFlit) (m0 m : OpenMsg), OpTaken s fb →
    (fl.som = true ∧ m0 = { eng := fl.eng, dfb := fl.dfb, body := [] } ∧ u = dropMessage s fb (fbOf s fb).open2) ∨
      (fl.som = false ∧ (fbOf s fb).open2 = some m0 ∧ u = s) →
    m = { m0 with body := m0.body ++ fl.body, poison := m0.poison || fl.poison } →
    let x : Frame := {
      cls := 2, src := s.cfg.memberid, dst := m.eng, epoch := s.view.epoch, csf := m.dfb.setWidth 16, payload := m.body, origin := .agent fb }
    ∃ t, exec (.fabricData fb fl) s = .next t ∧ (∀ j, j ≠ fb.val → fbOf t j = fbOf s j) ∧
      smGet 0 t.tel (telFab fb 1) = sat32 (smGet 0 s.tel (telFab fb 1)) 1 ∧
      t = { s with fbs := t.fbs, ports := t.ports, tel := t.tel, out := t.out } ∧
      (fl.eom = false → t.ports = u.ports) ∧
      (fl.eom = true → m.poison = true ∨ cannotCarry s m = true →
        (m0.sent = 0 ∨ routeTo s m.eng.toNat = none → t.ports = u.ports) ∧
        (∀ q, 0 < m0.sent → routeTo s m.eng.toNat = some q → (∀ j, j ≠ q → portOf t j = portOf u j) ∧
          (portOf t q).txq = (portOf u q).txq ++ [{ x with payload := m.body.take m0.sent, stomp := true }])) ∧
      (cannotCarry s m = true → t.out = u.out ++ [.fabricCredit fb 2 (m0.kept + 1)] ∧
        fbOf t fb = { fbOf s fb with open2 := if fl.eom then none else some { m with kept := 0 } }) ∧
      (cannotCarry s m = false → m0.kept = 0 → messagePasses u fb m = true → t.out = u.out ++ [.fabricCredit fb 2 1] ∧
        fbOf t fb = { fbOf s fb with
          open2 := if fl.eom then none else some { m with sent := if m.poison then m.sent else m.body.length } } ∧
        (fl.eom = true → m.poison = false → ∃ q, routeTo s m.eng.toNat = some q ∧ (∀ j, j ≠ q → portOf t j = portOf u j) ∧
          (portOf t q).txq = (portOf u q).txq ++ [x])) ∧
      (cannotCarry s m = false → m0.kept ≠ 0 ∨ messagePasses u fb m = false →
        (fl.eom = false → t.out = u.out ∧ fbOf t fb = { fbOf s fb with open2 := some { m with kept := m0.kept + 1 } }) ∧
        (fl.eom = true → m.poison = true → t.out = u.out ++ [.fabricCredit fb 2 (m0.kept + 1)] ∧
          fbOf t fb = { fbOf s fb with open2 := none }) ∧
        (fl.eom = true → m.poison = false → t.ports = u.ports ∧ t.out = u.out ∧ fbOf t fb = { fbOf s fb with
          open2 := none,
          rxw := fordFill 16 ((fbOf s fb).rxw ++ [{ frame := x, pass := true, flits := m0.kept + 1 }]) })) ∧
      (fl.eom = true → m.poison = true → smGet 0 t.tel (telFab fb 4) = sat32 (smGet 0 s.tel (telFab fb 4)) 1) ∧
      (fl.eom = true → m.poison = false → cannotCarry s m = true →
        smGet 0 t.tel (telFab fb 6) = sat32 (smGet 0 u.tel (telFab fb 6)) 1)) ∧
  (∀ (s : State) (fb : Fin 16) (bad : BadFlit), OpTaken s fb →
    (bad = .noSom 2 → (fbOf s fb).open2 ≠ none → exec (.fabricReservedFlit fb bad) s = .next s) ∧
    ((bad = .noSom 2 → (fbOf s fb).open2 = none) → ∃ t, exec (.fabricReservedFlit fb bad) s = .next t ∧
      smGet 0 t.tel (telFab fb 1) = sat32 (smGet 0 s.tel (telFab fb 1)) 1 ∧
      (∀ k, (k = 4 ∧ ∃ c, bad = .poisoned c) ∨ (k = 6 ∧ ∀ c, bad ≠ .poisoned c) →
        smGet 0 t.tel (telFab fb k) = sat32 (smGet 0 s.tel (telFab fb k)) 1) ∧
      (∀ c, bad = .reservedKind c ∨ bad = .noSom c ∨ bad = .poisoned c → t.out = s.out ++ [.fabricCredit fb c 1]) ∧
      (bad = .reservedClass → t.out = s.out) ∧ t = { s with tel := t.tel, out := t.out }))

/-- R54, R107, R359, R362, R363: returned credit sends what waits until nothing more can be sent, loses nothing, and the eighth class-0 credit within
10 µs of the release makes the port active; a port that gets fewer, or that a flit with a bad header reaches, is held idle, logged once,
and every stream routed to it ends.
Log entries 21 and 25 name the readings.
R341, R357, R363: a held port is reset 10 ms after it was held and every 100 ms after that; a reset takes the port's flits and credits, and
signals that waited behind them go on; the
release returns the engine's credits; PORT_RESET resets a link port into Down at once, and completes for a fabric port when its reset
is released.
Log entries 21 and 24 name the readings. -/
def Obligations.FabricHoldAndReset : Prop :=
  (∀ (s : State) (fb : Fin 16), OpTaken s fb →
    (∀ (cls : BitVec 2) (cnt : Byte), cls ≠ 3 → ∃ t, exec (.fabricCreditReturn fb cls cnt) s = .next t ∧ SendsNone s t ∧
      fbBudget (fbOf t fb) = (0, 0, 0) ∧
      ((fbOf s fb).q0 = [] → (fbOf s fb).q1 = [] → (fbOf s fb).q2 = [] →
        crGet (fbOf t fb).txCred cls.toNat = crGet (fbOf s fb).txCred cls.toNat + cnt.toNat ∧ t.out.length ≤ s.out.length + 1) ∧
      ((fbOf t fb).active = ((fbOf s fb).active || (decide (8 ≤ (fbOf t fb).got0) && decide (s.now ≤ (fbOf s fb).relAt + 10000)))) ∧
      (fbOf t fb).got0 = (fbOf s fb).got0 + (if cls = 0 then cnt.toNat else 0) ∧
      (∀ j, j ≠ fb.val → fbOf t j = fbOf s j) ∧
      t = { s with fbs := t.fbs, poolUsed := t.poolUsed, log := t.log, gen := t.gen, tel := t.tel, mgmt := t.mgmt, out := t.out }) ∧
    (∀ c, c = .fabricFhcrcFail fb ∨ (c = .fabricCreditTimeout fb ∧ fbInUse s fb = true ∧ (fbOf s fb).active = false ∧
        (fbOf s fb).relAt + 10000 ≤ s.now) →
      ∃ t, exec c s = .next t ∧ (fbOf t fb).held = true ∧ (fbOf t fb).active = false ∧ (fbOf t fb).idleLogged = true ∧
        (∀ k, (streamOf t k).inUse = true → (streamOf t k).fbport ≠ fb.val) ∧
        (∀ k, (streamOf s k).inUse = true → (streamOf s k).fbport ≠ fb.val → (streamOf t k).inUse = true) ∧
        ((fbOf s fb).idleLogged = false → (∀ k, (streamOf s k).inUse = true → (streamOf s k).fbport ≠ fb.val) →
          (fbOf t fb).heldAt = s.now ∧ t.log = (note s stFabricIdle skFabric fb [fb]).log))) ∧
  ((∀ (s : State) (fb : Fin 16), Alive s → (fbOf s fb).held = true → (fbOf s fb).inReset = false →
    (if (fbOf s fb).lastRst = 0 then (fbOf s fb).heldAt + 10000000 else (fbOf s fb).lastRst + 100000000) ≤ s.now →
    ∃ t, exec (.fabricPortResetTimer fb) s = .next t ∧
      fbOf t fb = { held := true, heldAt := (fbOf s fb).heldAt, idleLogged := (fbOf s fb).idleLogged, lastRst := s.now,
                    pulseAt := some s.now } ∧
      t.streams = s.streams ∧ (∀ w ∈ t.c0wait, w.egress ≠ 64 + fb.val ∧ (w.ingress = 64 + fb.val → w.buffered = true)) ∧
      (∀ i ∈ (fbOf s fb).rxw, i.flits = 0 → ∀ p, routeTo s i.frame.dst.toNat = some p → smGet [] s.routeHold i.frame.dst.toNat = [] →
        oldRouteClear s i.frame.dst.toNat = true → i.frame ∈ (portOf t p).txq) ∧
      ((∀ i ∈ (fbOf s fb).rxw, i.flits ≠ 0) → (∀ j, j ≠ fb.val → fbOf t j = fbOf s j) ∧ t.log = s.log)) ∧
  (∀ (s : State) (a : MbxArgs), Alive s → MailboxFree s →
    ((argOf s a 0).getLsbD 8 = true → fbInUse s (fld (argOf s a 0) 0 4) = true → ∃ t, exec (.portReset a) s = .next t ∧
      t.mbx.busy = true ∧ t.mbx.ctag = a.ctag ∧ t.mbx.running = some (.portReset true (fld (argOf s a 0) 0 4)) ∧
      (fbOf t (fld (argOf s a 0) 0 4)).inReset = true ∧ (fbOf t (fld (argOf s a 0) 0 4)).pulseAt = some s.now ∧
      (fbOf t (fld (argOf s a 0) 0 4)).q0 = [] ∧ (fbOf t (fld (argOf s a 0) 0 4)).active = false) ∧
    ((argOf s a 0).getLsbD 8 = false → ∃ t, exec (.portReset a) s = .next t ∧ Answered t a.ctag 0 ∧
      (portOf t (fld (argOf s a 0) 0 6)).state = .down ∧ (portOf t (fld (argOf s a 0) 0 6)).phyRst = true ∧
      (keepsRoute s (fld (argOf s a 0) 0 6) = true →
        (portOf t (fld (argOf s a 0) 0 6)).txq = [] ∧ (portOf t (fld (argOf s a 0) 0 6)).replay = []))) ∧
  (∀ (s : State) (n : Nat) (at0 : Nat), Alive s → at0 + 1000 ≤ s.now →
    ((fbOf s n).pulseAt = some at0 → ∃ t l, exec (.portResetRelease true n) s = .next t ∧
      fbOf t n = { fbOf s n with inReset := false, held := false, pulseAt := none, relAt := s.now, got0 := 0 } ∧
      t.out = s.out ++ l ∧ (∀ k, k < 3 → (l.map fun o => match o with
        | .fabricCredit f c cnt => if f = n ∧ c.toNat = k then cnt else 0
        | _ => 0).sum = crGet fabricAdvertised k) ∧
      (s.mbx.busy = true → s.mbx.running = some (.portReset true n) → Finished s t 0) ∧
      t = { s with fbs := t.fbs, mbx := t.mbx, gen := t.gen, out := t.out }) ∧
    ((portOf s n).pulseAt = some at0 → ∃ t, exec (.portResetRelease false n) s = .next t ∧
      portOf t n = { portOf s n with pulseAt := none, phyRst := decide (roleOf s n = .off) } ∧
      (∀ j, j ≠ n → portOf t j = portOf s j) ∧ t = { s with ports := t.ports })))

/-! ## Flash and event log (chapter 11) -/

/-- R303 to R305, R307: BANK_WRITE is answered with the target bank; a check that fails ends the write with its status before anything is erased, and
otherwise the write begins with its first block; a second write is Busy; BANK_STATUS tells how it stands.
The order of the checks and the arguments of the record are those of log entries 42, 60 and 64. -/
def Obligations.BankWriteStarts : Prop :=
    ∀ (s : State) (a : MbxArgs), Alive s → MailboxFree s →
    (∀ image pair len img body trailer st, flashOk s = true → pair = decide (2 ≤ fld (argOf s a 0) 0 2) → len = (argOf s a 3).toNat →
      img = image.take len → body = img.take (img.length - 4096) → trailer = img.drop (img.length - 4096) →
      withinSlow s (argOf64 s a 1).toNat len = true → st = imageCheck s pair trailer (hayDesc img) (rillDesc img) →
      (s.bankWr ≠ none → ∃ t, exec (.bankWrite a image) s = .next t ∧ Answered t a.ctag stHBusy ∧ t.bankWr = s.bankWr) ∧
      (s.bankWr = none → ∃ t, exec (.bankWrite a image) s = .next t ∧ Answered t a.ctag 0 ∧
        resultReg t 0 = BitVec.ofNat 32 (b2n (targetBank s pair)) ∧ t.bankTgt = targetBank s pair ∧ t.flash = s.flash ∧
        (st ≠ 0 → t.bankWr = none ∧ t.bankSt = 3 ∧ t.bankErr = st ∧ t.flashCmd = s.flashCmd ∧
          t.log = (note s st skFlash (b2n (targetBank s pair)) [b2n (targetBank s pair), 0, 0, b2n (targetBank s pair), 0, (newSeq s pair).toNat]).log) ∧
        (st = 0 → img.length - 4096 ≤ bodySize s pair → t.bankSt = 1 ∧ t.bankWr = some {
            pair := pair, body := body, trailer := trailer, len := img.length - 4096, target := targetBank s pair,
            seq := newSeq s pair, stage := .erase 0, pldm := false } ∧
          (s.flashCmd = none → s.logWin.fetching = false → logWork s = none → s.flashSusp = none → s.hay.sag = false →
            t.flashCmd = some (.eraseBank (bankAt s pair (targetBank s pair))) ∧
            bankValid t pair (targetBank s pair) = false)))) ∧
    (∃ t, exec (.bankStatus a) s = .next t ∧ Answered t a.ctag 0 ∧
      resultReg t 0 = (if s.bankWr = none then BitVec.ofNat 32 s.bankSt else if s.hay.sag then 2 else 1) ∧
      resultReg t 1 = s.bankErr.setWidth 32 ∧ resultReg t 2 = BitVec.ofNat 32 (b2n s.bankTgt) ∧
      t = { s with mbx := t.mbx, gen := { s.gen with intstat := t.gen.intstat } })

/-- R305 to R307, R315, R318, R323: a command that finishes has its effect on its own range of flash and on no other byte, and the work goes on to
its next stage; a page torn by a low rail starts the write over from its first erase; the trailer ends the write; a torn log slot is
passed over; a command times out once it has run for 110 % of the maximum time that SFDP gives, and one of a bank write then ends the
write.  A piece of a PLDM body that is due is asked for at the end of a command.
The bytes of a torn page are free (log entries 4 and 42). -/
def Obligations.FlashCommandsFinish : Prop :=
    ∀ (s : State), Alive s →
    let next (w : BankWrite) (st : BankStage) : BankWrite :=
      { w with stage := st, want := w.want || pieceDue s { w with stage := st } }
    (∀ a w b r, s.flashCmd = some (.eraseBank a) → s.bankWr = some w → w.stage = .erase b →
      ∃ t w', exec (.flashCommandComplete r) s = .next t ∧ t.bankWr = some w' ∧
        w' = next w (if 65536 * (b + 1) < bankSize s w.pair then .erase (b + 1) else if w.len = 0 then .verify else .page 0) ∧
        (∀ x, memGet 0xFF t.flash x = if a ≤ x ∧ x < a + 65536 then 0xFF else memGet 0xFF s.flash x) ∧
        (w'.want = w.want → t = { s with
          flash := t.flash, bankWr := t.bankWr, flashCmd := t.flashCmd, flashAt := t.flashAt, flashSusp := t.flashSusp, spoilt := t.spoilt })) ∧
    (∀ a d w n, s.flashCmd = some (.pageBank a d) → s.bankWr = some w → w.stage = .page n →
      (∃ t w', exec (.flashCommandComplete .good) s = .next t ∧ flashRead t a d.length = d ∧ t.bankWr = some w' ∧
        w' = next w (if 256 * (n + 1) < w.len then .page (n + 1) else .verify) ∧
        (∀ x, x < a ∨ a + d.length ≤ x → memGet 0xFF t.flash x = memGet 0xFF s.flash x) ∧
        (w'.want = w.want → t = { s with
          flash := t.flash, bankWr := t.bankWr, flashCmd := t.flashCmd, flashAt := t.flashAt, flashSusp := t.flashSusp, spoilt := t.spoilt })) ∧
      (∃ t, exec (.flashCommandComplete .railLow) s = .next t ∧ t.bankWr = some (next w (.erase 0)) ∧
        (∀ x, x < a ∨ a + d.length ≤ x → memGet 0xFF t.flash x = memGet 0xFF s.flash x))) ∧
    (∀ w, s.flashCmd = some .verifyBank → s.bankWr = some w → w.stage = .verify → ∃ t, exec (.flashCommandComplete .good) s = .next t ∧
      t.flash = s.flash ∧ (bodyVerifies s w = true → t.bankWr = some (next w .trailer)) ∧
      (bodyVerifies s w = false → t.bankWr = none ∧ t.bankErr = stImageCheck)) ∧
    (∀ a d w, s.flashCmd = some (.trailer a d) → s.bankWr = some w → w.stage = .trailer →
      ∃ t, exec (.flashCommandComplete .good) s = .next t ∧ flashRead t a d.length = d ∧ t.bankWr = none ∧ t.bankSt = 3 ∧
        t.spoilt.contains (w.pair, w.target) = false ∧ t.bankErr = (if bankValid t w.pair w.target then 0 else stImageCheck) ∧
        t.gen.intstat.getLsbD 0 = true ∧ ∀ x, x < a ∨ a + d.length ≤ x → memGet 0xFF t.flash x = memGet 0xFF s.flash x) ∧
    (∀ a d, s.flashCmd = some (.slotLog a d) → s.log.drops = 0 → (∀ w, s.bankWr = some w → pieceDue s w = false) →
      ∃ t, exec (.flashCommandComplete .good) s = .next t ∧
      flashRead t a d.length = d ∧ t.log.nextSlot = s.log.nextSlot + 1 ∧ t.log.nextSeq = s.log.nextSeq ∧
      (∀ k, (smGet {} t.log.ring k).written = ((smGet {} s.log.ring k).written || decide ((smGet {} s.log.ring k).lseq.toNat = leAt d 0 4))) ∧
      (∀ x, x < a ∨ a + d.length ≤ x → memGet 0xFF t.flash x = memGet 0xFF s.flash x)) ∧
    (∀ h d, s.flashCmd = some (.headerLog h d) → ∃ t, exec (.flashCommandComplete .good) s = .next t ∧
      flashRead t (logAt s h) d.length = d ∧ t.log.actHalf = h ∧ t.log.hseq = s.log.hseq + 1 ∧ t.log.nextSlot = 1 ∧
      t.log.otherErased = false) ∧
    (∀ c, s.flashCmd = some c → flashMax s c = none ∨ (∃ mx, flashMax s c = some mx ∧ 10 * (s.now - s.flashAt) < 11 * mx) →
      exec .flashTimeout s = .next s) ∧
    (∀ c w lo n mx, s.flashCmd = some c → c = .eraseBank lo ∧ n = 65536 ∧ mx = s.boot.sfdp.eraseMax ∨
        (∃ d, (c = .pageBank lo d ∨ c = .trailer lo d) ∧ n = d.length ∧ mx = s.boot.sfdp.programMax) → s.bankWr = some w →
        11 * mx ≤ 10 * (s.now - s.flashAt) →
      ∃ t, exec .flashTimeout s = .next t ∧ t.bankWr = none ∧ t.bankErr = stFlashTimeout ∧ t.spoilt = s.spoilt ∧
        (∀ x, x < lo ∨ lo + n ≤ x → memGet 0xFF t.flash x = memGet 0xFF s.flash x) ∧
        (w.pldm = false → t.log = (note s stFlashTimeout skFlash (b2n w.target) [b2n w.target, 0, 0, b2n w.target, 0, w.seq.toNat]).log)) ∧
    (∀ a d, s.flashCmd = some (.slotLog a d) → 11 * s.boot.sfdp.programMax ≤ 10 * (s.now - s.flashAt) → ∃ t, exec .flashTimeout s = .next t ∧ t.log.nextSlot = s.log.nextSlot + 1 ∧
      t.log.ring = (note s stFlashTimeout skFlash 0 []).log.ring ∧
      ∀ x, x < a ∨ a + d.length ≤ x → memGet 0xFF t.flash x = memGet 0xFF s.flash x)

/-! ## Management (chapter 11) -/

/-- R292, R311, R320, R322: MCTP control is answered once with the values of the endpoint, Set Endpoint ID assigns its ID, PLDM type 0 is answered, and
other message types are dropped; a sensor read answers with the reading of R293, for a thermal site with its state under the thresholds of
95 and 110 °C; nothing is answered while the core restarts.  Codes and formats of the DMTF specifications are PRESUMED (log entry 40).
That a row takes the oldest packet, and that PLDM type 0 and acknowledgements come in the row of MCTP_MESSAGE, is that of log entry 56. -/
def Obligations.ControlAndSensors : Prop :=
    ∀ (s : State), Up s →
    let v := s.mgmt.inbox.head?
    let got : State := { s with mgmt := { s.mgmt with inbox := s.mgmt.inbox.drop 1, via := v } }
    let answers (c : Instr) (m : MgmtOut) : Prop := ∃ t, exec c s = .next t ∧ MgmtAnswers v m got t
    (FirmUp s →
      (∀ msg : List Byte, s.fuses.lc = 4 ∨ msg.length < 4 → exec (.mctpMessage msg) s = .next got) ∧
      (∀ (m a b c : Byte) (l : List Byte), m ≠ 0x01 ∨ fld (b.setWidth 16) 0 6 = 0 ∧ a.getLsbD 7 = false ∨
          fld (b.setWidth 16) 0 6 = 2 ∧ (a.getLsbD 7 = true ∨ c ≠ 0x0A) ∨ 2 < fld (b.setWidth 16) 0 6 ∨ fld (b.setWidth 16) 0 6 = 1 →
        exec (.mctpMessage (m :: a :: b :: c :: l)) s = .next got) ∧
      (s.fuses.lc ≠ 4 → ∀ (a b c : Byte) (l : List Byte), fld (b.setWidth 16) 0 6 = 0 → a.getLsbD 7 = true →
        (c = 0x01 → ∃ t, exec (.mctpMessage (0x01 :: a :: b :: c :: l)) s = .next t ∧
          MgmtAnswers v (.pldm 0 0 []) { got with mgmt := { got.mgmt with tid := l.headD 0 } } t) ∧
        (∀ code data, (c, code, data) ∈ [((0x02 : Byte), (0 : W16), [s.mgmt.tid]),
            (0x03, 0, [0x00, 0x00, 0x00, 0x00, 0x05, 0x00, 0xF0, 0xF0, 0xF1]), (0x04, 0, leBytes 8 0x25), (0x05, 0, leBytes 32 0x3E)] ∨
            (c.toNat = 0 ∨ 5 < c.toNat) ∧ code = 0x05 ∧ data = [] →
          answers (.mctpMessage (0x01 :: a :: b :: c :: l)) (.pldm 0 code data))) ∧
      (∀ eid : Byte, (8 ≤ eid.toNat → eid.toNat ≤ 0xFE → ∃ t, exec (.setEndpointId eid) s = .next t ∧
          MgmtAnswers v (.control 0x01 0x00 [eid]) { got with mgmt := { got.mgmt with eid := eid, eidSet := true } } t) ∧
        (eid.toNat < 8 ∨ eid.toNat = 0xFF → answers (.setEndpointId eid) (.control 0x01 0x02 [s.mgmt.eid]))) ∧
      (∀ c cmd data, (c, cmd, data) ∈ [(Instr.getEndpointId, (0x02 : Byte), [s.mgmt.eid]),
          (.getEndpointUuid, 0x03, leBytes 16 Config.endpointUuid.toNat),
          (.getMctpVersionSupport, 0x04, [0x01, 0xF1, 0xF3, 0xFF, 0x00]), (.getMessageTypeSupport, 0x05, [0x03, 0x00, 0x01, 0x05])] →
        answers c (.control cmd 0x00 data)) ∧
      (s.fuses.lc ≠ 4 → ∀ (id : W16) st d,
        (∃ x : Int, 0x0001 ≤ id.toNat ∧ id.toNat ≤ 0x00A0 ∧ x = smGet (-160) s.hay.temps (id.toNat - 1) ∧ st = 0 ∧
          d = int32 x ++ [if 440 ≤ x then 3 else if 380 ≤ x then 2 else 1]) ∨
        (0x0101 ≤ id.toNat ∧ id.toNat ≤ 0x010A ∧ st = 0 ∧ d = leBytes 4 (smGet 0 s.hay.rails (id.toNat - 0x0101))) ∨
        (id.toNat = 0x0201 ∧ st = 0 ∧ d = leBytes 4 (s.hay.power / 100000)) ∨
        (0x0301 ≤ id.toNat ∧ id.toNat ≤ 0x0308 ∧ st = 0 ∧ d = leBytes 4 (heathAt s (id.toNat - 0x0301)).step) ∨
        ((id.toNat = 0 ∨ 0x0308 < id.toNat) ∧ st = 0x80 ∧ d = []) →
        answers (.pldmSensorRead id) (.pldm 2 st d))) ∧
    (s.hay.firmRun = false → ∀ c ∈ [Instr.mctpMessage [1, 0x80, 0, 2], .getEndpointId, .getVersion, .pldmSensorRead 1, .activateFirmware false],
      exec c s = .next got)

/-- R321, R348: SPDM answers in the order GET_VERSION, GET_CAPABILITIES, NEGOTIATE_ALGORITHMS; only P-384 with SHA-384 is agreed; then slot 0 gives its digest and
chain, CHALLENGE a signature over both nonces, and GET_MEASUREMENTS the blocks.  In fenced boot blocks 2 and 3 are absent.
Codes, formats and order of the DMTF specifications, and the content of blocks 5 to 7, are those of log entries 40, 56 and 57.
R303, R322, R323: SetEventReceiver names the receiver; an acknowledged event message leaves, and one unanswered for 100 ms is sent once more and then
dropped; a firmware update starts a bank write and asks for its body in ascending pieces, each of which joins it, outside sag state as soon as
the last has come; self-contained activation is not supported.
Codes of the DMTF specifications, the acknowledgement and the order of pieces are those of log entries 40, 58 and 59. -/
def Obligations.SpdmEventsAndUpdate : Prop :=
  (∀ (s : State), Up s → FirmUp s → s.fuses.lc ≠ 4 →
    let v := s.mgmt.inbox.head?
    let got : State := { s with mgmt := { s.mgmt with inbox := s.mgmt.inbox.drop 1, via := v } }
    let answers (c : Instr) (code : Byte) (d : List Byte) (sig : Option (BitVec 768)) (u : State) : Prop :=
      ∃ t, exec c s = .next t ∧ MgmtAnswers v (.spdm code d sig) u t
    answers .getVersion 0x04 [0x00, 0x12] none { got with mgmt := { got.mgmt with verDone := true, capDone := false, algDone := false } } ∧
    (s.mgmt.verDone = true → ∃ d, answers .getCapabilities 0x61 d none { got with mgmt := { got.mgmt with capDone := true, algDone := false } }) ∧
    (s.mgmt.capDone = true → ∀ p h, (p = true → h = true → ∃ d, answers (.negotiateAlgorithms p h) 0x63 d none
        { got with mgmt := { got.mgmt with algDone := true } }) ∧
      (p = false ∨ h = false → ∃ e, answers (.negotiateAlgorithms p h) 0x7F [e] none got)) ∧
    (s.mgmt.algDone = true → hasIdentity s = true →
      answers .getDigests 0x01 (0x01 :: digestBytes (Config.sha384 (idChain s))) none got ∧
      (∀ off len, off < (idChain s).length → answers (.getCertificate 0 off len) 0x02 (slice (idChain s) off len) none got) ∧
      (∀ nonce, s.fuses.lc ≠ 3 → ∃ n k, n.length = 32 ∧
        answers (.challenge 0 nonce) 0x03 (digestBytes (Config.sha384 (idChain s)) ++ n)
          (some (Config.spdmSign (digestBytes (Config.sha384 (idChain s)) ++ n ++ leBytes 32 nonce.toNat))) { got with free := k })) ∧
    (s.mgmt.algDone = true → ∀ (idx : MeasIndex) d, (idx = 1 ∧ d = digestBytes Config.romDigest) ∨
        (idx = 2 ∧ s.boot.fenced = false ∧ d = digestBytes s.boot.imgDig) ∨
        (idx = 3 ∧ s.boot.fenced = false ∧ d = digestBytes s.boot.mcDig) ∨
        (idx = 4 ∧ s.boot.defCfg = false ∧ d = digestBytes s.boot.cfgDig) ∨
        (idx = 5 ∧ d = digestBytes (Config.sha384 ((liveBales s (actTab s)).flatMap (·.hdr)))) ∨
        (idx = 6 ∧ d = leBytes 4 (s.fuses.lc + 256 * b2n s.boot.fenced)) ∨
        (idx = 7 ∧ d = leBytes 4 (s.fuses.floor1 + 256 * s.fuses.floor2)) →
      ∀ nonce, answers (.getMeasurements idx false nonce) 0x60 d none got ∧
        (s.fuses.lc ≠ 0 → ∃ n k, n.length = 32 ∧ answers (.getMeasurements idx true nonce) 0x60 (d ++ n)
          (some (Config.spdmSign (d ++ n ++ leBytes 32 nonce.toNat))) { got with free := k })) ∧
    (s.mgmt.algDone = true → s.boot.fenced = true → ∀ idx nonce, idx = 2 ∨ idx = 3 →
      ∃ e, answers (.getMeasurements idx false nonce) 0x7F [e] none got)) ∧
  (∀ (s : State), Up s → FirmUp s → s.fuses.lc ≠ 4 →
    let v := s.mgmt.inbox.head?
    let got : State := { s with mgmt := { s.mgmt with inbox := s.mgmt.inbox.drop 1, via := v } }
    let ask (w : BankWrite) : MgmtOut := .pldm 0x15 0 (leBytes 4 w.body.length ++ leBytes 4 (min 4096 (w.len - w.body.length)))
    (∀ r, s.boot.fenced = false → ∃ t, exec (.setEventReceiver true r) s = .next t ∧
      MgmtAnswers v (.pldm 2 0 []) { got with mgmt := { got.mgmt with receiver := some r } } t) ∧
    (∀ (a b : Byte) (l : List Byte), a.getLsbD 7 = false → fld (b.setWidth 16) 0 6 = 2 →
      exec (.mctpMessage (0x01 :: a :: b :: 0x0A :: l)) s = .next { got with mgmt := { got.mgmt with
        events := s.mgmt.events.filter fun e => decide (fld e.1 0 5 ≠ fld (a.setWidth 16) 0 5) } }) ∧
    (∃ t, exec .platformEventRetry s = .next t ∧
      (∀ e ∈ t.mgmt.events, s.now < e.2.1 + 100000000) ∧
      (∀ q a, (q, a, true) ∈ s.mgmt.events → a + 100000000 ≤ s.now → (q, a, true) ∉ t.mgmt.events) ∧
      (∀ q a, (q, a, false) ∈ s.mgmt.events → a + 100000000 ≤ s.now →
        (q, s.now, true) ∈ t.mgmt.events ∧ .mgmt busUnit (.event q) ∈ t.out) ∧
      (∀ e ∈ s.mgmt.events, s.now < e.2.1 + 100000000 → e ∈ t.mgmt.events) ∧
      t = { s with mgmt := { s.mgmt with events := t.mgmt.events }, out := t.out }) ∧
    (∀ comp trailer descs len, flashOk s = true → comp = 1 ∨ comp = 2 →
      (s.bankWr ≠ none → ∃ t, exec (.pldmFirmwareUpdate comp trailer descs len) s = .next t ∧ MgmtAnswers v (.pldm 5 stHBusy []) got t) ∧
      (s.bankWr = none → imageCheck s (comp = 1) trailer (slice descs 0 256) (slice descs 256 256) = 0 → len ≤ bodySize s (comp = 1) →
        ∃ t w u, exec (.pldmFirmwareUpdate comp trailer descs len) s = .next t ∧ t.bankWr = some w ∧ w.stage = .erase 0 ∧
          w.pldm = true ∧ w.via = v ∧ w.body = [] ∧ w.len = len ∧ w.target = targetBank s (comp = 1) ∧ w.seq = newSeq s (comp = 1) ∧
          w.want = (decide (0 < len) && !s.hay.sag) ∧
          u = { got with
            bankWr := t.bankWr, bankSt := 1, bankErr := 0, bankTgt := w.target, flashCmd := t.flashCmd, flashAt := t.flashAt,
            flashSusp := t.flashSusp, spoilt := t.spoilt } ∧
          (w.want = true → MgmtAnswers v (ask w) u t) ∧ (w.want = false → t = u))) ∧
    (∀ w w' off data, s.bankWr = some w → w.pldm = true → off = w.body.length → data.length ≤ 4096 → 0 < data.length →
      off + data.length ≤ w.len → 64 ≤ data.length ∨ off + data.length = w.len →
      w' = { w with body := w.body ++ data, want := pieceDue s { w with body := w.body ++ data, want := false } } →
      ∃ t u, exec (.requestFirmwareData off data) s = .next t ∧ t.bankWr = some w' ∧
        u = { got with
          bankWr := t.bankWr, flashCmd := t.flashCmd, flashAt := t.flashAt, flashSusp := t.flashSusp, spoilt := t.spoilt } ∧
        (w'.want = true → MgmtAnswers w.via (ask w') u t) ∧ (w'.want = false → t = u)) ∧
    (∀ sc, ∃ t, exec (.activateFirmware sc) s = .next t ∧ MgmtAnswers v (.pldm 5 (if sc then 0x8C else 0) []) got t))

/-! ## Boot, tenancy and lifecycle (chapter 12) -/

/-- R232, R291, R325, R327, R348, R353, R371: por_n asserted holds the engine with only flash, fuses and the power-grant pin kept; its release and
warm_n run
the first steps, with Plots 128 to 159 and, under a grant of 30 W, every Rill powered, a Delta view of this engine alone, and empty
tables; an engine in Blank boots fenced; warm_n keeps the timer and the log ring.  That a cut-off fuse program reads either way at warm_n too is
the model's choice (log entry 45), and so is that the pin's value is kept while reset is held (log entry 5); that the assertion wipes the rest,
but for a bank known to be spoilt, is read by inference (log entry 61). -/
def Obligations.ResetSequence : Prop :=
    ∀ (s : State),
    (∃ t, exec .porNAssert s = .next t ∧
      t = {
        pending := s.pending, out := s.out, free := t.free, fuses := t.fuses, flash := t.flash, spoilt := s.spoilt,
        hay := { grant := s.hay.grant } } ∧
      (s.fuseOp = none → t.fuses = s.fuses) ∧ (∀ op, s.fuseOp = some op → t.fuses = s.fuses ∨ t.fuses = fuseWritten s.fuses op) ∧
      (s.flashCmd = none → s.flashSusp = none → t.flash = s.flash) ∧
      (∀ a d, s.flashCmd = some (.pageBank a d) → s.flashSusp = none → ∀ x, x < a ∨ a + d.length ≤ x →
        memGet 0xFF t.flash x = memGet 0xFF s.flash x)) ∧
    (∀ c (sfdp : Sfdp) warm, (c = .porNRelease sfdp ∧ s.boot.porLow = true ∧ warm = false) ∨
        (c = .warmNReset sfdp ∧ s.boot.porLow = false ∧ warm = true) → s.fuseOp = none →
      ∃ t, exec c s = .next t ∧ t.boot.phase = .recordChosen ∧ t.boot.porLow = false ∧ t.boot.warm = warm ∧ t.boot.sfdp = sfdp ∧
        t.boot.hwrdy = false ∧ t.now = (if warm then s.now else 0) ∧ t.boot.recordAt = t.now ∧ t.locks = List.range 36 ∧
        t.fuses = s.fuses ∧ (s.fuses.lc = 0 → t.boot.fenced = true) ∧ t.log.ring = (if warm then s.log.ring else []) ∧
        t.view = { members := 1#64 <<< t.cfg.memberid.toNat } ∧ t.mgmt.eid = t.cfg.epid ∧ t.cfg = applyCfg (cfgRecord t) (some 256) ∧
        (∀ k, 128 ≤ k → k < 160 → (plotOf t k).st = .on) ∧
        (30 ≤ s.hay.grant.toNat → ∀ k, k < 128 → (plotOf t k).st ≠ .gated ∧ k ∈ t.mask) ∧
        (s.hay.grant.toNat < 30 → (∀ k, k < 128 → (plotOf t k).st = .gated) ∧ t.hay.powerUps = List.range 128) ∧
        t.streams = [] ∧ t.weirs = [] ∧ t.sluices = [] ∧ t.inWin = [] ∧ t.outCtr = [] ∧ t.linkTags = [] ∧ t.objs = [] ∧ t.fen = [] ∧
        t.far = [] ∧ t.reqs = [] ∧ t.tel = [] ∧ t.mbx = {} ∧ t.gen = {})

/-- R325, R328, R348, R353, R354, R355, R357, R371: the partition that the eight ports report bounds the far tier, below 16 GiB or not within 1 s it is unusable; the end of
the wipe leaves the far tier zero and opens the TAP in Blank and Returned; the firmware start ends the sequence, opens the ports in use,
fills the contracts, makes the objects of the Fen shadow and of the request-ID cache, in fenced boot leaves every Rill Plot gated, under a grant
below 30 W has every Heath at step 6, and in Retired opens no port and leaves every Plot below 144 gated.
When the TAP opens, a late report, and the IDs of those objects are those of log entries 26, 49, 62 and 63; what Retired keeps running is that of
log entry 66. -/
def Obligations.BootProgress : Prop :=
    ∀ (s : State), s.boot.phase = .recordChosen →
    (∀ shares g, s.boot.partSeen = false → s.now ≤ s.boot.recordAt + 1000000000 →
      g = min 256 (8 * leastOf (shares.map fun x : BitVec 6 => x.toNat)) →
      (16 ≤ g → ∃ t, exec (.partitionReady shares) s = .next t ∧ t.cfg = applyCfg (cfgRecord s) (some g) ∧ t.boot.partSeen = true ∧
        t.boot.partGib = g ∧ t.boot.farBad = s.boot.farBad ∧ t = { s with cfg := t.cfg, boot := t.boot })) ∧
    (∀ c, s.boot.partSeen = false → (c = .partitionTimeout ∧ s.boot.recordAt + 1000000000 ≤ s.now) ∨
        (∃ shares, c = .partitionReady shares ∧ s.now ≤ s.boot.recordAt + 1000000000 ∧
          8 * leastOf (shares.map fun x : BitVec 6 => x.toNat) < 16) →
      ∃ t, exec c s = .next t ∧ t.boot.farBad = true ∧ t.boot.farWiped = true ∧ t.cfg.fargib = 0 ∧
        (∀ k, (tenOf t k).kvq = 0) ∧ t.boot.tapFull = s.boot.tapFull ∧
        t.log = (note s stPartitionAbsent skMemory 0 [0xFFFFFFFF, 0, 0, 0, 0, 0]).log) ∧
    (s.boot.partSeen = true → s.boot.farWiped = false → ∃ t, exec .farWipeComplete s = .next t ∧ t.far = [] ∧ t.kv = [] ∧
      t.boot.farWiped = true ∧ t.boot.wiping = false ∧
      (t.boot.tapFull = true ↔ s.fuses.lc = 0 ∨ s.fuses.lc = 3) ∧ t = { s with far := [], kv := [], boot := t.boot }) ∧
    (s.boot.farWiped = true → ∃ t, exec .haywardFirmwareStart s = .next t ∧ t.boot.phase = .running ∧ FirmUp t ∧
      (lockedOn s 34 = true → lockedOn s 35 = true → Up t) ∧ t.boot.hwrdy = true ∧ t.hay.dogAt = s.now ∧
      (s.boot.farBad = false → objOf t 65536 = ({ state := .home, kind := .pinned, home := { tier := .far }, size := 33554432 } : Obj) ∧
        objOf t 65537 = ({ state := .home, kind := .pinned, home := { tier := .far, loc := 0x02000000 }, size := 33554432 } : Obj)) ∧
      (∀ o, (o ≠ 65536 ∧ o ≠ 65537) ∨ s.boot.farBad = true → objOf t o = objOf s o) ∧
      (s.fuses.lc ≠ 4 → ∀ p, p < 64 → roleOf s p ≠ .off → (portOf t p).phyRst = false) ∧
      (s.fuses.lc ≠ 4 → ∀ f, f < 16 → fbInUse s f = true → (fbOf t f).inReset = false ∧ (fbOf t f).held = false) ∧
      (s.fuses.lc = 4 → t.ports = s.ports ∧ t.fbs = s.fbs) ∧
      (s.boot.fenced = true ∨ s.fuses.lc = 4 → t.mask = [] ∧ ∀ n, n < 144 → (plotOf t n).st = .gated) ∧
      (s.boot.fenced = false → s.fuses.lc ≠ 4 → t.mask = s.mask ∧ (30 ≤ s.hay.grant.toNat → t.plots = s.plots)) ∧
      (s.hay.grant.toNat < 30 → ∀ h, h < 8 → (heathAt t h).step = max 6 (heathAt s h).step) ∧
      (∀ k, k < 64 → (tenOf s k).en = true → smGet {} t.buckets k = { level := 1000 * 1024 * (tenOf s k).burst, at' := s.now }) ∧
      t.fuses = s.fuses ∧ t.cfg = s.cfg ∧ t.flash = s.flash)

/-- R229, R335: counts of contexts, Weirs and Sluices are applied in tenant order, each reduced to what remains of its total; a tenant that is not
enabled or not within NTEN holds none; the partition bounds the far tier. -/
def Obligations.AppliedConfiguration : Prop :=
    ∀ (c : Cfg) (far : Option Nat) (raw app : Nat → TenCfg), raw = (fun t => smGet {} c.ten t) →
    app = (fun t => smGet {} (applyCfg c far).ten t) →
    (∀ t, t < 64 → (app t).en = ((raw t).en && decide (t < c.nten)) ∧
      (app t).weirs = min (if (app t).en then (raw t).weirs else 0) (16384 - ((List.range t).map fun u => (app u).weirs).sum) ∧
      (app t).sluices = min (if (app t).en then (raw t).sluices else 0) (256 - ((List.range t).map fun u => (app u).sluices).sum) ∧
      (app t).ctxq = min (if (app t).en then (raw t).ctxq else 0) (32768 - ((List.range t).map fun u => (app u).ctxq).sum)) ∧
    ((List.range 64).map fun t => (app t).weirs).sum ≤ 16384 ∧ ((List.range 64).map fun t => (app t).sluices).sum ≤ 256 ∧
    (∀ g, far = some g → (applyCfg c far).fargib = min c.fargib g) ∧
    (far = none → (applyCfg c far).fargib = 0 ∧ ∀ t, (app t).kvq = 0)

/-- R249 to R251, R330, R338, R344, R345: a tenant reset ends its streams and reinitialises its Weirs and Sluices and no other; an accepted DELTA_SET changes the epoch
and members, gives new members their join epoch, clears the suspended bits, windows and counters of members that left or rejoined, is logged and sets its
interrupt, and a refused one changes no view; CFG_READ writes the record as
applied, each context quota at its effective value (R96) and each route entry with all its bits.
Log entries 64 and 68 name the readings. -/
def Obligations.TenancyCommands : Prop :=
    ∀ (s : State) (a : MbxArgs), Alive s → MailboxFree s →
    (∀ tn, tn = fld (argOf s a 0) 0 6 → ∃ t, exec (.tenantReset a) s = .next t ∧ Answered t a.ctag 0 ∧
      (∀ k, (streamOf t k).inUse = true → (streamOf t k).tenant ≠ tn) ∧
      (∀ w, weirOwner s w = some tn → weirOf t w = {}) ∧ (∀ i, sluiceOwner s i = some tn → sluiceOf t i = {}) ∧
      (∀ i, sluiceOwner s i ≠ some tn → sluiceOf t i = sluiceOf s i) ∧
      (∀ w, weirOwner s w ≠ some tn → (weirOf s w).bound = none → weirOf t w = weirOf s w) ∧
      (∀ e ∈ t.reqs, e.tenant ≠ tn) ∧ t.inWin = s.inWin ∧ t.outCtr = s.outCtr) ∧
    (∀ epoch members rejoin, epoch = (if (argOf s a 0).extractLsb' 0 16 = 0 then 1 else (argOf s a 0).extractLsb' 0 16) →
      members = argOf64 s a 1 → rejoin = argOf64 s a 3 →
      (s.cfg.managed = false ∨ (s.view.epoch ≠ 0 ∧ newer epoch s.view.epoch = false) ∨
          members.getLsbD s.cfg.memberid.toNat = false ∨ rejoin &&& ~~~members ≠ 0 →
        ∃ t, exec (.deltaSet a) s = .next t ∧ Answered t a.ctag stDeltaRefused ∧
          t = { s with mbx := t.mbx, gen := { s.gen with intstat := t.gen.intstat } }) ∧
      (s.cfg.managed = true → s.view.epoch = 0 ∨ newer epoch s.view.epoch = true → members.getLsbD s.cfg.memberid.toNat = true →
        rejoin &&& ~~~members = 0 → ∃ t, exec (.deltaSet a) s = .next t ∧ Answered t a.ctag 0 ∧ t.view.epoch = epoch ∧
          t.view.members = members ∧ t.gen.intstat.getLsbD 3 = true ∧
          t.view.susp = s.view.susp &&& ~~~rejoin &&& ~~~(members ^^^ s.view.members) ∧
          (∀ m, m < 64 → members.getLsbD m = true → s.view.members.getLsbD m = false ∨ rejoin.getLsbD m = true →
            smGet 0 t.view.join m = epoch) ∧
          (∀ m, m < 64 → (s.view.members.getLsbD m = true ∧ members.getLsbD m = false) ∨ rejoin.getLsbD m = true →
            smGet {} t.inWin m = {} ∧ smGet 0 t.outCtr m = 0) ∧
          (∀ m, m < 64 → (s.view.members.getLsbD m = false ∨ members.getLsbD m = true) → rejoin.getLsbD m = false →
            smGet {} t.inWin m = smGet {} s.inWin m ∧ smGet 0 t.outCtr m = smGet 0 s.outCtr m) ∧
          (∀ i g, (sluiceOf s i).arrival ≠ none → (sluiceOf s i).cur.mask = some g →
            g &&& ((s.view.members &&& ~~~members) ||| rejoin) ≠ 0 → (sluiceOf t i).gen = (sluiceOf s i).gen + 1 ∧
              (sluiceOf t i).arrival = none))) ∧
    (bufferGood s (argOf64 s a 0) 32832 = true → ∃ t, exec (.cfgRead a) s = .next t ∧ Answered t a.ctag 0 ∧
      resultReg t 0 = 32832 ∧ t.out = s.out ++ [.buffer (argOf64 s a 0).toNat (encodeCfg s)] ∧
      (s.cfg.idchain.length ≤ 16384 → (encodeCfg s).length = 32832 ∧
        ∀ k, k < 64 → ctxQuota s k < 65536 → leAt (encodeCfg s) (4096 + 64 * k + 2) 2 = ctxQuota s k) ∧
      (∀ x, x < 65536 → x / 128 % 2 = 0 → x / 32768 = 0 → routeCode (routeOfCode x) = x) ∧
      t = { s with mbx := t.mbx, gen := { s.gen with intstat := t.gen.intstat }, out := t.out })

/-- R314, R348 to R352: an acceptable request names the next state, draws a new challenge and starts its fuse program outside sag state, an advance
ending every stream first; a refused
one changes nothing; a key slot is written once, in Blank; a finished program leaves exactly its fuses changed, floors and revoked bits
only ever rising, and an advance programs all three groups of its state and resets the engine.
The status of a refusal, its form and the last key are those of log entries 69 and 71.
R349, R354, R368: IDCODE and BYPASS always answer; through the open TAP in Blank a key slot is written once, and an advance to Provisioned starts once slot 0 is
written.  Any other instruction of the open TAP is refused, for the manual gives it no effect, and acts as BYPASS while the TAP is closed.
That refusal is the model's choice (log entry 70). -/
def Obligations.LifecycleFuses : Prop :=
  ((∀ (s : State) (a : MbxArgs) (buf : List Byte), Alive s → MailboxFree s → s.fuseOp = none → s.fuseWait = none →
    (bufferGood s (argOf64 s a 0) 256 = true →
      (requestAccepted s buf = none → ∃ t, exec (.lcRequest a buf) s = .next t ∧ Answered t a.ctag stRequestRefused ∧
        t = { s with mbx := t.mbx, gen := { s.gen with intstat := t.gen.intstat } }) ∧
      (∀ op, requestAccepted s buf = some op → leAt buf 6 1 = s.fuses.lc + 1 ∧ leAt buf 8 8 = s.fuses.uid.toNat ∧ leAt buf 16 8 = s.chal.toNat ∧
        ∃ t k, exec (.lcRequest a buf) s = .next t ∧ t.chal = Config.freeWord k ∧ t.fuses = s.fuses ∧
          (s.hay.sag = true → t.fuseWait = some op ∧ t.fuseOp = none ∧ t.mbx.busy = true) ∧
          (s.hay.sag = false → t.fuseOp = some op ∧ t.fuseWait = none) ∧
          (∀ n, s.hay.sag = false → op = .advance n → n = s.fuses.lc + 1 ∧ Answered t a.ctag 0 ∧
            ∀ c, (streamOf t c).inUse = false))) ∧
    (∀ k, k = fld (argOf s a 0) 0 3 → bufferGood s (argOf64 s a 1) 96 = true →
      (s.fuses.lc = 0 → s.fuses.keyset.getLsbD k = false → ∃ t, exec (.keyProgram a buf) s = .next t ∧
        t.fuseOp = some (.key k (BitVec.ofNat 768 (beNat (buf.take 96)))) ∧ t.mbx.busy = true ∧
        t = { s with fuseOp := t.fuseOp, mbx := t.mbx }) ∧
      (s.fuses.lc = 0 → s.fuses.keyset.getLsbD k = true → ∃ t, exec (.keyProgram a buf) s = .next t ∧
        Answered t a.ctag stSlotWritten ∧ t = { s with mbx := t.mbx, gen := { s.gen with intstat := t.gen.intstat } }) ∧
      (s.fuses.lc ≠ 0 → ∃ t, exec (.keyProgram a buf) s = .next t ∧ Answered t a.ctag stNotAvailable ∧
        t = { s with mbx := t.mbx, gen := { s.gen with intstat := t.gen.intstat } }))) ∧
  (∀ (s : State), Alive s →
    (∀ n, s.fuseOp = some (.advance n) → ∃ t, exec .fuseProgramComplete s = .next t ∧
      t.fuses = { s.fuses with lcGroups := s.fuses.lcGroups.modify (n - 1) fun _ => [true, true, true] } ∧
      (s.fuses.lcGroups.length = 4 → n = s.fuses.lc + 1 → n ≤ 4 → t.fuses.lc = n) ∧
      t.boot.phase = .recordChosen ∧ t.now = s.now ∧ t.log.ring = s.log.ring ∧ t.streams = [] ∧ t.objs = [] ∧ t.far = []) ∧
    (∀ f1 f2, s.fuseOp = some (.floors f1 f2) → ∃ t, exec .fuseProgramComplete s = .next t ∧
      t.fuses = { s.fuses with floor1 := t.fuses.floor1, floor2 := t.fuses.floor2 } ∧
      (f1 ≤ 63 → s.fuses.floor1 ≤ 63 → t.fuses.floor1 = max s.fuses.floor1 f1) ∧
      (f2 ≤ 63 → s.fuses.floor2 ≤ 63 → t.fuses.floor2 = max s.fuses.floor2 f2) ∧
      (s.mbx.busy = true → s.mbx.running = some .fuse → s.fuseWait = none → Finished s t 0)) ∧
    (∀ k, k < 8 → s.fuseOp = some (.revoke k) → ∃ t, exec .fuseProgramComplete s = .next t ∧
      t.fuses = { s.fuses with keyrev := t.fuses.keyrev } ∧
      ∀ j, j < 8 → t.fuses.keyrev.getLsbD j = (s.fuses.keyrev.getLsbD j || decide (j = k))) ∧
    (∀ k x, k < 8 → s.fuseOp = some (.key k x) → ∃ t, exec .fuseProgramComplete s = .next t ∧
      t.fuses = { s.fuses with keys := t.fuses.keys, keyset := t.fuses.keyset } ∧ smGet 0 t.fuses.keys k = x ∧
      ∀ j, j < 8 → t.fuses.keyset.getLsbD j = (s.fuses.keyset.getLsbD j || decide (j = k))))) ∧
  ((∀ s : State, exec (.jtagAccess .idcode) s = .next { s with
      out := s.out ++ [.jtag (BitVec.ofNat 32 (0xA2C40B7 + 2 ^ 28 * s.fuses.step.toNat))] } ∧
    exec (.jtagAccess .bypass) s = .next s ∧
    ∀ ir, exec (.jtagAccess (.other ir)) s = if s.boot.tapFull then .refused .jtagInstructionNotGiven else .next s) ∧
  (∀ (s : State), Alive s → s.boot.tapFull = true → s.fuses.lc = 0 → s.fuseOp = none → s.fuseWait = none →
    (∀ (k : Fin 8) key, s.fuses.keyset.getLsbD k.val = false →
      exec (.jtagAccess (.keyWrite k key)) s = .next { s with fuseOp := some (.key k key) }) ∧
    (s.fuses.keyset.getLsbD 0 = true → s.hay.sag = false → ∃ t, exec (.jtagAccess .advanceProvisioned) s = .next t ∧
      t.fuseOp = some (.advance 1) ∧ t.fuses = s.fuses ∧ ∀ c, (streamOf t c).inUse = false)))

/-! ## The Stile (chapter 13) -/

/-- R377, R378: while a command runs, or HWRDY is 0, a doorbell sets OVR and does nothing else, for every mailbox command; in fenced boot the commands that
it does not serve complete with Not available, and an unknown code completes with Unknown command; the parameters read back as they were written,
those out of range as clamped (R12).
That a row stands for the doorbell and its parameters is the model's choice (log entry 72). -/
def Obligations.MailboxDoorbell : Prop :=
    ∀ (s : State) (a : MbxArgs) (img : BaleImage) (bytes : List Byte) (opc : Byte), Alive s → s.fuses.lc ≠ 4 →
    (s.mbx.busy = true ∨ s.boot.hwrdy = false → ∀ c ∈
      [Instr.objQuery a, .objMove a, .slowGrant a, .slowRelease a, .baleLoad a img, .baleCommit a, .baleAbort a, .baleStatus a,
       .fenRead a, .fenInvalidate a, .fenWrite a, .fenInsert a, .fenMask a, .calibRead a, .calibClear a, .tenantReset a, .deltaSet a,
       .portReset a, .cfgRead a, .bankWrite a bytes, .bankStatus a, .lcRequest a bytes, .keyProgram a bytes],
      exec c s = .next { s with mbx := { s.mbx with ovr := true } }) ∧
    (s.mbx.busy = false → s.boot.hwrdy = true →
      (s.boot.fenced = true → ∀ c ∈
        [Instr.objQuery a, .objMove a, .baleLoad a img, .baleCommit a, .baleAbort a, .baleStatus a, .fenRead a, .fenInvalidate a,
         .fenWrite a, .fenInsert a, .fenMask a, .calibRead a, .calibClear a, .tenantReset a, .deltaSet a],
        ∃ t, exec c s = .next t ∧ Answered t a.ctag stNotAvailable ∧
          (c ∉ [Instr.objMove a, .fenMask a, .deltaSet a] → ∀ i, smGet 0 t.mbx.param i = argOf s a i) ∧
          t = { s with mbx := t.mbx, gen := { s.gen with intstat := t.gen.intstat } }) ∧
      (∀ c r lo n v, (c = .objMove a ∧ r = 1 ∧ lo = 8 ∧ n = 8 ∧
            v = (fun x : Nat => if x < 128 then x else if x < 191 then 127 else 255)) ∨
          (c = .fenMask a ∧ r = 0 ∧ lo = 8 ∧ n = 2 ∧ v = (fun x : Nat => max 1 x)) ∨
          (c = .deltaSet a ∧ r = 0 ∧ lo = 0 ∧ n = 16 ∧ v = (fun x : Nat => max 1 x)) ∨
          (c = .bankWrite a bytes ∧ r = 0 ∧ lo = 0 ∧ n = 2 ∧ v = (fun x : Nat => min 2 (max 1 x))) →
        ∃ t, exec c s = .next t ∧ fld (smGet 0 t.mbx.param r) lo n = v (fld (argOf s a r) lo n) ∧
          (∀ j, j < 32 → (j < lo ∨ lo + n ≤ j) → (smGet 0 t.mbx.param r).getLsbD j = (argOf s a r).getLsbD j) ∧
          ∀ i, i ≠ r → smGet 0 t.mbx.param i = argOf s a i) ∧
      (s.boot.fenced = false → knownCodes.contains opc = false → ∃ t, exec (.unknownCommand opc a) s = .next t ∧
        Answered t a.ctag stUnknownCommand ∧ t.mbx.opc = opc ∧
        t = { s with mbx := t.mbx, gen := { s.gen with intstat := t.gen.intstat } }))

/-- R10, R254, R366, R374 to R378, R380: a write is answered with zero data and acts by the register's access code: GEN_INTSTAT clears bits but not
TRIP while a site is hot, MBX_STATUS clears DONE and
OVR, MBX_CMD and a parameter are taken only while no command runs and HWRDY is 1, and set OVR otherwise; GO in the doorbell then starts the
command of MBX_CMD with MBX_PARAM as they stand; MBX_HFLAG is kept, WEIR_DSEL takes its snapshot, LOG_FSEL starts its read, and a write to any
register that is not writable does nothing.
That GO alone starts none of the four commands that read host memory is the model's choice (log entry 72), and so is the place of the answer
(log entry 73).
R372: the interrupt lines are the status bits under their enable bits, and in every state that a write can leave TRIP is enabled. -/
def Obligations.RegisterWrites : Prop :=
  (∀ (s u : State) (d : W32), Up s → s.fuses.lc ≠ 4 → u = { s with out := s.out ++ [.stile 0] } →
    (∃ t, exec (.registerWrite 0x30 d) s = .next t ∧
      (∀ i, i < 4 → t.gen.intstat.getLsbD i = (s.gen.intstat.getLsbD i && (!d.getLsbD i || (decide (i = 2) && tripAct s)))) ∧
      t = { u with gen := { s.gen with intstat := t.gen.intstat } }) ∧
    (s.mbx.busy = false → s.boot.hwrdy = true → exec (.registerWrite 0x1000 d) s = .next { u with
        mbx := { s.mbx with opc := d.extractLsb' 0 8, ctag := d.extractLsb' 16 16 } } ∧
      (∀ i, i < 16 → ∃ t, exec (.registerWrite (0x1004 + 4 * i) d) s = .next t ∧
        smGet 0 t.mbx.param i = d ∧ (∀ j, j ≠ i → smGet 0 t.mbx.param j = smGet 0 s.mbx.param j) ∧
        t = { u with mbx := { s.mbx with param := t.mbx.param } }) ∧
      (d.getLsbD 0 = false → exec (.registerWrite 0x1044 d) s = .next u) ∧
      (d.getLsbD 0 = true → ∀ a : MbxArgs, a = { ctag := s.mbx.ctag, par := [] } →
        (∀ k c, (k, c) ∈ [(0x01, Instr.objQuery a), (0x02, .objMove a), (0x03, .slowGrant a), (0x04, .slowRelease a), (0x09, .baleCommit a),
            (0x0A, .baleAbort a), (0x0B, .baleStatus a), (0x10, .fenRead a), (0x11, .fenInvalidate a), (0x12, .fenWrite a),
            (0x13, .fenInsert a), (0x14, .fenMask a), (0x18, .calibRead a), (0x19, .calibClear a), (0x20, .tenantReset a),
            (0x21, .deltaSet a), (0x22, .portReset a), (0x28, .cfgRead a), (0x2A, .bankStatus a)] → s.mbx.opc = k →
          exec (.registerWrite 0x1044 d) s = exec c u) ∧
        (s.mbx.opc ∈ [(0x08 : Byte), 0x29, 0x30, 0x31] → exec (.registerWrite 0x1044 d) s = .next u) ∧
        (knownCodes.contains s.mbx.opc = false → exec (.registerWrite 0x1044 d) s = exec (.unknownCommand s.mbx.opc a) u))) ∧
    (s.mbx.busy = true ∨ s.boot.hwrdy = false → ∀ i, i < 18 →
      exec (.registerWrite (0x1000 + 4 * i) d) s = .next { u with mbx := { s.mbx with ovr := true } }) ∧
    exec (.registerWrite 0x1048 d) s = .next { u with
      mbx := { s.mbx with done := s.mbx.done && !d.getLsbD 1, ovr := s.mbx.ovr && !d.getLsbD 2 } } ∧
    exec (.registerWrite 0x1094 d) s = .next { u with mbx := { s.mbx with hflag := d } } ∧
    exec (.registerWrite 0x3F000 d) s = exec (.weirDselWrite d) u ∧ exec (.registerWrite 0x80010 d) s = exec (.logFselWrite d) u ∧
    (∀ off, off % 4 ≠ 0 ∨ (off ≠ 0x30 ∧ off ≠ 0x34 ∧ off ≠ 0x1048 ∧ off ≠ 0x1094 ∧ off ≠ 0x3F000 ∧ off ≠ 0x80010 ∧
      (off < 0x1000 ∨ 0x1044 < off)) → exec (.registerWrite off d) s = .next u)) ∧
  (∀ (s : State) (d : W32), Alive s →
    (∃ t, exec (.registerWrite 0x34 d) s = .next t ∧ t.gen.inten.getLsbD 2 = true ∧
      (∀ i, i < 4 → i ≠ 2 → t.gen.inten.getLsbD i = d.getLsbD i) ∧
      (∀ i, i < 4 → (irqLines t).getLsbD i = (t.gen.intstat.getLsbD i && t.gen.inten.getLsbD i)) ∧
      t = { s with gen := { s.gen with inten := t.gen.inten }, out := s.out ++ [.stile 0] }))

/-- R375, R379: a read of GEN_TIMELO answers the low half of the timer and captures the high half; a read of a TEL counter answers it and clears that counter
alone; a TEL word that is no counter keeps its value.
That a read answers on State.out is the model's choice (log entry 73).
R253, R254: a write to WEIR_DSEL takes a snapshot of the object it names and changes no object. -/
def Obligations.ReadsWithEffects : Prop :=
  (∀ (s : State),
    (Alive s → ∃ t, exec .genTimeloRead s = .next t ∧ t.out = s.out ++ [.stile (BitVec.ofNat 32 s.now)] ∧
      (t.gen.timeHi.toNat * 2 ^ 32 + (BitVec.ofNat 32 s.now).toNat) % 2 ^ 64 = s.now % 2 ^ 64 ∧
      t = { s with gen := { s.gen with timeHi := t.gen.timeHi }, out := t.out }) ∧
    (dataServed s = true → ∀ off, isCounter off = true → ∃ t, exec (.telCounterRead off) s = .next t ∧
      t.out = s.out ++ [.stile (smGet 0 s.tel off)] ∧ smGet 0 t.tel off = 0 ∧
      (∀ k, k ≠ off → smGet 0 t.tel k = smGet 0 s.tel k) ∧ t = { s with tel := t.tel, out := t.out }) ∧
    (∀ p, p < 64 → dataServed s = true → ∃ t, exec (.telCounterRead (telLnk p 0)) s = .next t ∧
      t = { s with out := s.out ++ [.stile (lnkState s p)] }) ∧
    (∀ off n, smGet 0 (telAdd s off n).tel off = BitVec.ofNat 32 (min ((smGet 0 s.tel off).toNat + n) 0xFFFFFFFF))) ∧
  (∀ (s : State) (d : W32), Alive s → dataServed s = true → ∃ t, exec (.weirDselWrite d) s = .next t ∧
    t.det.obj = d.extractLsb' 0 14 ∧ t.det.slu = d.getLsbD 16 ∧
    (d.getLsbD 16 = false → t.det.dval = (weirOf s (d.extractLsb' 0 14).toNat).val ∧
      t.det.nwait = (weirOf s (d.extractLsb' 0 14).toNat).queue.length ∧ t.det.last = (weirOf s (d.extractLsb' 0 14).toNat).last ∧
      ∀ i y, i < 8 → (weirOf s (d.extractLsb' 0 14).toNat).queue[i]? = some y →
        ∃ u, t.det.shown[i]? = some (y.agent, y.tag, y.n, u) ∧ y.deadline ≤ s.now + 1000 * u ∧
          1000 * u < y.deadline - s.now + 1000) ∧
    (d.getLsbD 16 = true → t.det.dval = 0 ∧ t.det.last = (sluiceOf s ((d.extractLsb' 0 14).toNat % 256)).last) ∧
    t.det.shown.length ≤ 8 ∧ t = { s with det := t.det })
end

