-- ==== Sys2Proof/Laws/Bytes.lean ====
section
/-! SUPPORT. Laws of byte lists and numbers (R8): writing a number as little-endian bytes, reading it back, and reading a field out of
it. -/

namespace Sys2Proof.Machine

@[simp] theorem leBytes_length (n x : Nat) : (leBytes n x).length = n := by
  induction n generalizing x with
  | zero => rfl
  | succ n ih => simp [leBytes, ih]

theorem leBytes_take (k n x : Nat) : (leBytes n x).take k = leBytes (min k n) x := by
  induction n generalizing k x with
  | zero => simp [leBytes]
  | succ n ih => cases k <;> simp [leBytes, ih, Nat.succ_min_succ]

theorem leBytes_drop (k n x : Nat) : (leBytes n x).drop k = leBytes (n - k) (x / 256 ^ k) := by
  induction k generalizing n x with
  | zero => simp
  | succ k ih =>
    cases n with
    | zero => simp [leBytes]
    | succ n => simp [leBytes, ih, Nat.pow_succ, Nat.div_div_eq_div_mul, Nat.mul_comm]

/-- Reading `n` bytes of a number back gives the number's low `n` bytes. -/
theorem leNat_leBytes (n x : Nat) : leNat (leBytes n x) = x % 256 ^ n := by
  induction n generalizing x with
  | zero => simp [leBytes, leNat, Nat.mod_one]
  | succ n ih =>
    rw [leBytes, leNat, ih, Nat.pow_succ, Nat.mul_comm, Nat.mul_comm (256 ^ n), Nat.mod_mul]
    simp [Nat.mul_comm]

theorem leNat_lt (l : List Byte) : leNat l < 256 ^ l.length := by
  induction l with
  | nil => simp [leNat]
  | cons b r ih =>
    rw [leNat, List.length_cons, Nat.pow_succ]
    have := b.isLt
    omega

/-- Bytes read as a number and written again are the same bytes. -/
theorem leBytes_leNat (l : List Byte) : leBytes l.length (leNat l) = l := by
  induction l with
  | nil => rfl
  | cons b r ih =>
    have hb := b.isLt
    rw [List.length_cons, leBytes, leNat]
    have e : (b.toNat + 256 * leNat r) / 256 = leNat r := by omega
    have f : BitVec.ofNat 8 (b.toNat + 256 * leNat r) = b := by
      apply BitVec.eq_of_toNat_eq
      simp only [BitVec.toNat_ofNat]
      omega
    rw [e, ih, f]

theorem leBytes_mod (n x : Nat) : leBytes n (x % 256 ^ n) = leBytes n x := by
  have h := leBytes_leNat (leBytes n x)
  rwa [leBytes_length, leNat_leBytes] at h

theorem leNat_append (a b : List Byte) : leNat (a ++ b) = leNat a + 256 ^ a.length * leNat b := by
  induction a with
  | nil => simp [leNat]
  | cons x r ih =>
    simp only [List.cons_append, leNat, ih, List.length_cons, Nat.pow_succ, Nat.mul_add, Nat.add_assoc, Nat.mul_assoc, Nat.mul_comm]

/-- A field read out of a number's bytes. -/
theorem leAt_leBytes (n x o k : Nat) : leAt (leBytes n x) o k = x / 256 ^ o % 256 ^ min k (n - o) := by
  rw [leAt, leBytes_drop, leBytes_take, leNat_leBytes]

theorem slice_leBytes (n x o k : Nat) : slice (leBytes n x) o k = leBytes (min k (n - o)) (x / 256 ^ o) := by
  rw [slice, leBytes_drop, leBytes_take]

theorem slice_append_right (a b : List Byte) (o n : Nat) (h : a.length ≤ o) : slice (a ++ b) o n = slice b (o - a.length) n := by
  rw [slice, slice, List.drop_append, List.drop_eq_nil_of_le h, List.nil_append]

theorem slice_append_left (a b : List Byte) (o n : Nat) (h : o + n ≤ a.length) : slice (a ++ b) o n = slice a o n := by
  rw [slice, slice, List.drop_append, List.take_append, List.length_drop]
  have e : n - (a.length - o) = 0 := by omega
  simp [e]

theorem leAt_append_left (a b : List Byte) (o n : Nat) (h : o + n ≤ a.length) : leAt (a ++ b) o n = leAt a o n := by
  have := slice_append_left a b o n h
  simp only [slice] at this
  rw [leAt, leAt, this]

theorem leAt_append_right (a b : List Byte) (o n : Nat) (h : a.length ≤ o) : leAt (a ++ b) o n = leAt b (o - a.length) n := by
  have := slice_append_right a b o n h
  simp only [slice] at this
  rw [leAt, leAt, this]

end Sys2Proof.Machine
end

