-- ==== Sys2Proof/Laws/Keep.lean ====
section
/-! SUPPORT. What the operations leave alone: the queue, the fuses and fuse programs, the configuration, the timer, the challenge, the
Delta view, the boot state, the flash, the far tier, and the enables of the interrupt lines.  One law per operation: `keepOf` of the
state after it. -/

namespace Sys2Proof.Machine

/-- The parts of State that few operations change. -/
structure Kept where
  pending  : List Instr
  fuses    : Fuses
  fuseOp   : Option FuseOp
  fuseWait : Option FuseOp
  cfg      : Cfg
  now      : Nat
  chal     : W64
  view     : View
  boot     : Boot
  flash    : List Host.Cell
  far      : List Host.Cell
  inten    : BitVec 4

/-- Those of them that no ordinary command changes. -/
structure Core where
  pending  : List Instr
  fuses    : Fuses
  fuseOp   : Option FuseOp
  fuseWait : Option FuseOp
  cfg      : Cfg
  now      : Nat
  chal     : W64
  inten    : BitVec 4

/-- The core of the kept parts. -/
@[irreducible] def coreOf (k : Kept) : Core :=
  { pending := k.pending, fuses := k.fuses, fuseOp := k.fuseOp, fuseWait := k.fuseWait, cfg := k.cfg, now := k.now, chal := k.chal,
    inten := k.inten }

/-- The kept parts of a state. -/
@[irreducible] def keepOf (s : State) : Kept :=
  { pending := s.pending, fuses := s.fuses, fuseOp := s.fuseOp, fuseWait := s.fuseWait, cfg := s.cfg, now := s.now, chal := s.chal,
    view := s.view, boot := s.boot, flash := s.flash, far := s.far, inten := s.gen.inten }


@[simp] theorem keepOf_mk {x0 x1 x2 x3 x4 x5 x6 x7 x8 x9 x10 x11 x12 x13 x14 x15 x16 x17 x18 x19 x20 x21 x22 x23 x24 x25 x26 x27 x28 x29 x30 x31 x32 x33 x34 x35 x36 x37 x38 x39 x40 x41 x42 x43 x44 x45 x46 x47 x48 x49 x50 x51 x52 x53 x54 x55 x56 x57 x58 x59 x60 x61 x62 x63 x64 x65 x66 x67 x68 x69 x70 x71 x72 x73 x74 x75 x76 x77 x78 x79 x80 x81 x82 x83 x84 x85 x86 x87 x88 x89 x90} :
    keepOf (State.mk x0 x1 x2 x3 x4 x5 x6 x7 x8 x9 x10 x11 x12 x13 x14 x15 x16 x17 x18 x19 x20 x21 x22 x23 x24 x25 x26 x27 x28 x29 x30 x31 x32 x33 x34 x35 x36 x37 x38 x39 x40 x41 x42 x43 x44 x45 x46 x47 x48 x49 x50 x51 x52 x53 x54 x55 x56 x57 x58 x59 x60 x61 x62 x63 x64 x65 x66 x67 x68 x69 x70 x71 x72 x73 x74 x75 x76 x77 x78 x79 x80 x81 x82 x83 x84 x85 x86 x87 x88 x89 x90) =
      { pending := x0, fuses := x5, fuseOp := x6, fuseWait := x7, cfg := x9, now := x3, chal := x8, view := x10, boot := x4, flash := x74, far := x52, inten := x85.inten } := by
  unfold keepOf; rfl

@[simp] theorem keepOf_fold (s : State) :
    ({ pending := s.pending, fuses := s.fuses, fuseOp := s.fuseOp, fuseWait := s.fuseWait, cfg := s.cfg, now := s.now, chal := s.chal, view := s.view, boot := s.boot, flash := s.flash, far := s.far, inten := s.gen.inten } : Kept) = keepOf s := by
  unfold keepOf; rfl

theorem kept_pending (s : State) : s.pending = (keepOf s).pending := by unfold keepOf; rfl
theorem kept_fuses (s : State) : s.fuses = (keepOf s).fuses := by unfold keepOf; rfl
theorem kept_fuseOp (s : State) : s.fuseOp = (keepOf s).fuseOp := by unfold keepOf; rfl
theorem kept_fuseWait (s : State) : s.fuseWait = (keepOf s).fuseWait := by unfold keepOf; rfl
theorem kept_cfg (s : State) : s.cfg = (keepOf s).cfg := by unfold keepOf; rfl
theorem kept_now (s : State) : s.now = (keepOf s).now := by unfold keepOf; rfl
theorem kept_chal (s : State) : s.chal = (keepOf s).chal := by unfold keepOf; rfl
theorem kept_view (s : State) : s.view = (keepOf s).view := by unfold keepOf; rfl
theorem kept_boot (s : State) : s.boot = (keepOf s).boot := by unfold keepOf; rfl
theorem kept_flash (s : State) : s.flash = (keepOf s).flash := by unfold keepOf; rfl
theorem kept_far (s : State) : s.far = (keepOf s).far := by unfold keepOf; rfl
theorem kept_inten (s : State) : s.gen.inten = (keepOf s).inten := by unfold keepOf; rfl
theorem kept_eta (k : Kept) : ({ pending := k.pending, fuses := k.fuses, fuseOp := k.fuseOp, fuseWait := k.fuseWait, cfg := k.cfg, now := k.now, chal := k.chal, view := k.view, boot := k.boot, flash := k.flash, far := k.far, inten := k.inten } : Kept) = k := rfl
theorem core_eta (k : Kept) : ({ pending := k.pending, fuses := k.fuses, fuseOp := k.fuseOp, fuseWait := k.fuseWait, cfg := k.cfg, now := k.now, chal := k.chal, inten := k.inten } : Core) = coreOf k := by unfold coreOf; rfl
@[simp] theorem coreOf_mk {y0 y1 y2 y3 y4 y5 y6 y7 y8 y9 y10 y11} : coreOf (Kept.mk y0 y1 y2 y3 y4 y5 y6 y7 y8 y9 y10 y11) = { pending := y0, fuses := y1, fuseOp := y2, fuseWait := y3, cfg := y4, now := y5, chal := y6, inten := y11 } := by unfold coreOf; rfl

theorem coreOf_foldl {α : Type} (f : State → α → State) (h : ∀ s x, coreOf (keepOf (f s x)) = coreOf (keepOf s)) (l : List α)
    (s : State) : coreOf (keepOf (l.foldl f s)) = coreOf (keepOf s) := by
  induction l generalizing s with
  | nil => rfl
  | cons x r ih => rw [List.foldl_cons, ih, h]

theorem coreOf_ite (c : Prop) [Decidable c] (s t : State) :
    coreOf (keepOf (if c then s else t)) = if c then coreOf (keepOf s) else coreOf (keepOf t) := by
  split <;> rfl


theorem keepOf_foldl {α : Type} (f : State → α → State) (h : ∀ s x, keepOf (f s x) = keepOf s) (l : List α) (s : State) :
    keepOf (l.foldl f s) = keepOf s := by
  induction l generalizing s with
  | nil => rfl
  | cons x r ih => rw [List.foldl_cons, ih, h]

theorem keepOf_ite (c : Prop) [Decidable c] (s t : State) : keepOf (if c then s else t) = if c then keepOf s else keepOf t := by
  split <;> rfl


theorem alive_next (s t : State) (k : State → State) : (alive s k = .next t) = ((if s.boot.phase = .held then s else k s) = t) := by
  unfold alive; simp
theorem runningOn_next (s t : State) (b : Nat) (k : State → State) : (runningOn s b k = .next t) =
    ((if s.boot.phase = .held then s else if lockedOn s b then k s else s) = t) := by
  unfold runningOn; rw [alive_next]
theorem overFord_next (s t : State) (b : Nat) (k : State → State) : (overFord s b k = .next t) =
    ((if s.boot.phase = .held then s else if fordOpen s b then k s else s) = t) := by
  unfold overFord; rw [alive_next]
theorem running_next (s t : State) (k : State → State) : (running s k = .next t) =
    ((if s.boot.phase = .held then s else if lockedOn s 34 then k s else s) = t) := by
  unfold running; rw [runningOn_next]
theorem runningHw_next (s t : State) (k : State → State) : (runningHw s k = .next t) =
    ((if s.boot.phase = .held then s else if lockedOn s 35 then k s else s) = t) := by
  unfold runningHw; rw [runningOn_next]
theorem firmware_next (s t : State) (k : State → State) : (firmware s k = .next t) =
    ((if s.boot.phase = .held then s else if lockedOn s 35 then (if s.hay.firmRun then k s else s) else s) = t) := by
  unfold firmware; rw [runningHw_next]
theorem whenUp_next (s t : State) (k : State → State) : (whenUp s k = .next t) =
    ((if s.boot.phase = .running then (if lockedOn s 35 then k s else s) else s) = t) := by
  unfold whenUp; simp

@[simp] theorem setPort_keep (s : State) (p : Nat) (x : Port) :
    keepOf (setPort s p x) = keepOf s := by
  unfold setPort
  simp

@[simp] theorem modPort_keep (s : State) (p : Nat) (f : Port → Port) :
    keepOf (modPort s p f) = keepOf s := by
  unfold modPort
  simp

@[simp] theorem setFb_keep (s : State) (f : Nat) (x : FbPort) :
    keepOf (setFb s f x) = keepOf s := by
  unfold setFb
  simp

@[simp] theorem modFb_keep (s : State) (f : Nat) (g : FbPort → FbPort) :
    keepOf (modFb s f g) = keepOf s := by
  unfold modFb
  simp

@[simp] theorem setWeir_keep (s : State) (w : Nat) (x : Weir) :
    keepOf (setWeir s w x) = keepOf s := by
  unfold setWeir
  simp

@[simp] theorem setSluice_keep (s : State) (i : Nat) (x : Sluice) :
    keepOf (setSluice s i x) = keepOf s := by
  unfold setSluice
  simp

@[simp] theorem setStream_keep (s : State) (c : Nat) (x : Stream) :
    keepOf (setStream s c x) = keepOf s := by
  unfold setStream
  simp

@[simp] theorem modStream_keep (s : State) (c : Nat) (f : Stream → Stream) :
    keepOf (modStream s c f) = keepOf s := by
  unfold modStream
  simp

@[simp] theorem setObj_keep (s : State) (i : Nat) (x : Obj) :
    keepOf (setObj s i x) = keepOf s := by
  unfold setObj
  simp

@[simp] theorem setPlot_keep (s : State) (n : Nat) (x : Plot) :
    keepOf (setPlot s n x) = keepOf s := by
  unfold setPlot
  simp

@[simp] theorem setHeath_keep (s : State) (h : Nat) (x : Heath) :
    keepOf (setHeath s h x) = keepOf s := by
  unfold setHeath
  simp

@[simp] theorem setActTab_keep (s : State) (x : SetTab) :
    keepOf (setActTab s x) = keepOf s := by
  unfold setActTab
  split <;> simp

@[simp] theorem setOtherTab_keep (s : State) (x : SetTab) :
    keepOf (setOtherTab s x) = keepOf s := by
  unfold setOtherTab
  split <;> simp

@[simp] theorem drawn_keep (s : State) :
    keepOf (drawn s) = keepOf s := by
  unfold drawn
  simp

@[simp] theorem telAdd_keep (s : State) (off n : Nat) :
    keepOf (telAdd s off n) = keepOf s := by
  unfold telAdd
  simp

@[simp] theorem telInc_keep (s : State) (off : Nat) :
    keepOf (telInc s off) = keepOf s := by
  unfold telInc
  simp

@[simp] theorem raise_keep (s : State) (b : BitVec 4) :
    keepOf (raise s b) = keepOf s := by
  unfold raise
  simp

@[simp] theorem emit_keep (s : State) (o : Output) :
    keepOf (emit s o) = keepOf s := by
  unfold emit
  simp

@[simp] theorem count_keep (s : State) (k : Tally) (part : Nat) :
    keepOf (count s k part) = keepOf s := by
  unfold count
  simp

@[simp] theorem logRec_keep (s : State) (code : W16) (fatal : Bool) (srck srcid : Nat) (args : List Nat) :
    keepOf (logRec s code fatal srck srcid args) = keepOf s := by
  unfold logRec
  dsimp only
  (repeat' split) <;> simp

@[simp] theorem note_keep (s : State) (code : W16) (srck srcid : Nat) (args : List Nat) :
    keepOf (note s code srck srcid args) = keepOf s := by
  unfold note
  simp

@[simp] theorem sendControl_keep (s : State) (p : Nat) (kind : Nat) (crcls crcnt : Nat) (ackseq : BitVec 12) (payload : List Byte) :
    keepOf (sendControl s p kind crcls crcnt ackseq payload) = keepOf s := by
  unfold sendControl
  simp

@[simp] theorem sendAck_keep (s : State) (p : Nat) :
    keepOf (sendAck s p) = keepOf s := by
  unfold sendAck
  dsimp only
  (repeat' split) <;> simp

@[simp] theorem flushOwed_keep (s : State) (p : Nat) :
    keepOf (flushOwed s p) = keepOf s := by
  unfold flushOwed
  simp [keepOf_foldl]

@[simp] theorem returnCredit_keep (s : State) (p cls n : Nat) :
    keepOf (returnCredit s p cls n) = keepOf s := by
  unfold returnCredit
  dsimp only
  (repeat' split) <;> simp

@[simp] theorem settle_keep (s : State) (p : Nat) :
    keepOf (settle s p) = keepOf s := by
  unfold settle
  dsimp only
  (repeat' split) <;> simp

@[simp] theorem freeBufs_keep (s : State) (n : Nat) :
    keepOf (freeBufs s n) = keepOf s := by
  unfold freeBufs
  simp

@[simp] theorem freeC0_keep (s : State) (b : C0Buf) :
    keepOf (freeC0 s b) = keepOf s := by
  unfold freeC0
  (try dsimp only)
  (repeat' split) <;> simp [keepOf_foldl]

@[simp] theorem lostFrame_keep (s : State) (p : Nat) (seq : Nat) (f : Frame) :
    keepOf (lostFrame s p seq f) = keepOf s := by
  unfold lostFrame
  split <;> simp

@[simp] theorem offer_keep (s : State) (p : Nat) (f : Frame) :
    keepOf (offer s p f) = keepOf s := by
  unfold offer
  split <;> simp

@[simp] theorem fbDrain_keep (s : State) (f : Nat) :
    keepOf (fbDrain s f) = keepOf s := by
  unfold fbDrain
  dsimp only
  (repeat' split) <;> simp

@[simp] theorem fbSend_keep (s : State) (f : Nat) (l : List FbFlit) :
    keepOf (fbSend s f l) = keepOf s := by
  unfold fbSend
  dsimp only
  (repeat' split) <;> simp

@[simp] theorem fbCredit_keep (s : State) (f : Nat) (cls : BitVec 2) (n : Nat) :
    keepOf (fbCredit s f cls n) = keepOf s := by
  unfold fbCredit
  simp

@[simp] theorem sendComplete_keep (s : State) (f : Nat) (tenant : BitVec 6) (holds : List (Nat × Nat)) (b : BodyF) :
    keepOf (sendComplete s f tenant holds b) = keepOf s := by
  unfold sendComplete
  dsimp only
  (repeat' split) <;> simp

@[simp] theorem askPort_keep (s : State) (mp t : Nat) (wr : Bool) (run : Nat × Nat) (who : Issuer) :
    keepOf (askPort s mp t wr run who) = keepOf s := by
  unfold askPort
  simp

@[simp] theorem portIssue_keep (s : State) (off len : Nat) (wr : Bool) (who : Issuer) (mp : Nat) :
    ∀ t', portIssue s off len wr who mp = some t' → keepOf t' = keepOf s := by
  intro t h
  unfold portIssue at h
  dsimp only at h
  split at h
  · cases h; rfl
  · split at h
    · cases h
    · simp only [Option.map_eq_some_iff] at h
      obtain ⟨_, _, rfl⟩ := h
      simp

@[simp] theorem memIssue_keep (s : State) (off len : Nat) (wr : Bool) (who : Issuer) :
    ∀ t', memIssue s off len wr who = some t' → keepOf t' = keepOf s := by
  intro t h
  unfold memIssue at h
  have key : ∀ (l : List Nat) (o : Option State), (∀ u, o = some u → keepOf u = keepOf s) →
      ∀ t', l.foldl (fun o mp => o.bind fun s => portIssue s off (max 1 len) wr who mp) o = some t' → keepOf t' = keepOf s := by
    intro l
    induction l with
    | nil => intro o ho t' h'; exact ho _ h'
    | cons g r ih =>
      intro o ho t' h'
      refine ih _ ?_ t' h'
      intro u hu
      obtain ⟨v, hv, hm⟩ := Option.bind_eq_some_iff.mp hu
      rw [portIssue_keep _ _ _ _ _ _ _ hm, ho v hv]
  exact key _ _ (fun u hu => by cases hu; rfl) t h

@[simp] theorem askContent_keep (s : State) (t addr len : Nat) (wr : Bool) (who : Issuer) :
    keepOf (askContent s t addr len wr who) = keepOf s := by
  unfold askContent
  simp

@[simp] theorem conIssue_keep (s : State) (addr len : Nat) (wr : Bool) (who : Issuer) :
    ∀ t', conIssue s addr len wr who = some t' → keepOf t' = keepOf s := by
  intro t h
  unfold conIssue at h
  split at h
  · cases h
  · simp only [Option.map_eq_some_iff] at h
    obtain ⟨_, _, rfl⟩ := h
    simp

@[simp] theorem answer_keep (s : State) (fb : Nat) (tenant : BitVec 6) (op : OpBody) (opc : Byte) (holds : List (Nat × Nat)) (status : W16) (n : W32) (mask : W64) :
    keepOf (answer s fb tenant op opc holds status n mask) = keepOf s := by
  unfold answer
  simp

@[simp] theorem answerWaiter_keep (s : State) (obj : Nat) (holds : List (Nat × Nat)) (w : Waiter) (status : W16) (rip : Bool) (n : W32) (mask : W64) :
    keepOf (answerWaiter s obj holds w status rip n mask) = keepOf s := by
  unfold answerWaiter
  simp

@[simp] theorem wake_keep (s : State) (w : Nat) :
    keepOf (wake s w) = keepOf s := by
  unfold wake
  simp [keepOf_foldl]

@[simp] theorem setVal_keep (s : State) (w : Nat) (v : W32) (sig : LastSig) :
    keepOf (setVal s w v sig) = keepOf s := by
  unfold setVal
  simp

@[simp] theorem raiseWeir_keep (s : State) (w : Nat) (n : W32) (sig : LastSig) :
    keepOf (raiseWeir s w n sig) = keepOf s := by
  unfold raiseWeir
  simp

@[simp] theorem reinitWeir_keep (s : State) (w : Nat) :
    keepOf (reinitWeir s w) = keepOf s := by
  unfold reinitWeir
  simp [keepOf_foldl]

@[simp] theorem sluiceFinish_keep (s : State) (i : Nat) (status : W16) (rip : Bool) (mask : W64) :
    keepOf (sluiceFinish s i status rip mask) = keepOf s := by
  unfold sluiceFinish
  simp [keepOf_foldl]

@[simp] theorem sluiceCheck_keep (s : State) (i : Nat) :
    keepOf (sluiceCheck s i) = keepOf s := by
  unfold sluiceCheck
  dsimp only
  (repeat' split) <;> simp

@[simp] theorem reinitSluice_keep (s : State) (i : Nat) :
    keepOf (reinitSluice s i) = keepOf s := by
  unfold reinitSluice
  simp [keepOf_foldl]

@[simp] theorem setLinkTag_keep (s : State) (t : Nat) (x : LinkTag) :
    keepOf (setLinkTag s t x) = keepOf s := by
  unfold setLinkTag
  simp

@[simp] theorem finishTag_keep (s : State) (t : Nat) (status : W16) (rip : Bool) (after : LinkTag) :
    keepOf (finishTag s t status rip after) = keepOf s := by
  unfold finishTag
  split <;> simp

@[simp] theorem weirFrameLost_keep (s : State) (o : Origin) (status : W16) (m : Nat) :
    keepOf (weirFrameLost s o status m) = keepOf s := by
  unfold weirFrameLost
  dsimp only
  (repeat' split) <;> simp

@[simp] theorem sendFenced_keep (s : State) (m : Nat) (f : Frame) :
    keepOf (sendFenced s m f) = keepOf s := by
  unfold sendFenced
  dsimp only
  (repeat' split) <;> simp

@[simp] theorem sendBehind_keep (s : State) (fb m : Nat) (f : Frame) :
    keepOf (sendBehind s fb m f) = keepOf s := by
  unfold sendBehind
  (try dsimp only)
  (repeat' split) <;> simp [keepOf_foldl]

@[simp] theorem sendReply_keep (s : State) (m : Nat) (via : Nat) (f : Frame) :
    keepOf (sendReply s m via f) = keepOf s := by
  unfold sendReply
  split <;> simp

@[simp] theorem sendRecsTo_keep (s : State) (c port : Nat) (dst : BitVec 6) (stag : W16) (tenant : Nat) (recs : List VRecord) (eos : Bool) :
    keepOf (sendRecsTo s c port dst stag tenant recs eos) = keepOf s := by
  unfold sendRecsTo
  simp [keepOf_foldl]

@[simp] theorem sendRecs_keep (s : State) (c : Nat) (recs : List VRecord) (eos : Bool) :
    keepOf (sendRecs s c recs eos) = keepOf s := by
  unfold sendRecs
  simp [keepOf_foldl]

@[simp] theorem sendText_keep (s : State) (c : Nat) (text : List Byte) :
    keepOf (sendText s c text) = keepOf s := by
  unfold sendText
  simp [keepOf_foldl]

@[simp] theorem settleResid_keep (s : State) :
    keepOf (settleResid s) = keepOf s := by
  unfold settleResid
  simp

@[simp] theorem freeOrphans_keep (s : State) :
    keepOf (freeOrphans s) = keepOf s := by
  unfold freeOrphans
  simp

@[simp] theorem releaseOwed_keep (s : State) (f : Nat) :
    keepOf (releaseOwed s f) = keepOf s := by
  unfold releaseOwed
  dsimp only
  (repeat' split) <;> simp

@[simp] theorem pushSearch_keep (s : State) (m : W16) (q : Search) :
    keepOf (pushSearch s m q) = keepOf s := by
  unfold pushSearch
  simp

@[simp] theorem issueOne_keep (s : State) (c : Nat) (hashed : Bool) :
    keepOf (issueOne s c hashed) = keepOf s := by
  unfold issueOne
  dsimp only
  (repeat' split) <;> simp

@[simp] theorem issueFuel_keep (n : Nat) (s : State) (c : Nat) : keepOf (issueFuel n s c) = keepOf s := by
  induction n generalizing s with
  | zero => rfl
  | succ n ih =>
    unfold issueFuel
    dsimp only
    split
    · simp [ih]
    · split <;> simp [ih]

@[simp] theorem issueSearches_keep (s : State) (c : Nat) :
    keepOf (issueSearches s c) = keepOf s := by
  unfold issueSearches
  simp

@[simp] theorem issueAll_keep (s : State) :
    keepOf (issueAll s) = keepOf s := by
  unfold issueAll
  simp [keepOf_foldl]

@[simp] theorem freeStream_keep (s : State) (c : Nat) :
    keepOf (freeStream s c) = keepOf s := by
  unfold freeStream
  simp [keepOf_foldl]

@[simp] theorem endEntry_keep (s : State) (c : Nat) (v : Option CachedVerdict) :
    keepOf (endEntry s c v) = keepOf s := by
  unfold endEntry
  simp

@[simp] theorem endSpans_keep (s : State) (c : Nat) (status : W16) (stage : BitVec 4) (policy : W16) (spans : List Span) :
    keepOf (endSpans s c status stage policy spans) = keepOf s := by
  unfold endSpans
  dsimp only
  (repeat' split) <;> simp

@[simp] theorem endStream_keep (s : State) (c : Nat) (status : W16) (stage : BitVec 4) (policy : W16) :
    keepOf (endStream s c status stage policy) = keepOf s := by
  unfold endStream
  simp

@[simp] theorem endControl_keep (s : State) (c : Nat) (status : W16) :
    keepOf (endControl s c status) = keepOf s := by
  unfold endControl
  simp

@[simp] theorem endWhere_keep (s : State) (p : Stream → Bool) (status : W16) :
    keepOf (endWhere s p status) = keepOf s := by
  unfold endWhere
  simp [keepOf_foldl]

@[simp] theorem enforceMinRills_keep (s : State) :
    keepOf (enforceMinRills s) = keepOf s := by
  unfold enforceMinRills
  simp

@[simp] theorem fillPort_keep (s : State) (p : Nat) :
    keepOf (fillPort s p) = keepOf s := by
  unfold fillPort
  split <;> simp

@[simp] theorem fillFb_keep (s : State) (f : Nat) :
    keepOf (fillFb s f) = keepOf s := by
  unfold fillFb
  split <;> simp

@[simp] theorem fillC0_keep (s : State) :
    keepOf (fillC0 s) = keepOf s := by
  unfold fillC0
  simp

@[simp] theorem waitC0_keep (s : State) (w : Reserve) :
    keepOf (waitC0 s w) = keepOf s := by
  unfold waitC0
  simp

@[simp] theorem creditBack_keep (s : State) (ingress cls n : Nat) :
    keepOf (creditBack s ingress cls n) = keepOf s := by
  unfold creditBack
  split <;> simp

@[simp] theorem c0Flow_keep (n : Nat) (s : State) (g : Nat) : keepOf (c0Flow n s g) = keepOf s := by
  induction n generalizing s with
  | zero => rfl
  | succ n ih =>
    unfold c0Flow
    split
    · rfl
    · split
      · rfl
      · split
        · rfl
        · simp [ih]

@[simp] theorem settleC0_keep (s : State) :
    keepOf (settleC0 s) = keepOf s := by
  unfold settleC0
  simp [keepOf_foldl]

@[simp] theorem waitPort_keep (s : State) (p : Nat) (i : RxItem) :
    keepOf (waitPort s p i) = keepOf s := by
  unfold waitPort
  simp

@[simp] theorem waitFb_keep (s : State) (f : Nat) (i : RxItem) :
    keepOf (waitFb s f i) = keepOf s := by
  unfold waitFb
  simp

@[simp] theorem takeBytes_keep (s : State) (t n : Nat) :
    keepOf (takeBytes s t n).1 = keepOf s := by
  unfold takeBytes
  simp

@[simp] theorem promptBytes_keep (s : State) (c : Nat) (text : List Byte) (eos : Bool) (bufs : Nat) :
    keepOf (promptBytes s c text eos bufs) = keepOf s := by
  unfold promptBytes
  simp

@[simp] theorem endDiscard_keep (s : State) (port tenant : Nat) (stag : W16) :
    keepOf (endDiscard s port tenant stag) = keepOf s := by
  unfold endDiscard
  simp

@[simp] theorem beginDiscard_keep (s : State) (port : Nat) (f : Frame) :
    keepOf (beginDiscard s port f) = keepOf s := by
  unfold beginDiscard
  split <;> simp

@[simp] theorem protocolError_keep (s : State) (p : Nat) (seq kind : Nat) :
    keepOf (protocolError s p seq kind) = keepOf s := by
  unfold protocolError
  simp

@[simp] theorem joinFrame_keep (s : State) (p : Nat) (f : Frame) (bufs : Nat) :
    keepOf (joinFrame s p f bufs) = keepOf s := by
  unfold joinFrame
  dsimp only
  (repeat' split) <;> simp

@[simp] theorem deliverMgmt_keep (s : State) (p : Nat) (f : Frame) (bufs : Nat) :
    keepOf (deliverMgmt s p f bufs) = keepOf s := by
  unfold deliverMgmt
  simp

@[simp] theorem pumpRx_keep (n : Nat) (s : State) (p : Nat) : keepOf (pumpRx n s p) = keepOf s := by
  induction n generalizing s with
  | zero => rfl
  | succ n ih =>
    unfold pumpRx
    split
    · rfl
    · split
      · rfl
      · dsimp only; rw [ih]; simp [keepOf_ite]
@[simp] theorem pump_keep (s : State) (p : Nat) :
    keepOf (pump s p) = keepOf s := by
  unfold pump
  split <;> simp

@[simp] theorem refuseSos_keep (s : State) (p : Nat) (f : Frame) (status policy retry : W16) :
    keepOf (refuseSos s p f status policy retry) = keepOf s := by
  unfold refuseSos
  split <;> simp

@[simp] theorem sendHello_keep (s : State) (p : Nat) (hup : Bool) :
    keepOf (sendHello s p hup) = keepOf s := by
  unfold sendHello
  simp

@[simp] theorem enterTraining_keep (s : State) (p : Nat) :
    keepOf (enterTraining s p) = keepOf s := by
  unfold enterTraining
  simp

@[simp] theorem enterRetrain_keep (s : State) (p : Nat) :
    keepOf (enterRetrain s p) = keepOf s := by
  unfold enterRetrain
  simp

@[simp] theorem replayFailed_keep (s : State) (p : Nat) :
    keepOf (replayFailed s p) = keepOf s := by
  unfold replayFailed
  simp

@[simp] theorem reportLost_keep (s : State) (p : Nat) (seq : Nat) (f : Frame) :
    keepOf (reportLost s p seq f) = keepOf s := by
  unfold reportLost
  simp

@[simp] theorem portLost_keep (s : State) (p : Nat) (dest : PortState) :
    keepOf (portLost s p dest) = keepOf s := by
  unfold portLost
  simp [keepOf_foldl, keepOf_ite]

@[simp] theorem portFailed_keep (s : State) (p : Nat) :
    keepOf (portFailed s p) = keepOf s := by
  unfold portFailed
  simp

@[simp] theorem portDown_keep (s : State) (p : Nat) :
    keepOf (portDown s p) = keepOf s := by
  unfold portDown
  simp

@[simp] theorem applyAck_keep (s : State) (p : Nat) (seq : BitVec 12) :
    keepOf (applyAck s p seq) = keepOf s := by
  unfold applyAck
  simp

@[simp] theorem addCredit_keep (s : State) (p cls n : Nat) :
    keepOf (addCredit s p cls n) = keepOf s := by
  unfold addCredit
  simp

@[simp] theorem resendTrigger_keep (s : State) (p : Nat) :
    keepOf (resendTrigger s p) = keepOf s := by
  unfold resendTrigger
  dsimp only
  (repeat' split) <;> simp

@[simp] theorem takeNak_keep (s : State) (p : Nat) (seq : BitVec 12) :
    keepOf (takeNak s p seq) = keepOf s := by
  unfold takeNak
  simp

@[simp] theorem resumeFrom_keep (s : State) (p : Nat) (seq : BitVec 12) :
    keepOf (resumeFrom s p seq) = keepOf s := by
  unfold resumeFrom
  simp

@[simp] theorem startEpisode_keep (s : State) (p : Nat) :
    keepOf (startEpisode s p) = keepOf s := by
  unfold startEpisode
  dsimp only
  (repeat' split) <;> simp

@[simp] theorem againNak_keep (s : State) (p : Nat) :
    keepOf (againNak s p) = keepOf s := by
  unfold againNak
  simp

@[simp] theorem passToFabric_keep (s : State) (p arr : Nat) (f : Frame) :
    keepOf (passToFabric s p arr f) = keepOf s := by
  unfold passToFabric
  dsimp only
  (repeat' split) <;> simp

@[simp] theorem sendStored_keep (s : State) (fb bufs : Nat) (l : List FbFlit) :
    keepOf (sendStored s fb bufs l) = keepOf s := by
  unfold sendStored
  split <;> simp

@[simp] theorem waitFrame_keep (s : State) (p arr : Nat) (pass : Bool) (f : Frame) :
    keepOf (waitFrame s p arr pass f) = keepOf s := by
  unfold waitFrame
  simp

@[simp] theorem dataToFabric_keep (s : State) (p : Nat) (f : Frame) :
    keepOf (dataToFabric s p f) = keepOf s := by
  unfold dataToFabric
  dsimp only
  (repeat' split) <;> simp

@[simp] theorem noRoute_keep (s : State) (p : Nat) (seq : Nat) (f : Frame) :
    keepOf (noRoute s p seq f) = keepOf s := by
  unfold noRoute
  split <;> simp

@[simp] theorem passFenced_keep (s : State) (g m no arr : Nat) (f : Frame) :
    keepOf (passFenced s g m no arr f) = keepOf s := by
  unfold passFenced
  (try dsimp only)
  (repeat' split) <;> simp [keepOf_foldl]

@[simp] theorem transit_keep (s : State) (p arr : Nat) (seq : Nat) (f : Frame) :
    keepOf (transit s p arr seq f) = keepOf s := by
  unfold transit
  dsimp only
  (repeat' split) <;> simp

@[simp] theorem passOn_keep (s : State) (p : Nat) (i : RxItem) :
    keepOf (passOn s p i) = keepOf s := by
  unfold passOn
  dsimp only
  (repeat' split) <;> simp

@[simp] theorem class0Local_keep (s : State) (p arr : Nat) (f : Frame) :
    keepOf (class0Local s p arr f) = keepOf s := by
  unfold class0Local
  (repeat' split) <;> simp

@[simp] theorem handOn_keep (s : State) (p arr seq : Nat) (f : Frame) :
    keepOf (handOn s p arr seq f) = keepOf s := by
  unfold handOn
  split <;> simp

@[simp] theorem deliver_keep (s : State) (p : Nat) (l : List Byte) :
    keepOf (deliver s p l) = keepOf s := by
  unfold deliver
  dsimp only
  (repeat' split) <;> simp

@[simp] theorem overrun_keep (s : State) (p : Nat) (seq : Nat) :
    keepOf (overrun s p seq) = keepOf s := by
  unfold overrun
  simp

@[simp] theorem accept_keep (s : State) (p : Nat) (l : List Byte) :
    keepOf (accept s p l) = keepOf s := by
  unfold accept
  dsimp only
  (repeat' split) <;> simp

@[simp] theorem stompForwarded_keep (s : State) (p : Nat) (l : List Byte) :
    keepOf (stompForwarded s p l) = keepOf s := by
  unfold stompForwarded
  dsimp only
  (repeat' split) <;> simp

@[simp] theorem rxSequenced_keep (s : State) (p : Nat) (l : List Byte) :
    keepOf (rxSequenced s p l) = keepOf s := by
  unfold rxSequenced
  dsimp only
  (repeat' split) <;> simp

@[simp] theorem memberRestart_core (s : State) (p : Nat) (h : HelloP) :
    coreOf (keepOf (memberRestart s p h)) = coreOf (keepOf (s)) := by
  unfold memberRestart
  dsimp only
  (repeat' split) <;> simp [core_eta, kept_pending, kept_fuses, kept_fuseOp, kept_fuseWait, kept_cfg, kept_now, kept_chal, kept_inten]

@[simp] theorem takeHello_core (s : State) (p : Nat) (h : HelloP) :
    coreOf (keepOf (takeHello s p h)) = coreOf (keepOf (s)) := by
  unfold takeHello
  simp

@[simp] theorem goUp_keep (s : State) (p : Nat) :
    keepOf (goUp s p) = keepOf s := by
  unfold goUp
  simp

@[simp] theorem rxHello_core (s : State) (p : Nat) (seq : BitVec 12) (pl : List Byte) :
    coreOf (keepOf (rxHello s p seq pl)) = coreOf (keepOf (s)) := by
  unfold rxHello
  dsimp only
  (repeat' split) <;> simp

@[simp] theorem rxControl_core (s : State) (p : Nat) (l : List Byte) :
    coreOf (keepOf (rxControl s p l)) = coreOf (keepOf (s)) := by
  unfold rxControl
  dsimp only
  (repeat' split) <;> simp

@[simp] theorem rxFrame_core (s : State) (p : Nat) (w : WireFrame) :
    coreOf (keepOf (rxFrame s p w)) = coreOf (keepOf (s)) := by
  unfold rxFrame
  dsimp only
  (repeat' split) <;> simp

@[simp] theorem putData_keep (s : State) (p : Nat) (seq : BitVec 12) (f : Frame) (inserted : Bool) :
    keepOf (putData s p seq f inserted) = keepOf s := by
  unfold putData
  simp

@[simp] theorem sendResend_keep (s : State) (p : Nat) (f : SentFrame) :
    keepOf (sendResend s p f) = keepOf s := by
  unfold sendResend
  simp

@[simp] theorem sendNew_keep (s : State) (p : Nat) (cls : BitVec 2) :
    keepOf (sendNew s p cls) = keepOf s := by
  unfold sendNew
  dsimp only
  (repeat' split) <;> simp

@[simp] theorem sendOne_keep (s : State) (p : Nat) (cls : BitVec 2) :
    keepOf (sendOne s p cls) = keepOf s := by
  unfold sendOne
  dsimp only
  (repeat' split) <;> simp

@[simp] theorem putEntry_keep (s : State) (b e : Nat) (x : FenEntry) :
    keepOf (putEntry s b e x) = keepOf s := by
  unfold putEntry
  simp

@[simp] theorem queueScrub_keep (s : State) (l : List (Nat × Nat)) :
    keepOf (queueScrub s l) = keepOf s := by
  unfold queueScrub
  simp

@[simp] theorem putShadow_core (s : State) (b e : Nat) :
    coreOf (keepOf (putShadow s b e)) = coreOf (keepOf (s)) := by
  unfold putShadow
  simp [core_eta, kept_pending, kept_fuses, kept_fuseOp, kept_fuseWait, kept_cfg, kept_now, kept_chal, kept_inten]

@[simp] theorem blankShadow_core (s : State) (b : Nat) :
    coreOf (keepOf (blankShadow s b)) = coreOf (keepOf (s)) := by
  unfold blankShadow
  simp [core_eta, kept_pending, kept_fuses, kept_fuseOp, kept_fuseWait, kept_cfg, kept_now, kept_chal, kept_inten]

@[simp] theorem queueOp_keep (s : State) (b : Nat) (o : BankOp) (host : Bool) :
    keepOf (queueOp s b o host) = keepOf s := by
  unfold queueOp
  split <;> simp

@[simp] theorem popOp_keep (s : State) (b : Nat) :
    keepOf (popOp s b) = keepOf s := by
  unfold popOp
  simp

@[simp] theorem writeEntry_keep (s : State) (b e : Nat) (x : FenEntry) :
    keepOf (writeEntry s b e x) = keepOf s := by
  unfold writeEntry
  simp

@[simp] theorem mbxComplete_keep (s : State) (err : W16) (res : List W32) :
    keepOf (mbxComplete s err res) = keepOf s := by
  unfold mbxComplete
  simp

theorem mbxStart_keep (s : State) (opc : Byte) (a : MbxArgs) (k : State → State)
    (h : ∀ s, keepOf (k s) = keepOf s) : keepOf (mbxStart s opc a k) = keepOf s := by
  unfold mbxStart
  simp only []
  (repeat' split) <;> simp [h]

theorem mbxStart_core (s : State) (opc : Byte) (a : MbxArgs) (k : State → State)
    (h : ∀ s, coreOf (keepOf (k s)) = coreOf (keepOf s)) : coreOf (keepOf (mbxStart s opc a k)) = coreOf (keepOf s) := by
  unfold mbxStart
  simp only []
  (repeat' split) <;> simp [h, core_eta, kept_pending, kept_fuses, kept_fuseOp, kept_fuseWait, kept_cfg, kept_now, kept_chal, kept_inten]

@[simp] theorem mbxWait_keep (s : State) (r : Running) :
    keepOf (mbxWait s r) = keepOf s := by
  unfold mbxWait
  simp

@[simp] theorem mbxFinish_keep (s : State) (r : Running) (err : W16) (res : List W32) :
    keepOf (mbxFinish s r err res) = keepOf s := by
  unfold mbxFinish
  split <;> simp

@[simp] theorem dmaIssue_keep (s : State) (ch : Nat) (d : Dma) :
    ∀ t', dmaIssue s ch d = some t' → keepOf t' = keepOf s := by
  intro t h
  unfold dmaIssue at h
  obtain ⟨u, h1, h2⟩ := Option.bind_eq_some_iff.mp h
  have a : keepOf u = keepOf s := by
    split at h1
    · exact memIssue_keep _ _ _ _ _ _ h1
    · split at h1
      · exact conIssue_keep _ _ _ _ _ _ h1
      · cases h1; rfl
  rw [← a]
  split at h2
  · exact memIssue_keep _ _ _ _ _ _ h2
  · split at h2
    · exact conIssue_keep _ _ _ _ _ _ h2
    · cases h2; rfl

@[simp] theorem startDma_keep (s : State) (ch : Nat) :
    keepOf (startDma s ch) = keepOf s := by
  unfold startDma
  split
  · rfl
  · split
    · rfl
    · split
      · simp
      · split
        · rename_i h
          simpa using dmaIssue_keep _ _ _ _ h
        · rfl

@[simp] theorem queueDma_keep (s : State) (d : Dma) :
    keepOf (queueDma s d) = keepOf s := by
  unfold queueDma
  dsimp only
  (repeat' split) <;> simp

@[simp] theorem refillDma_keep (s : State) :
    keepOf (refillDma s) = keepOf s := by
  unfold refillDma
  simp [keepOf_foldl]

@[simp] theorem startMove_keep (s : State) (id : Nat) (dest : Home) (fromHost demand : Bool) (sig : Option (Nat × Nat × W32)) :
    keepOf (startMove s id dest fromHost demand sig).1 = keepOf s := by
  unfold startMove
  dsimp only
  (repeat' split) <;> simp

@[simp] theorem startLoadMove_keep (s : State) (id : Nat) (dest : Home) :
    keepOf (startLoadMove s id dest).1 = keepOf s := by
  unfold startLoadMove
  dsimp only
  (repeat' split) <;> simp

@[simp] theorem demandMove_keep (s : State) (id : Nat) (tenant : Nat) :
    keepOf (demandMove s id tenant) = keepOf s := by
  unfold demandMove
  dsimp only
  (repeat' split) <;> simp

@[simp] theorem sramWrite_keep (s : State) (r a : Nat) (l : List Byte) :
    keepOf (sramWrite s r a l) = keepOf s := by
  unfold sramWrite
  (try dsimp only)
  (repeat' split) <;> simp [keepOf_foldl]

@[simp] theorem sramRead_keep (s : State) (r a n : Nat) :
    keepOf (sramRead s r a n) = keepOf s := by
  unfold sramRead
  (try dsimp only)
  (repeat' split) <;> simp [keepOf_foldl]

@[simp] theorem fillRill_keep (s : State) (h : Home) (size : Nat) (data : List Byte) :
    keepOf (fillRill s h size data) = keepOf s := by
  unfold fillRill
  (try dsimp only)
  (repeat' split) <;> simp [keepOf_foldl]

@[simp] theorem loseObj_keep (s : State) (id : Nat) (status : W16) :
    keepOf (loseObj s id status) = keepOf s := by
  unfold loseObj
  dsimp only
  (repeat' split) <;> simp [keepOf_foldl]

@[simp] theorem noteMemory_keep (s : State) (status : W16) (tenant obj port addr dtag : Nat) :
    keepOf (noteMemory s status tenant obj port addr dtag) = keepOf s := by
  unfold noteMemory
  (try dsimp only)
  (repeat' split) <;> simp [keepOf_foldl]

@[simp] theorem refuseAdm_keep (s : State) (p : Nat) (f : Frame) (bufs : Nat) (status policy retry : W16) (discard : Bool) :
    keepOf (refuseAdm s p f bufs status policy retry discard) = keepOf s := by
  unfold refuseAdm
  split <;> simp

@[simp] theorem wakeSlow_keep (s : State) (f : Frame) (st : W16) :
    keepOf (wakeSlow s f st) = keepOf s := by
  unfold wakeSlow
  dsimp only
  (repeat' split) <;> simp

@[simp] theorem beginAdmission_keep (s : State) (p : Nat) :
    keepOf (beginAdmission s p) = keepOf s := by
  unfold beginAdmission
  dsimp only
  (repeat' split) <;> simp

@[simp] theorem takeFirst_keep (s : State) (p : Nat) (r : FirstResult) :
    keepOf (takeFirst s p r) = keepOf s := by
  unfold takeFirst
  dsimp only
  (repeat' split) <;> simp

@[simp] theorem dropAdm_keep (s : State) (a : Adm) :
    keepOf (dropAdm s a) = keepOf s := by
  unfold dropAdm
  simp

@[simp] theorem joinOriginal_keep (s : State) (a : Adm) (c : Nat) :
    keepOf (joinOriginal s a c) = keepOf s := by
  unfold joinOriginal
  simp

@[simp] theorem answerDuplicate_keep (s : State) (a : Adm) (e : ReqEntry) :
    keepOf (answerDuplicate s a e) = keepOf s := by
  unfold answerDuplicate
  simp

@[simp] theorem openStream_keep (s : State) (a : Adm) (c : Nat) :
    keepOf (openStream s a c) = keepOf s := by
  unfold openStream
  simp

@[simp] theorem finishAdmission_keep (s : State) (a : Adm) :
    keepOf (finishAdmission s a) = keepOf s := by
  unfold finishAdmission
  dsimp only
  (repeat' split) <;> simp

@[simp] theorem execAdmission_keep (p : Fin 64) (s : State) :
    ∀ t', execAdmission p s = .next t' → keepOf t' = keepOf s := by
  intro t' h
  unfold execAdmission at h
  rw [running_next] at h
  subst h
  (repeat' split) <;> simp

theorem takeResult_keep (s : State) (want : FenResult → Bool) (r : FenResult) (t : State) (h : takeResult s want = some (r, t)) :
    keepOf t = keepOf s := by
  unfold takeResult at h
  split at h
  · simp only [Option.map_eq_some_iff, Prod.mk.injEq] at h
    obtain ⟨_, _, _, rfl⟩ := h
    simp
  · cases h

@[simp] theorem execFenFirstMatchResult_keep (s : State) :
    ∀ t', execFenFirstMatchResult s = .next t' → keepOf t' = keepOf s := by
  intro t' h
  unfold execFenFirstMatchResult at h
  rw [running_next] at h
  subst h
  (repeat' split) <;> first | rfl | (rename_i h; simp [takeResult_keep _ _ _ _ h])

@[simp] theorem hedgeEnd_keep (s : State) (c : Nat) (status : W16) (k tok : Nat) :
    keepOf (hedgeEnd s c status k tok) = keepOf s := by
  unfold hedgeEnd
  simp

@[simp] theorem sendMask_keep (s : State) (c tok : Nat) :
    keepOf (sendMask s c tok) = keepOf s := by
  unfold sendMask
  dsimp only
  (repeat' split) <;> simp

@[simp] theorem readGrammar_keep (s : State) (c o : Nat) :
    keepOf (readGrammar s c o) = keepOf s := by
  unfold readGrammar
  split
  · rfl
  · cases h : memIssue s (objOf s o).home.loc.toNat (objOf s o).size false (.gram c) with
    | none => rfl
    | some t => exact memIssue_keep _ _ _ _ _ _ h

@[simp] theorem hedgeToken_keep (s : State) (c t : Nat) :
    keepOf (hedgeToken s c t) = keepOf s := by
  unfold hedgeToken
  dsimp only
  (repeat' split) <;> simp

@[simp] theorem closeWindow_keep (s : State) (c j : Nat) :
    keepOf (closeWindow s c j) = keepOf s := by
  unfold closeWindow
  dsimp only
  (repeat' split) <;> simp

@[simp] theorem closeFuel_keep (n : Nat) (s : State) (c : Nat) : keepOf (closeFuel n s c) = keepOf s := by
  induction n generalizing s with
  | zero => rfl
  | succ n ih => unfold closeFuel; simp only []; split <;> simp [ih]
@[simp] theorem advanceCascade_keep (s : State) (c : Nat) :
    keepOf (advanceCascade s c) = keepOf s := by
  unfold advanceCascade
  dsimp only
  (repeat' split) <;> simp

@[simp] theorem intakeRead_keep (s : State) (c : Nat) :
    keepOf (intakeRead s c) = keepOf s := by
  unfold intakeRead
  dsimp only
  (repeat' split) <;> simp

@[simp] theorem execIntakeLaneRead_keep (c : Fin 32768) (s : State) :
    ∀ t', execIntakeLaneRead c s = .next t' → keepOf t' = keepOf s := by
  intro t' h
  unfold execIntakeLaneRead at h
  rw [runningOn_next] at h
  subst h
  simp [keepOf_ite]

@[simp] theorem execMergeWave_keep (c : Fin 32768) (s : State) :
    ∀ t', execMergeWave c s = .next t' → keepOf t' = keepOf s := by
  intro t' h
  unfold execMergeWave at h
  try simp only [runningOn_next] at h
  subst h
  try simp [keepOf_ite]
  try repeat' split
  all_goals try simp

@[simp] theorem applyMatch_keep (s : State) (c tok : Nat) (hit : Nat × W32) :
    keepOf (applyMatch s c tok hit) = keepOf s := by
  unfold applyMatch
  dsimp only
  (repeat' split) <;> simp

@[simp] theorem takeCount_keep (s : State) (c tok : Nat) (hits : List (Nat × W32)) (err : Bool) :
    keepOf (takeCount s c tok hits err) = keepOf s := by
  unfold takeCount
  (repeat' split) <;> simp [keepOf_foldl]

@[simp] theorem execFenCountResult_keep (s : State) :
    ∀ t', execFenCountResult s = .next t' → keepOf t' = keepOf s := by
  intro t' h
  unfold execFenCountResult at h
  rw [running_next] at h
  subst h
  (repeat' split) <;> first | rfl | (rename_i h; simp [takeResult_keep _ _ _ _ h])

@[simp] theorem pushResult_keep (s : State) (pl : Nat) (r : FenResult) :
    keepOf (pushResult s pl r) = keepOf s := by
  unfold pushResult
  (try dsimp only)
  (repeat' split) <;> simp [keepOf_foldl]

@[simp] theorem execFenSearch_keep (pl : Fin 16) (s : State) :
    ∀ t', execFenSearch pl s = .next t' → keepOf t' = keepOf s := by
  intro t' h
  unfold execFenSearch at h
  rw [runningOn_next] at h
  subst h
  (repeat' split) <;> simp [keepOf_foldl]

@[simp] theorem putBlock_keep (s : State) (b : CounterBlock) :
    keepOf (putBlock s b) = keepOf s := by
  unfold putBlock
  simp

@[simp] theorem countRows_keep (s : State) (rill obj : Nat) (rows : List (Nat × RowCount)) :
    keepOf (countRows s rill obj rows) = keepOf s := by
  unfold countRows
  split <;> simp

@[simp] theorem countProgram_keep (s : State) (rills : List Nat) (obj : Nat) (rows : List (Nat × Nat × RowCount)) :
    keepOf (countProgram s rills obj rows) = keepOf s := by
  unfold countProgram
  simp [keepOf_foldl]

@[simp] theorem countBreach_keep (s : State) (rill obj tenant pt : Nat) (k : Breach) :
    keepOf (countBreach s rill obj tenant pt k) = keepOf s := by
  unfold countBreach
  simp

@[simp] theorem flushBlock_keep (s : State) (b : CounterBlock) :
    keepOf (flushBlock s b) = keepOf s := by
  unfold flushBlock
  split <;> simp

@[simp] theorem flushRill_keep (s : State) (rill : Nat) :
    keepOf (flushRill s rill) = keepOf s := by
  unfold flushRill
  simp [keepOf_foldl]

@[simp] theorem loseCounters_keep (s : State) (rill : Nat) :
    keepOf (loseCounters s rill) = keepOf s := by
  unfold loseCounters
  split <;> simp

@[simp] theorem markResident_keep (s : State) (h : Home) :
    keepOf (markResident s h) = keepOf s := by
  unfold markResident
  split <;> simp

@[simp] theorem ladderRill_keep (s : State) (n : Nat) :
    keepOf (ladderRill s n) = keepOf s := by
  unfold ladderRill
  dsimp only
  (repeat' split) <;> simp

@[simp] theorem evenRills_keep (s : State) (l : List Nat) :
    keepOf (evenRills s l) = keepOf s := by
  unfold evenRills
  simp [keepOf_foldl, keepOf_ite]

@[simp] theorem evenProgs_keep (s : State) :
    keepOf (evenProgs s) = keepOf s := by
  unfold evenProgs
  simp [keepOf_foldl]

@[simp] theorem applyLadder_keep (s : State) :
    keepOf (applyLadder s) = keepOf s := by
  unfold applyLadder
  split <;> simp [keepOf_foldl]

@[simp] theorem gatePlot_keep (s : State) (n : Nat) :
    keepOf (gatePlot s n) = keepOf s := by
  unfold gatePlot
  simp

@[simp] theorem heathGate_keep (s : State) (n : Nat) :
    keepOf (heathGate s n).1 = keepOf s := by
  unfold heathGate
  (repeat' split) <;> simp

@[simp] theorem gateCommand_keep (s : State) (n : Nat) :
    keepOf (gateCommand s n) = keepOf s := by
  unfold gateCommand
  simp

@[simp] theorem gateCommon_keep (s : State) (b : Nat) :
    keepOf (gateCommon s b) = keepOf s := by
  unfold gateCommon
  split <;> simp

@[simp] theorem moveOff_keep (n : Nat) (s : State) (id : Nat) :
    keepOf (moveOff n s id) = keepOf s := by
  unfold moveOff
  (repeat' split) <;> simp

@[simp] theorem drainStep_keep (s : State) (n : Nat) :
    keepOf (drainStep s n) = keepOf s := by
  unfold drainStep
  dsimp only
  (repeat' split) <;> simp [keepOf_foldl]

@[simp] theorem drainAll_keep (s : State) :
    keepOf (drainAll s) = keepOf s := by
  unfold drainAll
  simp [keepOf_foldl]

@[simp] theorem replace_keep (s : State) (n : Nat) :
    keepOf (replace s n) = keepOf s := by
  unfold replace
  simp

@[simp] theorem startDrain_keep (s : State) (n : Nat) :
    keepOf (startDrain s n) = keepOf s := by
  unfold startDrain
  simp

@[simp] theorem powerUp_keep (s : State) (n : Nat) :
    keepOf (powerUp s n) = keepOf s := by
  unfold powerUp
  dsimp only
  (repeat' split) <;> simp

@[simp] theorem deferPowerUp_keep (s : State) (n : Nat) :
    keepOf (deferPowerUp s n) = keepOf s := by
  unfold deferPowerUp
  simp

@[simp] theorem powerUpOrWait_keep (s : State) (n : Nat) :
    keepOf (powerUpOrWait s n) = keepOf s := by
  unfold powerUpOrWait
  split <;> simp

@[simp] theorem runPowerUps_keep (s : State) :
    keepOf (runPowerUps s) = keepOf s := by
  unfold runPowerUps
  split <;> simp [keepOf_foldl]

@[simp] theorem gateCompute_keep (s : State) :
    keepOf (gateCompute s) = keepOf s := by
  unfold gateCompute
  simp [keepOf_foldl]

@[simp] theorem cacheVerdict_keep (s : State) (c : Nat) (v : CachedVerdict) :
    keepOf (cacheVerdict s c v) = keepOf s := by
  unfold cacheVerdict
  simp

@[simp] theorem forwardTokens_keep (s : State) (c : Nat) :
    keepOf (forwardTokens s c) = keepOf s := by
  unfold forwardTokens
  (try dsimp only)
  (repeat' split) <;> simp [keepOf_foldl]

@[simp] theorem forwardRest_keep (s : State) (c : Nat) :
    keepOf (forwardRest s c) = keepOf s := by
  unfold forwardRest
  (try dsimp only)
  (repeat' split) <;> simp [keepOf_foldl]

@[simp] theorem forwardPrompt_keep (s : State) (c : Nat) (spans : List Span) :
    keepOf (forwardPrompt s c spans) = keepOf s := by
  unfold forwardPrompt
  dsimp only
  (repeat' split) <;> simp

@[simp] theorem execHedgeStep_keep (c : Fin 32768) (s : State) :
    ∀ t', execHedgeStep c s = .next t' → keepOf t' = keepOf s := by
  intro t' h
  unfold execHedgeStep at h
  try simp only [runningOn_next] at h
  subst h
  try simp [keepOf_ite]
  try repeat' split
  all_goals try simp

@[simp] theorem promptVerdict_keep (s : State) (c : Nat) :
    keepOf (promptVerdict s c) = keepOf s := by
  unfold promptVerdict
  dsimp only
  (repeat' split) <;> simp

@[simp] theorem promptPart_keep (s : State) (c : Nat) (o : ClassOut) :
    keepOf (promptPart s c o) = keepOf s := by
  unfold promptPart
  dsimp only
  (repeat' split) <;> simp

@[simp] theorem putEddy_keep (s : State) (c : Nat) (l : List EddyByte) (clear : Nat) :
    keepOf (putEddy s c l clear) = keepOf s := by
  unfold putEddy
  simp

@[simp] theorem sendMsgs_keep (n : Nat) (s : State) (c : Nat) (l : List EddyMsg) : keepOf (sendMsgs n s c l) = keepOf s := by
  induction n generalizing s l with
  | zero => rfl
  | succ n ih =>
    match l with
    | [] => rfl
    | .rec' r :: m => unfold sendMsgs; simp [ih]
    | .text _ :: m => unfold sendMsgs; simp [ih]
@[simp] theorem firstVerdict_keep (s : State) (c pos : Nat) (o : ClassOut) :
    keepOf (firstVerdict s c pos o) = keepOf s := by
  unfold firstVerdict
  dsimp only
  (repeat' split) <;> simp

@[simp] theorem endText_keep (s : State) (c : Nat) :
    keepOf (endText s c) = keepOf s := by
  unfold endText
  simp

@[simp] theorem deepVerdict_keep (s : State) (c snap : Nat) (o : ClassOut) :
    keepOf (deepVerdict s c snap o) = keepOf s := by
  unfold deepVerdict
  dsimp only
  (repeat' split) <;> simp

@[simp] theorem readWeights_keep (s : State) (no obj : Nat) :
    ∀ t', readWeights s no obj = some t' → keepOf t' = keepOf s := by
  intro t h
  unfold readWeights at h
  split at h
  · exact memIssue_keep _ _ _ _ _ _ h
  · cases h; rfl

@[simp] theorem useRill_keep (s : State) (n : Nat) :
    keepOf (useRill s n) = keepOf s := by
  unfold useRill
  (try dsimp only)
  (repeat' split) <;> simp [keepOf_foldl]

@[simp] theorem startProg_keep (s : State) (p : Prog) :
    ∀ t', startProg s p = some t' → keepOf t' = keepOf s := by
  intro t h
  unfold startProg at h
  simp only [Option.map_eq_some_iff] at h
  obtain ⟨u, h1, rfl⟩ := h
  rw [← readWeights_keep _ _ _ _ h1]
  simp [keepOf_foldl]

@[simp] theorem startFuel_keep (n : Nat) (s : State) (b : Nat) : keepOf (startFuel n s b) = keepOf s := by
  induction n generalizing s with
  | zero => rfl
  | succ n ih =>
    unfold startFuel
    split
    · rfl
    · dsimp only
      split
      · simp [ih]
      · split
        · simp [ih]
        · split
          · rfl
          · split
            · rfl
            · rename_i h
              rw [ih, startProg_keep _ _ _ h]
              simp

@[simp] theorem startQueued_keep (s : State) :
    keepOf (startQueued s) = keepOf s := by
  unfold startQueued
  simp [keepOf_foldl]

@[simp] theorem markWaited_keep (s : State) (j : Job) :
    keepOf (markWaited s j) = keepOf s := by
  unfold markWaited
  simp [keepOf_foldl]

@[simp] theorem demandJobs_keep (s : State) :
    keepOf (demandJobs s) = keepOf s := by
  unfold demandJobs
  apply keepOf_foldl
  intro s j
  (repeat' split) <;> simp

@[simp] theorem dispatch_keep (s : State) (l : List Nat) :
    keepOf (dispatch s l) = keepOf s := by
  unfold dispatch
  dsimp only
  (repeat' split) <;> simp

@[simp] theorem execRillDispatch_keep (rills : List (Fin 128)) (s : State) :
    ∀ t', execRillDispatch rills s = .next t' → keepOf t' = keepOf s := by
  intro t' h
  unfold execRillDispatch at h
  rw [running_next] at h
  subst h
  (repeat' split) <;> simp

@[simp] theorem rillDouble_keep (s : State) (rill bank word : Nat) :
    keepOf (rillDouble s rill bank word) = keepOf s := by
  unfold rillDouble
  (try dsimp only)
  (repeat' split) <;> simp [keepOf_foldl]

@[simp] theorem sramError_keep (s : State) (p : Prog) (e : SramErr) :
    keepOf (sramError s p e) = keepOf s := by
  unfold sramError
  (try dsimp only)
  (repeat' split) <;> simp [keepOf_foldl]

@[simp] theorem keepRun_keep (s : State) (p : Prog) (x : RillRun) (ev : Option (Nat × Breach)) :
    keepOf (keepRun s p x ev) = keepOf s := by
  unfold keepRun
  (try dsimp only)
  (repeat' split) <;> simp [keepOf_foldl]

@[simp] theorem writeBack_keep (s : State) (c pos : Nat) (points : List (Nat × List Nat)) (kv : List Host.Cell) :
    ∀ t', writeBack s c pos points kv = some t' → keepOf t' = keepOf s := by
  intro t h
  unfold writeBack at h
  simp only [] at h
  split at h
  · cases h
  · rename_i h1
    simp only [Option.map_eq_some_iff] at h
    obtain ⟨_, h2, rfl⟩ := h
    have a := memIssue_keep _ _ _ _ _ _ h1
    have b := memIssue_keep _ _ _ _ _ _ h2
    simpa [b] using a

@[simp] theorem stepOut_keep (s : State) (c pos : Nat) (points : List (Nat × List Nat)) (x : RillRun) (o : ProgOut) :
    keepOf (stepOut s c pos points x o) = keepOf s := by
  unfold stepOut
  split
  · rfl
  · split
    · rfl
    · rename_i h
      rw [firstVerdict_keep, writeBack_keep _ _ _ _ _ _ h]

@[simp] theorem stepDone_keep (s : State) (p : Prog) (c pos : Nat) (x : RillRun) (o : ProgOut) :
    keepOf (stepDone s p c pos x o) = keepOf s := by
  unfold stepDone
  (try dsimp only)
  (repeat' split) <;> simp [keepOf_foldl]

@[simp] theorem deepDone_keep (s : State) (l : List (Nat × Nat)) (startAt : Nat) (late : Bool) (o : ProgOut) :
    keepOf (deepDone s l startAt late o) = keepOf s := by
  unfold deepDone
  simp [keepOf_foldl, keepOf_ite]

@[simp] theorem jobDone_keep (s : State) (p : Prog) (x : RillRun) (o : ProgOut) :
    keepOf (jobDone s p x o) = keepOf s := by
  unfold jobDone
  split <;> simp

@[simp] theorem finishProg_keep (s : State) (p : Prog) (o : ProgOut) (r : RillRun × Option (Nat × Breach)) :
    keepOf (finishProg s p o r) = keepOf s := by
  unfold finishProg
  (try dsimp only)
  (repeat' split) <;> simp [keepOf_foldl]

@[simp] theorem execRillProgramComplete_keep (prog : Nat) (out : ProgOut) (s : State) :
    ∀ t', execRillProgramComplete prog out s = .next t' → keepOf t' = keepOf s := by
  intro t' h
  unfold execRillProgramComplete at h
  rw [running_next] at h
  subst h
  (repeat' split) <;> simp [keepOf_ite]

@[simp] theorem tokensCredit_keep (s : State) (f : Nat) :
    keepOf (tokensCredit s f) = keepOf s := by
  unfold tokensCredit
  split <;> simp

@[simp] theorem takeTokens_keep (s : State) (f tenant lport : Nat) (stag : W16) (ids : List Nat) :
    keepOf (takeTokens s f tenant lport stag ids) = keepOf s := by
  unfold takeTokens
  dsimp only
  (repeat' split) <;> simp

@[simp] theorem execFabricTokens_keep (fb : Fin 16) (tenant lport : BitVec 6) (stag : W16) (ids : List (BitVec 19)) (s : State) :
    ∀ t', execFabricTokens fb tenant lport stag ids s = .next t' → keepOf t' = keepOf s := by
  intro t' h
  unfold execFabricTokens at h
  rw [runningOn_next] at h
  subst h
  (repeat' split) <;> simp

@[simp] theorem trimBack_keep (s : State) (c : Nat) :
    keepOf (trimBack s c) = keepOf s := by
  unfold trimBack
  simp

@[simp] theorem outflow_keep (s : State) (c : Nat) :
    keepOf (outflow s c) = keepOf s := by
  unfold outflow
  dsimp only
  (repeat' split) <;> simp

@[simp] theorem execOutflowToken_keep (c : Fin 32768) (s : State) :
    ∀ t', execOutflowToken c s = .next t' → keepOf t' = keepOf s := by
  intro t' h
  unfold execOutflowToken at h
  rw [runningOn_next] at h
  subst h
  (repeat' split) <;> simp

@[simp] theorem makeBlock_keep (s : State) (c : Nat) :
    keepOf (makeBlock s c) = keepOf s := by
  unfold makeBlock
  split <;> simp

@[simp] theorem execFirstStageStep_keep (c : Fin 32768) (s : State) :
    ∀ t', execFirstStageStep c s = .next t' → keepOf t' = keepOf s := by
  intro t' h
  unfold execFirstStageStep at h
  rw [running_next] at h
  subst h
  split
  · rfl
  split
  · split
    · rfl
    · dsimp only
      split
      · rfl
      · rename_i h1
        split
        · rfl
        · rename_i h2
          have a := memIssue_keep _ _ _ _ _ _ h1
          have b := memIssue_keep _ _ _ _ _ _ h2
          rw [makeBlock_keep] at a
          simp [b, a]
  · rfl

@[simp] theorem execDeepTick_keep (t : Fin 64) (s : State) :
    ∀ t', execDeepTick t s = .next t' → keepOf t' = keepOf s := by
  intro t' h
  unfold execDeepTick at h
  rw [running_next] at h
  subst h
  simp [keepOf_foldl, keepOf_ite]

@[simp] theorem execDeepPassStart_keep (t : Fin 64) (k : Fin 5) (s : State) :
    ∀ t', execDeepPassStart t k s = .next t' → keepOf t' = keepOf s := by
  intro t' h
  unfold execDeepPassStart at h
  rw [running_next] at h
  subst h
  simp [keepOf_ite]

@[simp] theorem execDeepPassOverrun_keep (t : Fin 64) (k : Fin 5) (s : State) :
    ∀ t', execDeepPassOverrun t k s = .next t' → keepOf t' = keepOf s := by
  intro t' h
  unfold execDeepPassOverrun at h
  rw [running_next] at h
  subst h
  simp [keepOf_foldl, keepOf_ite]

@[simp] theorem execStreamDeadline_keep (c : Fin 32768) (s : State) :
    ∀ t', execStreamDeadline c s = .next t' → keepOf t' = keepOf s := by
  intro t' h
  unfold execStreamDeadline at h
  try simp only [running_next] at h
  subst h
  try simp [keepOf_ite]
  try repeat' split
  all_goals try simp

@[simp] theorem flashWrite_core (s : State) (a : Nat) (l : List Byte) :
    coreOf (keepOf (flashWrite s a l)) = coreOf (keepOf (s)) := by
  unfold flashWrite
  simp [core_eta, kept_pending, kept_fuses, kept_fuseOp, kept_fuseWait, kept_cfg, kept_now, kept_chal, kept_inten]

@[simp] theorem flashErase_core (s : State) (a n : Nat) :
    coreOf (keepOf (flashErase s a n)) = coreOf (keepOf (s)) := by
  unfold flashErase
  simp [core_eta, kept_pending, kept_fuses, kept_fuseOp, kept_fuseWait, kept_cfg, kept_now, kept_chal, kept_inten]

@[simp] theorem clearBank_core (s : State) (b : Nat) :
    coreOf (keepOf (clearBank s b)) = coreOf (keepOf (s)) := by
  unfold clearBank
  simp

@[simp] theorem loadBanks_core (s : State) (bs : List Nat) (l : List (Nat × FenEntry)) :
    coreOf (keepOf (loadBanks s bs l)) = coreOf (keepOf (s)) := by
  unfold loadBanks
  simp [coreOf_foldl]

@[simp] theorem placeObj_keep (s : State) (id : Nat) (e : ManEnt) (c : Content) (banks : List Nat) (who : W64 × W32) :
    keepOf (placeObj s id e c banks who) = keepOf s := by
  unfold placeObj
  (repeat' split) <;> simp

@[simp] theorem placeAll_keep (who : W64 × W32) (l : List (Nat × ManEnt × Content × List Nat)) (s : State) :
    keepOf (placeAll who l s) = keepOf s := by
  unfold placeAll
  simp [keepOf_foldl]

theorem bind_ok {α β : Type} {x : Checked α} {f : α → Checked β} {b : β} (h : (x >>= f) = .ok b) :
    ∃ a, x = .ok a ∧ f a = .ok b := by
  cases x with
  | error e => cases h
  | ok a => exact ⟨a, rfl, h⟩

theorem loadMoves_keep (l : List Nat) (s t : State) (h : loadMoves l s = .ok t) : keepOf t = keepOf s := by
  induction l generalizing s with
  | nil => cases h; rfl
  | cons x r ih =>
    unfold loadMoves at h
    obtain ⟨_, _, h⟩ := bind_ok h
    obtain ⟨_, _, h⟩ := bind_ok h
    rw [ih _ h]
    exact startLoadMove_keep s x (loadHome s x)

theorem reserveTables_keep (l : List Nat) (s t : State) (h : reserveTables l s = .ok t) : keepOf t = keepOf s := by
  induction l generalizing s with
  | nil => cases h; rfl
  | cons o r ih =>
    unfold reserveTables at h
    split at h
    · exact ih _ h
    · obtain ⟨_, _, h⟩ := bind_ok h
      rw [ih _ h]
      simp

theorem buildSet_core (s : State) (m : BaleImage) (hb : List Byte) (data : List (List Byte)) (t : State)
    (h : buildSet s m hb data = .ok t) : coreOf (keepOf t) = coreOf (keepOf s) := by
  unfold buildSet at h
  simp only [] at h
  iterate 10 obtain ⟨_, _, h⟩ := bind_ok h
  obtain ⟨s1, h1, h⟩ := bind_ok h
  obtain ⟨s2, h2, h⟩ := bind_ok h
  cases h
  have a := loadMoves_keep _ _ _ h1
  have a : keepOf s1 = keepOf s := by rw [a]; simp
  rw [← a, ← reserveTables_keep _ _ _ h2]
  generalize s2 = s3
  simp [coreOf_foldl, core_eta, kept_pending, kept_fuses, kept_fuseOp, kept_fuseWait, kept_cfg, kept_now, kept_chal, kept_inten]

@[simp] theorem readStage_keep (s : State) :
    keepOf (readStage s) = keepOf s := by
  unfold readStage
  split
  · rfl
  · split
    · rename_i h
      simpa using memIssue_keep _ _ _ _ _ _ h
    · rfl

@[simp] theorem discardBuild_core (s : State) :
    coreOf (keepOf (discardBuild s)) = coreOf (keepOf (s)) := by
  unfold discardBuild
  simp [coreOf_foldl, kept_pending, kept_fuses, kept_fuseOp, kept_fuseWait, kept_cfg, kept_now, kept_chal, kept_inten, core_eta]

@[simp] theorem closeLoad_core (s : State) (status : W16) (failed : List Nat) :
    coreOf (keepOf (closeLoad s status failed)) = coreOf (keepOf (s)) := by
  unfold closeLoad
  simp

@[simp] theorem failLoad_core (s : State) (status : W16) (failed : List Nat) :
    coreOf (keepOf (failLoad s status failed)) = coreOf (keepOf (s)) := by
  unfold failLoad
  dsimp only
  split <;> simp

@[simp] theorem readShard_keep (s : State) (h : BaleHdr) (i : Nat) :
    keepOf (readShard s h i) = keepOf s := by
  unfold readShard
  split
  · rename_i h; have := conIssue_keep _ _ _ _ _ _ h; simpa using this
  · rfl

@[simp] theorem readData_keep (s : State) (h : BaleHdr) :
    keepOf (readData s h) = keepOf s := by
  unfold readData
  simp [keepOf_foldl]

@[simp] theorem noteLost_keep (s : State) (h : BaleHdr) (failed : List Nat) :
    keepOf (noteLost s h failed) = keepOf s := by
  unfold noteLost
  simp

@[simp] theorem loadDone_core (s : State) :
    coreOf (keepOf (loadDone s)) = coreOf (keepOf (s)) := by
  unfold loadDone
  (repeat' split) <;> simp

@[simp] theorem endEnding_core (s : State) : coreOf (keepOf (endEnding s)) = coreOf (keepOf s) := by
  unfold endEnding
  split <;> simp

@[simp] theorem endLoad_core (s : State) :
    coreOf (keepOf (endLoad s)) = coreOf (keepOf (s)) := by
  unfold endLoad
  split
  · split
    · simp
    · split
      · simp
      · dsimp only
        split
        · simp
        · split
          · simp
          · split
            · simp
            · split
              · simp
              · simp
              · split
                · simp
                · rename_i h
                  have a := buildSet_core _ _ _ _ _ h
                  rw [readStage_keep, readData_keep] at a
                  rw [← a]
                  simp
  · rfl

@[simp] theorem enterTable_keep (s : State) (o : Nat) :
    keepOf (enterTable s o) = keepOf s := by
  unfold enterTable
  dsimp only
  (repeat' split) <;> simp

@[simp] theorem enterTables_keep (s : State) :
    keepOf (enterTables s) = keepOf s := by
  unfold enterTables
  simp [keepOf_foldl]

@[simp] theorem switchSets_keep (s : State) :
    keepOf (switchSets s) = keepOf s := by
  unfold switchSets
  simp

@[simp] theorem startLoad_core (s : State) (m : BaleImage) (base present : Nat) :
    coreOf (keepOf (startLoad s m base present)) = coreOf (keepOf s) := by
  unfold startLoad
  dsimp only
  (repeat' split) <;> simp

@[simp] theorem execBaleLoad_core (a : MbxArgs) (img : BaleImage) (s : State) :
    ∀ t', execBaleLoad a img s = .next t' → coreOf (keepOf t') = coreOf (keepOf s) := by
  intro t' h
  unfold execBaleLoad at h
  simp only [runningHw_next] at h
  subst h
  (repeat' split) <;> first
    | rfl
    | (refine mbxStart_core _ _ _ _ ?_; intros; (try dsimp only); (repeat' split) <;> simp)

@[simp] theorem execBaleLoadEnd_core (s : State) :
    ∀ t', execBaleLoadEnd s = .next t' → coreOf (keepOf (t')) = coreOf (keepOf (s)) := by
  intro t' h
  unfold execBaleLoadEnd at h
  rw [runningHw_next] at h
  subst h
  (repeat' split) <;> simp

@[simp] theorem execBaleCommit_keep (a : MbxArgs) (s : State) :
    ∀ t', execBaleCommit a s = .next t' → keepOf t' = keepOf s := by
  intro t' h
  unfold execBaleCommit at h
  rw [runningHw_next] at h
  subst h
  simp [keepOf_ite, mbxStart_keep]

@[simp] theorem execBaleAbort_core (a : MbxArgs) (s : State) :
    ∀ t', execBaleAbort a s = .next t' → coreOf (keepOf (t')) = coreOf (keepOf (s)) := by
  intro t' h
  unfold execBaleAbort at h
  simp only [runningHw_next] at h
  subst h
  (repeat' split) <;> first
    | rfl
    | (refine mbxStart_core _ _ _ _ ?_; intros; (try dsimp only); (repeat' split) <;> simp)

@[simp] theorem execBaleStatus_keep (a : MbxArgs) (s : State) :
    ∀ t', execBaleStatus a s = .next t' → keepOf t' = keepOf s := by
  intro t' h
  unfold execBaleStatus at h
  rw [runningHw_next] at h
  subst h
  (repeat' split) <;> simp [mbxStart_keep]

@[simp] theorem execSetEpochSwitch_keep (s : State) :
    ∀ t', execSetEpochSwitch s = .next t' → keepOf t' = keepOf s := by
  intro t' h
  unfold execSetEpochSwitch at h
  rw [runningHw_next] at h
  subst h
  (repeat' split) <;> simp

@[simp] theorem passMessage_keep (s : State) (f : Nat) (i : RxItem) :
    keepOf (passMessage s f i) = keepOf s := by
  unfold passMessage
  split <;> simp

@[simp] theorem grantPort_keep (s : State) (p : Nat) :
    keepOf (grantPort s p) = keepOf s := by
  unfold grantPort
  dsimp only
  (repeat' split) <;> simp

@[simp] theorem passSignals_keep (n : Nat) (s : State) (f : Nat) : keepOf (passSignals n s f) = keepOf s := by
  induction n generalizing s with
  | zero => rfl
  | succ n ih =>
    unfold passSignals
    split
    · split
      · simp [ih]
      · rfl
    · rfl

@[simp] theorem grantMessage_keep (s : State) (f : Nat) :
    keepOf (grantMessage s f) = keepOf s := by
  unfold grantMessage
  dsimp only
  (repeat' split) <;> simp

@[simp] theorem grantC0_keep (s : State) (g : Nat) (b : C0Buf) :
    keepOf (grantC0 s g b) = keepOf s := by
  unfold grantC0
  (try dsimp only)
  (repeat' split) <;> simp [keepOf_foldl]

@[simp] theorem grantTo_keep (s : State) (r : Nat) (b : C0Buf) :
    keepOf (grantTo s r b) = keepOf s := by
  unfold grantTo
  (repeat' split) <;> simp

@[simp] theorem execLnkLockRise_keep (p : Fin 64) (s : State) :
    ∀ t', execLnkLockRise p s = .next t' → keepOf t' = keepOf s := by
  intro t' h
  unfold execLnkLockRise at h
  rw [runningOn_next] at h
  subst h
  simp [keepOf_ite]

@[simp] theorem execLnkLockFall_keep (p : Fin 64) (s : State) :
    ∀ t', execLnkLockFall p s = .next t' → keepOf t' = keepOf s := by
  intro t' h
  unfold execLnkLockFall at h
  try simp only [runningOn_next] at h
  subst h
  try simp [keepOf_ite]
  try repeat' split
  all_goals try simp

@[simp] theorem execFecUncorrectable_keep (p : Fin 64) (s : State) :
    ∀ t', execFecUncorrectable p s = .next t' → keepOf t' = keepOf s := by
  intro t' h
  unfold execFecUncorrectable at h
  rw [runningOn_next] at h
  subst h
  (repeat' split) <;> simp

@[simp] theorem execHelloRepeat_keep (p : Fin 64) (s : State) :
    ∀ t', execHelloRepeat p s = .next t' → keepOf t' = keepOf s := by
  intro t' h
  unfold execHelloRepeat at h
  rw [runningOn_next] at h
  subst h
  simp [keepOf_ite]

@[simp] theorem execTrainingTimeout_keep (p : Fin 64) (s : State) :
    ∀ t', execTrainingTimeout p s = .next t' → keepOf t' = keepOf s := by
  intro t' h
  unfold execTrainingTimeout at h
  rw [runningOn_next] at h
  subst h
  simp [keepOf_ite]

@[simp] theorem execRetrainTimeout_keep (p : Fin 64) (s : State) :
    ∀ t', execRetrainTimeout p s = .next t' → keepOf t' = keepOf s := by
  intro t' h
  unfold execRetrainTimeout at h
  rw [runningOn_next] at h
  subst h
  simp [keepOf_ite]

@[simp] theorem resetLinkPort_keep (s : State) (p : Nat) :
    keepOf (resetLinkPort s p) = keepOf s := by
  unfold resetLinkPort
  simp

@[simp] theorem execFailedPortReset_keep (p : Fin 64) (s : State) :
    ∀ t', execFailedPortReset p s = .next t' → keepOf t' = keepOf s := by
  intro t' h
  unfold execFailedPortReset at h
  rw [runningHw_next] at h
  subst h
  simp [keepOf_ite]

@[simp] theorem execHello_core (p : Fin 64) (f : WireFrame) (s : State) :
    ∀ t', execHello p f s = .next t' → coreOf (keepOf (t')) = coreOf (keepOf (s)) := by
  intro t' h
  unfold execHello at h
  rw [runningOn_next] at h
  subst h
  (repeat' split) <;> simp

@[simp] theorem execDataFrame_core (p : Fin 64) (f : WireFrame) (s : State) :
    ∀ t', execDataFrame p f s = .next t' → coreOf (keepOf (t')) = coreOf (keepOf (s)) := by
  intro t' h
  unfold execDataFrame at h
  rw [runningOn_next] at h
  subst h
  (repeat' split) <;> simp

@[simp] theorem execStrayBodyFlit_keep (p : Fin 64) (s : State) :
    ∀ t', execStrayBodyFlit p s = .next t' → keepOf t' = keepOf s := by
  intro t' h
  unfold execStrayBodyFlit at h
  rw [runningOn_next] at h
  subst h
  (repeat' split) <;> simp

@[simp] theorem execAck_core (p : Fin 64) (f : WireFrame) (s : State) :
    ∀ t', execAck p f s = .next t' → coreOf (keepOf (t')) = coreOf (keepOf (s)) := by
  intro t' h
  unfold execAck at h
  rw [runningOn_next] at h
  subst h
  (repeat' split) <;> simp

@[simp] theorem execNak_core (p : Fin 64) (f : WireFrame) (s : State) :
    ∀ t', execNak p f s = .next t' → coreOf (keepOf (t')) = coreOf (keepOf (s)) := by
  intro t' h
  unfold execNak at h
  rw [runningOn_next] at h
  subst h
  (repeat' split) <;> simp

@[simp] theorem execCredit_core (p : Fin 64) (f : WireFrame) (s : State) :
    ∀ t', execCredit p f s = .next t' → coreOf (keepOf (t')) = coreOf (keepOf (s)) := by
  intro t' h
  unfold execCredit at h
  rw [runningOn_next] at h
  subst h
  (repeat' split) <;> simp

@[simp] theorem execReplayTimer_keep (p : Fin 64) (s : State) :
    ∀ t', execReplayTimer p s = .next t' → keepOf t' = keepOf s := by
  intro t' h
  unfold execReplayTimer at h
  try simp only [runningOn_next] at h
  subst h
  try simp [keepOf_ite]
  try repeat' split
  all_goals try simp

@[simp] theorem execEpisodeTimeout_keep (p : Fin 64) (s : State) :
    ∀ t', execEpisodeTimeout p s = .next t' → keepOf t' = keepOf s := by
  intro t' h
  unfold execEpisodeTimeout at h
  try simp only [runningOn_next] at h
  subst h
  try simp [keepOf_ite]
  try repeat' split
  all_goals try simp

@[simp] theorem execLinkFrameSend_keep (p : Fin 64) (cls : BitVec 2) (s : State) :
    ∀ t', execLinkFrameSend p cls s = .next t' → keepOf t' = keepOf s := by
  intro t' h
  unfold execLinkFrameSend at h
  rw [runningOn_next] at h
  subst h
  (repeat' split) <;> simp

@[simp] theorem execFencedHandover_keep (p : Fin 64) (s : State) :
    ∀ t', execFencedHandover p s = .next t' → keepOf t' = keepOf s := by
  intro t' h
  unfold execFencedHandover at h
  try simp only [runningOn_next] at h
  subst h
  try simp [keepOf_ite]
  try repeat' split
  all_goals try simp

@[simp] theorem execFencedRouteRelease_keep (m : Fin 64) (s : State) :
    ∀ t', execFencedRouteRelease m s = .next t' → keepOf t' = keepOf s := by
  intro t' h
  unfold execFencedRouteRelease at h
  rw [running_next] at h
  subst h
  (repeat' split) <;> simp [keepOf_foldl]

@[simp] theorem execClass0ReserveRelease_keep (e : Fin 80) (s : State) :
    ∀ t', execClass0ReserveRelease e s = .next t' → keepOf t' = keepOf s := by
  intro t' h
  unfold execClass0ReserveRelease at h
  rw [running_next] at h
  subst h
  (repeat' split) <;> simp [keepOf_ite]

@[simp] theorem execPoolAllocate_keep (s : State) :
    ∀ t', execPoolAllocate s = .next t' → keepOf t' = keepOf s := by
  intro t' h
  unfold execPoolAllocate at h
  try simp only [running_next] at h
  subst h
  try simp [keepOf_ite]
  try repeat' split
  all_goals try simp

@[simp] theorem holdFabric_keep (s : State) (f : Nat) :
    keepOf (holdFabric s f) = keepOf s := by
  unfold holdFabric
  dsimp only
  (repeat' split) <;> simp

@[simp] theorem resetFabric_keep (s : State) (f : Nat) (timer : Bool) :
    keepOf (resetFabric s f timer) = keepOf s := by
  unfold resetFabric
  simp [keepOf_foldl]
  rw [keepOf_foldl _ (fun s w => by split <;> simp)]

@[simp] theorem advertise_keep (s : State) (f : Nat) :
    keepOf (advertise s f) = keepOf s := by
  unfold advertise
  simp [keepOf_foldl]

@[simp] theorem releaseFabric_keep (s : State) (f : Nat) :
    keepOf (releaseFabric s f) = keepOf s := by
  unfold releaseFabric
  simp

@[simp] theorem takeFlit_keep (s : State) (f : Nat) (cls : BitVec 2) :
    keepOf (takeFlit s f cls) = keepOf s := by
  unfold takeFlit
  simp

@[simp] theorem sendPass_keep (s : State) (f : Nat) (x : Frame) :
    keepOf (sendPass s f x) = keepOf s := by
  unfold sendPass
  (repeat' split) <;> simp

@[simp] theorem execFabricPass_keep (fb : Fin 16) (tenant eng : BitVec 6) (csf : W16) (fence : Bool) (payload : List Byte) (s : State) :
    ∀ t', execFabricPass fb tenant eng csf fence payload s = .next t' → keepOf t' = keepOf s := by
  intro t' h
  unfold execFabricPass at h
  rw [runningOn_next] at h
  subst h
  (repeat' split) <;> simp

@[simp] theorem messageFlit_keep (s : State) (f : Nat) (m : OpenMsg) :
    keepOf (messageFlit s f m).1 = keepOf s := by
  unfold messageFlit
  (repeat' split) <;> simp

@[simp] theorem stompMessage_keep (s : State) (f : Nat) (m : OpenMsg) :
    keepOf (stompMessage s f m) = keepOf s := by
  unfold stompMessage
  (try dsimp only)
  (repeat' split) <;> simp [keepOf_foldl]

@[simp] theorem finishData_keep (s : State) (f : Nat) (m : OpenMsg) :
    keepOf (finishData s f m) = keepOf s := by
  unfold finishData
  dsimp only
  (repeat' split) <;> simp

@[simp] theorem dropMessage_keep (s : State) (f : Nat) (o : Option OpenMsg) : keepOf (dropMessage s f o) = keepOf s := by
  cases o with
  | none => rfl
  | some m =>
    unfold dropMessage
    simp only
    rw [telInc_keep]
    split <;> simp

@[simp] theorem execFabricData_keep (fb : Fin 16) (fl : DataFlit) (s : State) :
    ∀ t', execFabricData fb fl s = .next t' → keepOf t' = keepOf s := by
  intro t' h
  unfold execFabricData at h
  rw [runningOn_next] at h
  subst h
  split
  · rfl
  split
  · dsimp only
    split
    · rfl
    · have e : ∀ (s : State) (o : Option OpenMsg), keepOf (if fl.som = true then dropMessage s fb.val o else s) = keepOf s := by
        intro s o; split <;> first | exact dropMessage_keep _ _ _ | rfl
      split
      · rw [telInc_keep, fbCredit_keep, e, telInc_keep]
      · split
        · rw [finishData_keep, modFb_keep, messageFlit_keep, e, telInc_keep]
        · rw [modFb_keep, messageFlit_keep, e, telInc_keep]
  · rfl

@[simp] theorem execFabricFhcrcFail_keep (fb : Fin 16) (s : State) :
    ∀ t', execFabricFhcrcFail fb s = .next t' → keepOf t' = keepOf s := by
  intro t' h
  unfold execFabricFhcrcFail at h
  rw [runningOn_next] at h
  subst h
  (repeat' split) <;> simp

@[simp] theorem execFabricReservedFlit_keep (fb : Fin 16) (bad : BadFlit) (s : State) :
    ∀ t', execFabricReservedFlit fb bad s = .next t' → keepOf t' = keepOf s := by
  intro t' h
  unfold execFabricReservedFlit at h
  rw [runningOn_next] at h
  subst h
  (repeat' split) <;> simp [keepOf_ite]

@[simp] theorem activate_keep (s : State) (f : Nat) :
    keepOf (activate s f) = keepOf s := by
  unfold activate
  dsimp only
  (repeat' split) <;> simp

@[simp] theorem execFabricCreditReturn_keep (fb : Fin 16) (cls : BitVec 2) (cnt : Byte) (s : State) :
    ∀ t', execFabricCreditReturn fb cls cnt s = .next t' → keepOf t' = keepOf s := by
  intro t' h
  unfold execFabricCreditReturn at h
  rw [runningOn_next] at h
  subst h
  simp [keepOf_ite]

@[simp] theorem execFabricCreditTimeout_keep (fb : Fin 16) (s : State) :
    ∀ t', execFabricCreditTimeout fb s = .next t' → keepOf t' = keepOf s := by
  intro t' h
  unfold execFabricCreditTimeout at h
  rw [runningOn_next] at h
  subst h
  simp [keepOf_ite]

@[simp] theorem execFabricPortResetTimer_keep (fb : Fin 16) (s : State) :
    ∀ t', execFabricPortResetTimer fb s = .next t' → keepOf t' = keepOf s := by
  intro t' h
  unfold execFabricPortResetTimer at h
  rw [runningHw_next] at h
  subst h
  simp [keepOf_ite]

@[simp] theorem resetLink_keep (s : State) (p : Nat) :
    keepOf (resetLink s p) = keepOf s := by
  unfold resetLink
  dsimp only
  (repeat' split) <;> simp

@[simp] theorem execPortReset_keep (a : MbxArgs) (s : State) :
    ∀ t', execPortReset a s = .next t' → keepOf t' = keepOf s := by
  intro t' h
  unfold execPortReset at h
  rw [runningHw_next] at h
  subst h
  simp [keepOf_ite, mbxStart_keep]

@[simp] theorem execPortResetRelease_keep (fabric : Bool) (n : Nat) (s : State) :
    ∀ t', execPortResetRelease fabric n s = .next t' → keepOf t' = keepOf s := by
  intro t' h
  unfold execPortResetRelease at h
  rw [runningHw_next] at h
  subst h
  (repeat' split) <;> simp

@[simp] theorem drawBytes_keep (s : State) (n : Nat) : keepOf (drawBytes s n).2 = keepOf s := by
  induction n generalizing s with
  | zero => rfl
  | succ n ih => unfold drawBytes; simp [ih]

@[simp] theorem flashUnknown_core (s : State) (a n : Nat) :
    coreOf (keepOf (flashUnknown s a n)) = coreOf (keepOf (s)) := by
  unfold flashUnknown
  simp

@[simp] theorem cutFlash_core (s : State) (c : FlashCmd) :
    coreOf (keepOf (cutFlash s c)) = coreOf (keepOf (s)) := by
  unfold cutFlash
  split <;> simp

@[simp] theorem spoil_keep (s : State) (c : FlashCmd) :
    keepOf (spoil s c) = keepOf s := by
  unfold spoil
  (repeat' split) <;> simp

@[simp] theorem startFlash_keep (s : State) (c : FlashCmd) :
    keepOf (startFlash s c) = keepOf s := by
  unfold startFlash
  (try dsimp only)
  (repeat' split) <;> simp [keepOf_foldl]

@[simp] theorem flashNext_keep (s : State) :
    keepOf (flashNext s) = keepOf s := by
  unfold flashNext
  (repeat' split) <;> simp

@[simp] theorem mgmtSend_keep (s : State) (via : Option MgmtIn) (m : MgmtOut) :
    keepOf (mgmtSend s via m) = keepOf s := by
  unfold mgmtSend
  split <;> simp [keepOf_foldl]

@[simp] theorem endBank_keep (s : State) (st : W16) :
    keepOf (endBank s st) = keepOf s := by
  unfold endBank
  (repeat' split) <;> simp

@[simp] theorem startBank_keep (s : State) (pair pldm : Bool) (body t h m : List Byte) (len : Nat) :
    keepOf (startBank s pair pldm body t h m len) = keepOf s := by
  unfold startBank
  dsimp only
  (repeat' split) <;> simp

@[simp] theorem bankStage_keep (s : State) (st : BankStage) :
    keepOf (bankStage s st) = keepOf s := by
  unfold bankStage
  simp

@[simp] theorem bankDoneCmd_core (s : State) (w : BankWrite) (c : FlashCmd) (r : FlashRes) :
    coreOf (keepOf (bankDoneCmd s w c r)) = coreOf (keepOf (s)) := by
  unfold bankDoneCmd
  (repeat' split) <;> simp

@[simp] theorem reportDrops_keep (s : State) :
    keepOf (reportDrops s) = keepOf s := by
  unfold reportDrops
  split <;> simp

@[simp] theorem logDoneCmd_core (s : State) (c : FlashCmd) (r : FlashRes) :
    coreOf (keepOf (logDoneCmd s c r)) = coreOf (keepOf (s)) := by
  unfold logDoneCmd
  (repeat' split) <;> simp

@[simp] theorem askPiece_keep (s : State) :
    keepOf (askPiece s) = keepOf s := by
  unfold askPiece
  (repeat' split) <;> simp

@[simp] theorem flashDone_core (s : State) (r : FlashRes) :
    coreOf (keepOf (flashDone s r)) = coreOf (keepOf (s)) := by
  unfold flashDone
  dsimp only
  (repeat' split) <;> simp

@[simp] theorem cutBank_core (s : State) :
    coreOf (keepOf (cutBank s)) = coreOf (keepOf (s)) := by
  unfold cutBank
  dsimp only
  (repeat' split) <;> simp

@[simp] theorem abandonBank_core (s : State) :
    coreOf (keepOf (abandonBank s)) = coreOf (keepOf (s)) := by
  unfold abandonBank
  simp

@[simp] theorem cutFlashAll_core (s : State) :
    coreOf (keepOf (cutFlashAll s)) = coreOf (keepOf (s)) := by
  unfold cutFlashAll
  dsimp only
  (repeat' split) <;> simp

@[simp] theorem scanLog_keep (s : State) :
    keepOf (scanLog s) = keepOf s := by
  unfold scanLog
  simp

@[simp] theorem chooseRecord_core (s : State) :
    coreOf (keepOf (chooseRecord s)) = coreOf (keepOf (s)) := by
  unfold chooseRecord
  split <;> simp [core_eta, kept_pending, kept_fuses, kept_fuseOp, kept_fuseWait, kept_cfg, kept_now, kept_chal, kept_inten]

@[simp] theorem choosePair_core (s : State) :
    coreOf (keepOf (choosePair s)) = coreOf (keepOf (s)) := by
  unfold choosePair
  (repeat' split) <;> simp [core_eta, kept_pending, kept_fuses, kept_fuseOp, kept_fuseWait, kept_cfg, kept_now, kept_chal, kept_inten]

@[simp] theorem powerPlots_keep (s : State) :
    keepOf (powerPlots s) = keepOf s := by
  unfold powerPlots
  dsimp only
  (repeat' split) <;> simp [keepOf_foldl]

@[simp] theorem beginBoot_core (s : State) (sfdp : Sfdp) (warm : Bool) :
    coreOf (keepOf (beginBoot s sfdp warm)) = coreOf (keepOf (s)) := by
  unfold beginBoot
  simp [core_eta, kept_pending, kept_fuses, kept_fuseOp, kept_fuseWait, kept_cfg, kept_now, kept_chal, kept_inten]

@[simp] theorem ownView_core (s : State) :
    coreOf (keepOf (ownView s)) = coreOf (keepOf (s)) := by
  unfold ownView
  simp [core_eta, kept_pending, kept_fuses, kept_fuseOp, kept_fuseWait, kept_cfg, kept_now, kept_chal, kept_inten]

@[simp] theorem noteConfig_keep (s : State) (code : W16) (off given applied : Nat) :
    keepOf (noteConfig s code off given applied) = keepOf s := by
  unfold noteConfig
  simp

@[simp] theorem noteClamps_keep (s : State) :
    keepOf (noteClamps s) = keepOf s := by
  unfold noteClamps
  simp [keepOf_foldl, keepOf_ite]

@[simp] theorem noteBoot_keep (s : State) :
    keepOf (noteBoot s) = keepOf s := by
  unfold noteBoot
  split <;> simp [keepOf_foldl]

@[simp] theorem fillBuckets_keep (s : State) :
    keepOf (fillBuckets s) = keepOf s := by
  unfold fillBuckets
  simp

@[simp] theorem openPorts_keep (s : State) :
    keepOf (openPorts s) = keepOf s := by
  unfold openPorts
  simp [keepOf_foldl, keepOf_ite]

@[simp] theorem bootObjs_keep (s : State) :
    keepOf (bootObjs s) = keepOf s := by
  unfold bootObjs
  split <;> simp

@[simp] theorem heathSix_keep (s : State) (h : Nat) :
    keepOf (heathSix s h) = keepOf s := by
  unfold heathSix
  dsimp only
  (repeat' split) <;> simp

@[simp] theorem forceSix_keep (s : State) :
    keepOf (forceSix s) = keepOf s := by
  unfold forceSix
  simp [keepOf_foldl]

@[simp] theorem startFirmware_core (s : State) :
    coreOf (keepOf (startFirmware s)) = coreOf (keepOf (s)) := by
  unfold startFirmware
  dsimp only
  (repeat' split) <;> simp [core_eta, kept_pending, kept_fuses, kept_fuseOp, kept_fuseWait, kept_cfg, kept_now, kept_chal, kept_inten]

theorem fabricOp_keep (s : State) (fb : Nat) (k : State → State)
    (h : ∀ s, keepOf (k s) = keepOf s) : keepOf (fabricOp s fb k) = keepOf s := by
  unfold fabricOp
  split <;> simp [h]

theorem weirOp_keep (s : State) (fb : Nat) (tenant : BitVec 6) (op : OpBody) (opc : Byte) (k : State → Nat → State)
    (h : ∀ s n, keepOf (k s n) = keepOf s) : keepOf (weirOp s fb tenant op opc k) = keepOf s := by
  unfold weirOp
  refine fabricOp_keep _ _ _ ?_
  intro s
  dsimp only
  split <;> simp [h]

@[simp] theorem weirAnswer_keep (s : State) (fb : Nat) (tenant : BitVec 6) (op : OpBody) (opc : Byte) (w : Nat) (status : W16) :
    keepOf (weirAnswer s fb tenant op opc w status) = keepOf s := by
  unfold weirAnswer
  simp

@[simp] theorem execSignal_keep (fb : Fin 16) (tenant : BitVec 6) (op : OpBody) (s : State) :
    ∀ t', execSignal fb tenant op s = .next t' → keepOf t' = keepOf s := by
  intro t' h
  unfold execSignal at h
  simp only [running_next] at h
  subst h
  (repeat' split) <;> first
    | rfl
    | (refine weirOp_keep _ _ _ _ _ _ ?_; intros; (try dsimp only); (repeat' split) <;> simp)

@[simp] theorem execWait_keep (fb : Fin 16) (tenant : BitVec 6) (op : OpBody) (s : State) :
    ∀ t', execWait fb tenant op s = .next t' → keepOf t' = keepOf s := by
  intro t' h
  unfold execWait at h
  simp only [running_next] at h
  subst h
  (repeat' split) <;> first
    | rfl
    | (refine weirOp_keep _ _ _ _ _ _ ?_; intros; (try dsimp only); (repeat' split) <;> simp)

@[simp] theorem execDecrement_keep (fb : Fin 16) (tenant : BitVec 6) (op : OpBody) (s : State) :
    ∀ t', execDecrement fb tenant op s = .next t' → keepOf t' = keepOf s := by
  intro t' h
  unfold execDecrement at h
  simp only [running_next] at h
  subst h
  (repeat' split) <;> first
    | rfl
    | (refine weirOp_keep _ _ _ _ _ _ ?_; intros; (try dsimp only); (repeat' split) <;> simp)

@[simp] theorem execRead_keep (fb : Fin 16) (tenant : BitVec 6) (op : OpBody) (s : State) :
    ∀ t', execRead fb tenant op s = .next t' → keepOf t' = keepOf s := by
  intro t' h
  unfold execRead at h
  simp only [running_next] at h
  subst h
  (repeat' split) <;> first
    | rfl
    | (refine weirOp_keep _ _ _ _ _ _ ?_; intros; (try dsimp only); (repeat' split) <;> simp)

@[simp] theorem execSet_keep (fb : Fin 16) (tenant : BitVec 6) (op : OpBody) (s : State) :
    ∀ t', execSet fb tenant op s = .next t' → keepOf t' = keepOf s := by
  intro t' h
  unfold execSet at h
  simp only [running_next] at h
  subst h
  (repeat' split) <;> first
    | rfl
    | (refine weirOp_keep _ _ _ _ _ _ ?_; intros; (try dsimp only); (repeat' split) <;> simp)

@[simp] theorem execBind_keep (fb : Fin 16) (tenant : BitVec 6) (op : OpBody) (s : State) :
    ∀ t', execBind fb tenant op s = .next t' → keepOf t' = keepOf s := by
  intro t' h
  unfold execBind at h
  simp only [running_next] at h
  subst h
  (repeat' split) <;> first
    | rfl
    | (refine weirOp_keep _ _ _ _ _ _ ?_; intros; (try dsimp only); (repeat' split) <;> simp)

@[simp] theorem refuseRemote_keep (s : State) (fb : Nat) (tenant : BitVec 6) (op : OpBody) (opc : Byte) (status : W16) :
    keepOf (refuseRemote s fb tenant op opc status) = keepOf s := by
  unfold refuseRemote
  simp

@[simp] theorem launchSignal_keep (s : State) (fb : Nat) (tenant : BitVec 6) (op : OpBody) (opc : Byte) (seq : W32) :
    keepOf (launchSignal s fb tenant op opc seq) = keepOf s := by
  unfold launchSignal
  split <;> simp

@[simp] theorem execRemoteSignal_keep (fb : Fin 16) (tenant : BitVec 6) (op : OpBody) (s : State) :
    ∀ t', execRemoteSignal fb tenant op s = .next t' → keepOf t' = keepOf s := by
  intro t' h
  unfold execRemoteSignal at h
  simp only [running_next] at h
  subst h
  (repeat' split) <;> first
    | rfl
    | (refine fabricOp_keep _ _ _ ?_; intros; (try dsimp only); (repeat' split) <;> simp)

@[simp] theorem execResignal_keep (fb : Fin 16) (tenant : BitVec 6) (op : OpBody) (s : State) :
    ∀ t', execResignal fb tenant op s = .next t' → keepOf t' = keepOf s := by
  intro t' h
  unfold execResignal at h
  simp only [running_next] at h
  subst h
  (repeat' split) <;> first
    | rfl
    | (refine fabricOp_keep _ _ _ ?_; intros; (try dsimp only); (repeat' split) <;> simp)

@[simp] theorem sluiceRefuse_keep (s : State) (fb : Nat) (tenant : BitVec 6) (op : OpBody) (opc : Byte) (status : W16) (mask : W64) :
    keepOf (sluiceRefuse s fb tenant op opc status mask) = keepOf s := by
  unfold sluiceRefuse
  simp

@[simp] theorem sendArrivals_keep (s : State) (fb : Nat) (tenant : BitVec 6) (i : Nat) (gen : W16) (mask : W64) :
    keepOf (sendArrivals s fb tenant i gen mask) = keepOf s := by
  unfold sendArrivals
  simp [keepOf_foldl, keepOf_ite]

@[simp] theorem recordArrival_keep (s : State) (fb : Nat) (tenant : BitVec 6) (op : OpBody) :
    keepOf (recordArrival s fb tenant op) = keepOf s := by
  unfold recordArrival
  simp

@[simp] theorem execSluiceArrive_keep (fb : Fin 16) (tenant : BitVec 6) (op : OpBody) (s : State) :
    ∀ t', execSluiceArrive fb tenant op s = .next t' → keepOf t' = keepOf s := by
  intro t' h
  unfold execSluiceArrive at h
  rw [running_next] at h
  subst h
  simp [keepOf_ite, fabricOp_keep]

@[simp] theorem execSluiceWait_keep (fb : Fin 16) (tenant : BitVec 6) (op : OpBody) (s : State) :
    ∀ t', execSluiceWait fb tenant op s = .next t' → keepOf t' = keepOf s := by
  intro t' h
  unfold execSluiceWait at h
  rw [running_next] at h
  subst h
  simp [keepOf_ite, fabricOp_keep]

@[simp] theorem execFabricUnknownOperation_keep (fb : Fin 16) (tenant : BitVec 6) (opc : Byte) (op : OpBody) (s : State) :
    ∀ t', execFabricUnknownOperation fb tenant opc op s = .next t' → keepOf t' = keepOf s := by
  intro t' h
  unfold execFabricUnknownOperation at h
  rw [running_next] at h
  subst h
  (repeat' split) <;> simp [fabricOp_keep]

theorem takeHub_keep (s : State) (p : Nat) (code : Byte) (k : State → Nat → Frame → State)
    (h : ∀ s n f, keepOf (k s n f) = keepOf s) : keepOf (takeHub s p code k) = keepOf s := by
  unfold takeHub
  split
  · split <;> simp [h]
  · rfl

@[simp] theorem notCurrentLog_keep (s : State) (p : Nat) (f : Frame) (b : OpBody) :
    keepOf (notCurrentLog s p f b) = keepOf s := by
  unfold notCurrentLog
  simp

@[simp] theorem applySignal_keep (s : State) (p arr : Nat) (f : Frame) (b : OpBody) :
    keepOf (applySignal s p arr f b).1 = keepOf s := by
  unfold applySignal
  dsimp only
  (repeat' split) <;> simp

@[simp] theorem windowSignal_keep (s : State) (p arr : Nat) (f : Frame) (b : OpBody) :
    keepOf (windowSignal s p arr f b).1 = keepOf s := by
  unfold windowSignal
  dsimp only
  (repeat' split) <;> simp

@[simp] theorem execLinkSignal_keep (p : Fin 64) (s : State) :
    ∀ t', execLinkSignal p s = .next t' → keepOf t' = keepOf s := by
  intro t' h
  unfold execLinkSignal at h
  rw [running_next] at h
  subst h
  simp [keepOf_ite, takeHub_keep]

@[simp] theorem lateCompletion_keep (s : State) :
    keepOf (lateCompletion s) = keepOf s := by
  unfold lateCompletion
  simp

@[simp] theorem execLinkAck_keep (p : Fin 64) (s : State) :
    ∀ t', execLinkAck p s = .next t' → keepOf t' = keepOf s := by
  intro t' h
  unfold execLinkAck at h
  simp only [running_next] at h
  subst h
  (repeat' split) <;> first
    | rfl
    | (refine takeHub_keep _ _ _ _ ?_; intros; (try dsimp only); (repeat' split) <;> simp)

@[simp] theorem execLinkArrive_keep (p : Fin 64) (s : State) :
    ∀ t', execLinkArrive p s = .next t' → keepOf t' = keepOf s := by
  intro t' h
  unfold execLinkArrive at h
  simp only [running_next] at h
  subst h
  (repeat' split) <;> first
    | rfl
    | (refine takeHub_keep _ _ _ _ ?_; intros; (try dsimp only); (repeat' split) <;> simp)

@[simp] theorem execLinkReject_keep (p : Fin 64) (s : State) :
    ∀ t', execLinkReject p s = .next t' → keepOf t' = keepOf s := by
  intro t' h
  unfold execLinkReject at h
  rw [running_next] at h
  subst h
  simp [keepOf_ite, takeHub_keep]

@[simp] theorem countTimeout_keep (s : State) (t : BitVec 6) :
    keepOf (countTimeout s t) = keepOf s := by
  unfold countTimeout
  simp

@[simp] theorem expireWeir_keep (s : State) (w : Nat) :
    keepOf (expireWeir s w) = keepOf s := by
  unfold expireWeir
  dsimp only
  (repeat' split) <;> simp [keepOf_foldl]

@[simp] theorem expireSluice_keep (s : State) (i : Nat) :
    keepOf (expireSluice s i) = keepOf s := by
  unfold expireSluice
  simp [keepOf_foldl]

@[simp] theorem expireTag_keep (s : State) (t : Nat) :
    keepOf (expireTag s t) = keepOf s := by
  unfold expireTag
  (repeat' split) <;> simp

@[simp] theorem execWaiterDeadline_keep (s : State) :
    ∀ t', execWaiterDeadline s = .next t' → keepOf t' = keepOf s := by
  intro t' h
  unfold execWaiterDeadline at h
  rw [running_next] at h
  subst h
  (repeat' split) <;> simp [keepOf_foldl]

@[simp] theorem execSluiceArrivalDeadline_keep (sl : Fin 256) (s : State) :
    ∀ t', execSluiceArrivalDeadline sl s = .next t' → keepOf t' = keepOf s := by
  intro t' h
  unfold execSluiceArrivalDeadline at h
  try simp only [running_next] at h
  subst h
  try simp [keepOf_ite]
  try repeat' split
  all_goals try simp

@[simp] theorem execVisibilityHoldRelease_keep (fb : Fin 16) (s : State) :
    ∀ t', execVisibilityHoldRelease fb s = .next t' → keepOf t' = keepOf s := by
  intro t' h
  unfold execVisibilityHoldRelease at h
  rw [running_next] at h
  subst h
  (repeat' split) <;> simp

@[simp] theorem execTagQuarantineExpiry_keep (s : State) :
    ∀ t', execTagQuarantineExpiry s = .next t' → keepOf t' = keepOf s := by
  intro t' h
  unfold execTagQuarantineExpiry at h
  rw [running_next] at h
  subst h
  (repeat' split) <;> simp

@[simp] theorem selectDetail_keep (s : State) (data : W32) :
    keepOf (selectDetail s data) = keepOf s := by
  unfold selectDetail
  split <;> simp

@[simp] theorem execWeirDselWrite_keep (data : W32) (s : State) :
    ∀ t', execWeirDselWrite data s = .next t' → keepOf t' = keepOf s := by
  intro t' h
  unfold execWeirDselWrite at h
  rw [running_next] at h
  subst h
  (repeat' split) <;> simp

@[simp] theorem setMemTag_keep (s : State) (mp t : Nat) (x : TagState) :
    keepOf (setMemTag s mp t x) = keepOf s := by
  unfold setMemTag
  simp

@[simp] theorem setConTag_keep (s : State) (t : Nat) (x : TagState) :
    keepOf (setConTag s t x) = keepOf s := by
  unfold setConTag
  simp

@[simp] theorem shadowAnswered_keep (s : State) (b : Nat) (st : W16) :
    keepOf (shadowAnswered s b st) = keepOf s := by
  unfold shadowAnswered
  simp

@[simp] theorem dmaFailed_keep (s : State) (ch : Nat) (st : W16) (wr : Bool) :
    keepOf (dmaFailed s ch st wr) = keepOf s := by
  unfold dmaFailed
  simp

@[simp] theorem loseStreams_keep (s : State) (no : Nat) (st : W16) :
    keepOf (loseStreams s no st) = keepOf s := by
  unfold loseStreams
  simp [keepOf_foldl]

@[simp] theorem blockFailed_keep (s : State) (c : Nat) :
    keepOf (blockFailed s c) = keepOf s := by
  unfold blockFailed
  simp

@[simp] theorem requestFailed_core (s : State) (who : Issuer) (st : W16) (wr : Bool) :
    coreOf (keepOf (requestFailed s who st wr)) = coreOf (keepOf (s)) := by
  unfold requestFailed
  (repeat' split) <;> simp

@[simp] theorem flushDma_keep (s : State) (ch : Nat) : keepOf (flushDma s ch) = keepOf s := by
  unfold flushDma
  split
  · rfl
  · split
    · rfl
    · split
      · rfl
      · rename_i h
        simpa using conIssue_keep _ _ _ _ _ _ h

@[simp] theorem requestDone_keep (s : State) (who : Issuer) (wr : Bool) :
    keepOf (requestDone s who wr) = keepOf s := by
  unfold requestDone
  (repeat' split) <;> simp

@[simp] theorem memNext_keep (s : State) (mp t : Nat) (who : Issuer) (wr : Bool) :
    keepOf (memNext s mp t who wr) = keepOf s := by
  unfold memNext
  (try dsimp only)
  (repeat' split) <;> simp [keepOf_foldl]

@[simp] theorem conNext_keep (s : State) (t : Nat) (who : Issuer) (wr : Bool) :
    keepOf (conNext s t who wr) = keepOf s := by
  unfold conNext
  (try dsimp only)
  (repeat' split) <;> simp [keepOf_foldl]

@[simp] theorem strayMem_keep (s : State) (mp t : Nat) (last : Bool) :
    keepOf (strayMem s mp t last) = keepOf s := by
  unfold strayMem
  dsimp only
  (repeat' split) <;> simp

@[simp] theorem execMemoryReadResponse_core (mp : Fin 8) (tag : BitVec 11) (last err : Bool) (s : State) :
    ∀ t', execMemoryReadResponse mp tag last err s = .next t' → coreOf (keepOf (t')) = coreOf (keepOf (s)) := by
  intro t2 h
  unfold execMemoryReadResponse at h
  try simp only [overFord_next] at h
  subst h
  try simp [keepOf_ite, kept_boot]
  try repeat' split
  all_goals try simp

@[simp] theorem execMemoryWriteResponse_core (mp : Fin 8) (tag : BitVec 11) (err : Bool) (s : State) :
    ∀ t', execMemoryWriteResponse mp tag err s = .next t' → coreOf (keepOf (t')) = coreOf (keepOf (s)) := by
  intro t2 h
  unfold execMemoryWriteResponse at h
  try simp only [overFord_next] at h
  subst h
  try simp [keepOf_ite, kept_boot]
  try repeat' split
  all_goals try simp

@[simp] theorem strayCon_keep (s : State) (t : Nat) (last : Bool) :
    keepOf (strayCon s t last) = keepOf s := by
  unfold strayCon
  dsimp only
  (repeat' split) <;> simp

@[simp] theorem execContentCompletion_core (tag : BitVec 9) (last : Bool) (status : BitVec 3) (s : State) :
    ∀ t', execContentCompletion tag last status s = .next t' → coreOf (keepOf (t')) = coreOf (keepOf (s)) := by
  intro t2 h
  unfold execContentCompletion at h
  try simp only [overFord_next] at h
  subst h
  try simp [keepOf_ite, kept_boot]
  try repeat' split
  all_goals try simp

@[simp] theorem execContentWriteAck_keep (tag : BitVec 9) (s : State) :
    ∀ t', execContentWriteAck tag s = .next t' → keepOf t' = keepOf s := by
  intro t' h
  unfold execContentWriteAck at h
  try simp only [overFord_next] at h
  subst h
  try simp [keepOf_ite]
  try repeat' split
  all_goals try simp

@[simp] theorem execCompletionTimeout_core (t : ReqTag) (s : State) :
    ∀ t', execCompletionTimeout t s = .next t' → coreOf (keepOf (t')) = coreOf (keepOf (s)) := by
  intro t' h
  unfold execCompletionTimeout at h
  rw [runningHw_next] at h
  subst h
  (repeat' split) <;> simp

@[simp] theorem dmaSignal_keep (s : State) (ch : Nat) (d : Dma) :
    keepOf (dmaSignal s ch d).1 = keepOf s := by
  unfold dmaSignal
  (repeat' split) <;> simp

@[simp] theorem switchHome_keep (s : State) (id : Nat) (data : List Byte) :
    keepOf (switchHome s id data) = keepOf s := by
  unfold switchHome
  dsimp only
  (repeat' split) <;> simp

@[simp] theorem moveBack_keep (s : State) (id : Nat) :
    keepOf (moveBack s id) = keepOf s := by
  unfold moveBack
  simp

@[simp] theorem noteWrite_keep (s : State) (id : Nat) (d : Dma) (st : W16) :
    keepOf (noteWrite s id d st) = keepOf s := by
  unfold noteWrite
  (try dsimp only)
  (repeat' split) <;> simp [keepOf_foldl]

@[simp] theorem dmaObject_keep (s : State) (id : Nat) (d : Dma) (r : DmaRes) :
    keepOf (dmaObject s id d r).1 = keepOf s := by
  unfold dmaObject
  dsimp only
  (repeat' split) <;> simp

@[simp] theorem endDma_core (s : State) (ch : Nat) (d : Dma) (rest : List Dma) (r : DmaRes) :
    coreOf (keepOf (endDma s ch d rest r)) = coreOf (keepOf s) := by
  unfold endDma
  dsimp only
  (repeat' split) <;> simp

@[simp] theorem execDmaTransferComplete_core (ch : Fin 16) (r : DmaRes) (s : State) :
    ∀ t', execDmaTransferComplete ch r s = .next t' → coreOf (keepOf t') = coreOf (keepOf s) := by
  intro t' h
  unfold execDmaTransferComplete at h
  rw [runningOn_next] at h
  subst h
  (repeat' split) <;> simp

@[simp] theorem execMoveSourceFree_keep (obj : Nat) (s : State) :
    ∀ t', execMoveSourceFree obj s = .next t' → keepOf t' = keepOf s := by
  intro t' h
  unfold execMoveSourceFree at h
  rw [runningHw_next] at h
  subst h
  (repeat' split) <;> simp

@[simp] theorem restoreMask_keep (s : State) (n : Nat) :
    keepOf (restoreMask s n) = keepOf s := by
  unfold restoreMask
  dsimp only
  (repeat' split) <;> simp

@[simp] theorem reloadObj_keep (s : State) (id : Nat) (data : List Byte) :
    keepOf (reloadObj s id data) = keepOf s := by
  unfold reloadObj
  dsimp only
  (repeat' split) <;> simp

@[simp] theorem noteUnread_keep (s : State) (o : Obj) (f : List Nat) :
    keepOf (noteUnread s o f) = keepOf s := by
  unfold noteUnread
  (try dsimp only)
  (repeat' split) <;> simp [keepOf_foldl]

@[simp] theorem execObjectReload_keep (obj : Nat) (img : BaleImage) (unread : List Nat) (s : State) :
    ∀ t', execObjectReload obj img unread s = .next t' → keepOf t' = keepOf s := by
  intro t' h
  unfold execObjectReload at h
  try simp only [runningHw_next] at h
  subst h
  try simp [keepOf_ite]
  try repeat' split
  all_goals try simp

@[simp] theorem execObjQuery_keep (a : MbxArgs) (s : State) :
    ∀ t', execObjQuery a s = .next t' → keepOf t' = keepOf s := by
  intro t' h
  unfold execObjQuery at h
  rw [runningHw_next] at h
  subst h
  (repeat' split) <;> simp [mbxStart_keep]

@[simp] theorem execObjMove_keep (a : MbxArgs) (s : State) :
    ∀ t', execObjMove a s = .next t' → keepOf t' = keepOf s := by
  intro t' h
  unfold execObjMove at h
  simp only [runningHw_next] at h
  subst h
  (repeat' split) <;> first
    | rfl
    | (refine mbxStart_keep _ _ _ _ ?_; intros; (try dsimp only); (repeat' split) <;> simp)

@[simp] theorem execSlowGrant_keep (a : MbxArgs) (s : State) :
    ∀ t', execSlowGrant a s = .next t' → keepOf t' = keepOf s := by
  intro t' h
  unfold execSlowGrant at h
  simp only [runningHw_next] at h
  subst h
  (repeat' split) <;> first
    | rfl
    | (refine mbxStart_keep _ _ _ _ ?_; intros; (try dsimp only); (repeat' split) <;> simp)

@[simp] theorem execSlowRelease_keep (a : MbxArgs) (s : State) :
    ∀ t', execSlowRelease a s = .next t' → keepOf t' = keepOf s := by
  intro t' h
  unfold execSlowRelease at h
  rw [runningHw_next] at h
  subst h
  simp [keepOf_ite, mbxStart_keep]

@[simp] theorem noteCurrent_keep (s : State) (n mA : Nat) :
    keepOf (noteCurrent s n mA) = keepOf s := by
  unfold noteCurrent
  simp

@[simp] theorem execHeathCurrentStretch_keep (n : Fin 128) (mA : Nat) (s : State) :
    ∀ t', execHeathCurrentStretch n mA s = .next t' → keepOf t' = keepOf s := by
  intro t' h
  unfold execHeathCurrentStretch at h
  rw [runningHw_next] at h
  subst h
  simp [keepOf_ite]

@[simp] theorem execStretchRelease_keep (n : Fin 128) (s : State) :
    ∀ t', execStretchRelease n s = .next t' → keepOf t' = keepOf s := by
  intro t' h
  unfold execStretchRelease at h
  rw [runningHw_next] at h
  subst h
  simp [keepOf_ite]

@[simp] theorem markFaulty_keep (s : State) (p : Nat) :
    keepOf (markFaulty s p) = keepOf s := by
  unfold markFaulty
  split <;> simp

@[simp] theorem markBadCurr_keep (s : State) (p : Nat) :
    keepOf (markBadCurr s p) = keepOf s := by
  unfold markBadCurr
  split <;> simp

@[simp] theorem takeReading_keep (s : State) (x : Nat × Int) :
    keepOf (takeReading s x) = keepOf s := by
  unfold takeReading
  dsimp only
  (repeat' split) <;> simp

@[simp] theorem takeReadings_keep (s : State) (o : ThermalObs) :
    keepOf (takeReadings s o) = keepOf s := by
  unfold takeReadings
  dsimp only
  (repeat' split) <;> simp [keepOf_foldl, keepOf_ite]

@[simp] theorem heathTick_keep (up down : Bool) (s : State) (h : Nat) :
    keepOf (heathTick up down s h) = keepOf s := by
  unfold heathTick
  dsimp only
  (repeat' split) <;> simp

@[simp] theorem stepSeven_keep (before : List Nat) (s : State) (h : Nat) :
    keepOf (stepSeven before s h) = keepOf s := by
  unfold stepSeven
  simp [keepOf_foldl, keepOf_ite]

@[simp] theorem execThrottleStepTick_keep (obs : ThermalObs) (s : State) :
    ∀ t', execThrottleStepTick obs s = .next t' → keepOf t' = keepOf s := by
  intro t' h
  unfold execThrottleStepTick at h
  rw [runningHw_next] at h
  subst h
  (repeat' split) <;> simp [keepOf_foldl, keepOf_ite]

@[simp] theorem ackPower_keep (s : State) :
    keepOf (ackPower s) = keepOf s := by
  unfold ackPower
  split <;> simp

@[simp] theorem watchRails_keep (s : State) :
    keepOf (watchRails s) = keepOf s := by
  unfold watchRails
  simp

@[simp] theorem takePower_keep (s : State) (obs : PowerObs) :
    keepOf (takePower s obs) = keepOf s := by
  unfold takePower
  simp [keepOf_foldl, keepOf_ite]

@[simp] theorem execPowerEstimate_keep (obs : PowerObs) (s : State) :
    ∀ t', execPowerEstimate obs s = .next t' → keepOf t' = keepOf s := by
  intro t' h
  unfold execPowerEstimate at h
  rw [runningHw_next] at h
  subst h
  (repeat' split) <;> (try dsimp only) <;> (repeat' split) <;> simp

@[simp] theorem logTrip_keep (s : State) (site : Nat) :
    keepOf (logTrip s site) = keepOf s := by
  unfold logTrip
  split <;> simp

@[simp] theorem execThermalTrip_keep (site : Fin 160) (s : State) :
    ∀ t', execThermalTrip site s = .next t' → keepOf t' = keepOf s := by
  intro t' h
  unfold execThermalTrip at h
  rw [runningHw_next] at h
  subst h
  (repeat' split) <;> simp

@[simp] theorem execTripClear_keep (s : State) :
    ∀ t', execTripClear s = .next t' → keepOf t' = keepOf s := by
  intro t' h
  unfold execTripClear at h
  rw [runningHw_next] at h
  subst h
  (repeat' split) <;> simp

@[simp] theorem execPowerGrantChange_keep (w : BitVec 7) (s : State) :
    ∀ t', execPowerGrantChange w s = .next t' → keepOf t' = keepOf s := by
  intro t' h
  unfold execPowerGrantChange at h
  cases h
  simp [keepOf_ite]

@[simp] theorem suspendErase_keep (s : State) :
    keepOf (suspendErase s) = keepOf s := by
  unfold suspendErase
  split <;> simp

@[simp] theorem execSagEntry_keep (s : State) :
    ∀ t', execSagEntry s = .next t' → keepOf t' = keepOf s := by
  intro t' h
  unfold execSagEntry at h
  rw [runningHw_next] at h
  subst h
  (repeat' split) <;> simp

@[simp] theorem execBrookLockLost_keep (b : Fin 36) (s : State) :
    ∀ t', execBrookLockLost b s = .next t' → keepOf t' = keepOf s := by
  intro t' h
  unfold execBrookLockLost at h
  rw [alive_next] at h
  subst h
  (repeat' split) <;> simp

@[simp] theorem openFords_keep (s : State) :
    keepOf (openFords s) = keepOf s := by
  unfold openFords
  simp [keepOf_foldl]

@[simp] theorem resumeTraffic_keep (s : State) :
    keepOf (resumeTraffic s) = keepOf s := by
  unfold resumeTraffic
  simp [keepOf_foldl, keepOf_ite]

@[simp] theorem execBrookLockRegained_keep (b : Fin 36) (s : State) :
    ∀ t', execBrookLockRegained b s = .next t' → keepOf t' = keepOf s := by
  intro t' h
  unfold execBrookLockRegained at h
  rw [alive_next] at h
  subst h
  (repeat' split) <;> simp

@[simp] theorem loseProgs_keep (s : State) (n : Nat) :
    keepOf (loseProgs s n) = keepOf s := by
  unfold loseProgs
  simp [keepOf_foldl]

@[simp] theorem dropMoves_keep (s : State) (n : Nat) :
    keepOf (dropMoves s n) = keepOf s := by
  unfold dropMoves
  simp

@[simp] theorem rillFault_keep (s : State) (n : Nat) :
    keepOf (rillFault s n) = keepOf s := by
  unfold rillFault
  simp [keepOf_foldl]

@[simp] theorem execPlotSupplyFault_core (pl : Fin 160) (s : State) :
    ∀ t', execPlotSupplyFault pl s = .next t' → coreOf (keepOf (t')) = coreOf (keepOf (s)) := by
  intro t' h
  unfold execPlotSupplyFault at h
  rw [runningHw_next] at h
  subst h
  (repeat' split) <;> simp [coreOf_foldl, kept_pending, kept_fuses, kept_fuseOp, kept_fuseWait, kept_cfg, kept_now, kept_chal, kept_inten, core_eta]

@[simp] theorem execRillPowerDown_keep (n : Fin 160) (s : State) :
    ∀ t', execRillPowerDown n s = .next t' → keepOf t' = keepOf s := by
  intro t' h
  unfold execRillPowerDown at h
  rw [firmware_next] at h
  subst h
  (repeat' split) <;> simp

@[simp] theorem execRillPowerUp_keep (n : Fin 128) (s : State) :
    ∀ t', execRillPowerUp n s = .next t' → keepOf t' = keepOf s := by
  intro t' h
  unfold execRillPowerUp at h
  rw [firmware_next] at h
  subst h
  (repeat' split) <;> simp

@[simp] theorem enterFenced_core (s : State) :
    coreOf (keepOf (enterFenced s)) = coreOf (keepOf (s)) := by
  unfold enterFenced
  split <;> simp [core_eta, kept_pending, kept_fuses, kept_fuseOp, kept_fuseWait, kept_cfg, kept_now, kept_chal, kept_inten]

@[simp] theorem orphanOp_keep (s : State) :
    keepOf (orphanOp s) = keepOf s := by
  unfold orphanOp
  split <;> simp

@[simp] theorem restart_core (s : State) :
    coreOf (keepOf (restart s)) = coreOf (keepOf (s)) := by
  unfold restart
  dsimp only
  (repeat' split) <;> simp [core_eta, kept_pending, kept_fuses, kept_fuseOp, kept_fuseWait, kept_cfg, kept_now, kept_chal, kept_inten]

@[simp] theorem endRestart_core (s : State) :
    coreOf (keepOf (endRestart s)) = coreOf (keepOf (s)) := by
  unfold endRestart
  dsimp only
  (repeat' split) <;> simp [coreOf_foldl, kept_pending, kept_fuses, kept_fuseOp, kept_fuseWait, kept_cfg, kept_now, kept_chal, kept_inten, core_eta]

@[simp] theorem execWatchdogExpiry_core (s : State) :
    ∀ t', execWatchdogExpiry s = .next t' → coreOf (keepOf (t')) = coreOf (keepOf (s)) := by
  intro t' h
  unfold execWatchdogExpiry at h
  rw [whenUp_next] at h
  subst h
  (repeat' split) <;> simp

@[simp] theorem execHaywardSramError_core (s : State) :
    ∀ t', execHaywardSramError s = .next t' → coreOf (keepOf (t')) = coreOf (keepOf (s)) := by
  intro t' h
  unfold execHaywardSramError at h
  rw [whenUp_next] at h
  subst h
  (repeat' split) <;> simp

@[simp] theorem execFarWipeComplete_core (s : State) :
    ∀ t', execFarWipeComplete s = .next t' → coreOf (keepOf (t')) = coreOf (keepOf (s)) := by
  intro t' h
  unfold execFarWipeComplete at h
  cases h
  split <;> simp [core_eta, kept_pending, kept_fuses, kept_fuseOp, kept_fuseWait, kept_cfg, kept_now, kept_chal, kept_inten]

@[simp] theorem execHaywardFirmwareStart_core (s : State) :
    ∀ t', execHaywardFirmwareStart s = .next t' → coreOf (keepOf (t')) = coreOf (keepOf (s)) := by
  intro t' h
  unfold execHaywardFirmwareStart at h
  cases h
  (repeat' split) <;> simp

@[simp] theorem resetTenant_keep (s : State) (t : Nat) :
    keepOf (resetTenant s t) = keepOf s := by
  unfold resetTenant
  simp [keepOf_foldl]

@[simp] theorem execTenantReset_keep (a : MbxArgs) (s : State) :
    ∀ t', execTenantReset a s = .next t' → keepOf t' = keepOf s := by
  intro t' h
  unfold execTenantReset at h
  rw [runningHw_next] at h
  subst h
  (repeat' split) <;> simp [mbxStart_keep]

@[simp] theorem dropSignal_keep (m : Nat) (s : State) (k : Nat) :
    keepOf (dropSignal m s k) = keepOf s := by
  unfold dropSignal
  (repeat' split) <;> simp

@[simp] theorem dropSignals_keep (s : State) (m : Nat) :
    keepOf (dropSignals s m) = keepOf s := by
  unfold dropSignals
  simp [keepOf_foldl]

@[simp] theorem memberGone_keep (s : State) (m : Nat) :
    keepOf (memberGone s m) = keepOf s := by
  unfold memberGone
  simp

@[simp] theorem sluiceGone_keep (gone : W64) (s : State) (i : Nat) :
    keepOf (sluiceGone gone s i) = keepOf s := by
  unfold sluiceGone
  dsimp only
  (repeat' split) <;> simp

@[simp] theorem sluicesGone_keep (s : State) (gone : W64) :
    keepOf (sluicesGone s gone) = keepOf s := by
  unfold sluicesGone
  simp [keepOf_foldl]

@[simp] theorem setDelta_core (s : State) (epoch : W16) (members rejoin : W64) :
    coreOf (keepOf (setDelta s epoch members rejoin)) = coreOf (keepOf (s)) := by
  unfold setDelta
  simp [coreOf_foldl, kept_pending, kept_fuses, kept_fuseOp, kept_fuseWait, kept_cfg, kept_now, kept_chal, kept_inten, core_eta]

@[simp] theorem execDeltaSet_core (a : MbxArgs) (s : State) :
    ∀ t', execDeltaSet a s = .next t' → coreOf (keepOf (t')) = coreOf (keepOf (s)) := by
  intro t' h
  unfold execDeltaSet at h
  simp only [runningHw_next] at h
  subst h
  (repeat' split) <;> first
    | rfl
    | (refine mbxStart_core _ _ _ _ ?_; intros; (try dsimp only); (repeat' split) <;> simp)

@[simp] theorem execCfgRead_keep (a : MbxArgs) (s : State) :
    ∀ t', execCfgRead a s = .next t' → keepOf t' = keepOf s := by
  intro t' h
  unfold execCfgRead at h
  rw [runningHw_next] at h
  subst h
  simp [keepOf_ite, mbxStart_keep]

@[simp] theorem clearCounters_keep (s : State) (o : Nat) :
    keepOf (clearCounters s o) = keepOf s := by
  unfold clearCounters
  simp

@[simp] theorem execCalibFlush_keep (s : State) :
    ∀ t', execCalibFlush s = .next t' → keepOf t' = keepOf s := by
  intro t' h
  unfold execCalibFlush at h
  try simp only [runningHw_next] at h
  subst h
  try simp [keepOf_ite]
  try repeat' split
  all_goals try simp [keepOf_foldl]

@[simp] theorem execCalibRead_keep (a : MbxArgs) (s : State) :
    ∀ t', execCalibRead a s = .next t' → keepOf t' = keepOf s := by
  intro t' h
  unfold execCalibRead at h
  simp only [runningHw_next] at h
  subst h
  (repeat' split) <;> first
    | rfl
    | (refine mbxStart_keep _ _ _ _ ?_; intros; (try dsimp only); (repeat' split) <;> simp)

@[simp] theorem execCalibClear_keep (a : MbxArgs) (s : State) :
    ∀ t', execCalibClear a s = .next t' → keepOf t' = keepOf s := by
  intro t' h
  unfold execCalibClear at h
  simp only [runningHw_next] at h
  subst h
  (repeat' split) <;> first
    | rfl
    | (refine mbxStart_keep _ _ _ _ ?_; intros; (try dsimp only); (repeat' split) <;> simp)

@[simp] theorem shadowWrites_keep (b : Nat) (l : List Nat) (s : State) :
    ∀ t', shadowWrites b l s = some t' → keepOf t' = keepOf s := by
  suffices e : ∀ (l : List Nat) (o : Option State), (∀ u, o = some u → keepOf u = keepOf s) →
      ∀ t', l.foldl (fun o g => o.bind fun s => memIssue s (256 * g) 256 true (.shadow b)) o = some t' → keepOf t' = keepOf s by
    exact e l (some s) (by intro u h; cases h; rfl)
  intro l
  induction l with
  | nil => intro o h; exact h
  | cons g r ih =>
    intro o h t'
    refine ih _ ?_ t'
    intro u hu
    obtain ⟨v, hv, hm⟩ := Option.bind_eq_some_iff.mp hu
    rw [memIssue_keep _ _ _ _ _ _ hm, h v hv]

@[simp] theorem shiftRun_keep (s : State) (b j n : Nat) : keepOf (shiftRun s b j n) = keepOf s := by
  induction n generalizing s j with
  | zero => simp [shiftRun]
  | succ n ih => unfold shiftRun; simp [ih]

@[simp] theorem bankChange_keep (s : State) (b : Nat) (o : BankOp) : keepOf (bankChange s b o).1 = keepOf s := by
  unfold bankChange
  (repeat' split) <;> simp

@[simp] theorem runBankOp_core (s : State) (b : Nat) :
    coreOf (keepOf (runBankOp s b)) = coreOf (keepOf (s)) := by
  unfold runBankOp
  split
  · dsimp only
    split
    · rfl
    · rename_i h
      have a := shadowWrites_keep _ _ _ _ h
      have b := congrArg coreOf a
      rw [coreOf_foldl _ (by intros; simp)] at b
      simpa [core_eta, kept_pending, kept_fuses, kept_fuseOp, kept_fuseWait, kept_cfg, kept_now, kept_chal, kept_inten] using b
  · rfl

@[simp] theorem execFenBankOp_core (b : Fin 64) (s : State) :
    ∀ t', execFenBankOp b s = .next t' → coreOf (keepOf (t')) = coreOf (keepOf (s)) := by
  intro t' h
  unfold execFenBankOp at h
  rw [runningOn_next] at h
  subst h
  (repeat' split) <;> simp

@[simp] theorem completeOp_keep (s : State) (b : Nat) :
    keepOf (completeOp s b) = keepOf s := by
  unfold completeOp
  dsimp only
  (repeat' split) <;> simp

@[simp] theorem execFenOpComplete_keep (b : Fin 64) (s : State) :
    ∀ t', execFenOpComplete b s = .next t' → keepOf t' = keepOf s := by
  intro t' h
  unfold execFenOpComplete at h
  rw [runningOn_next] at h
  subst h
  (repeat' split) <;> simp

@[simp] theorem markSuspect_keep (s : State) (b bad : Nat) :
    keepOf (markSuspect s b bad) = keepOf s := by
  unfold markSuspect
  dsimp only
  (repeat' split) <;> simp [keepOf_foldl]

@[simp] theorem scrubEntry_core (s : State) (b e : Nat) :
    coreOf (keepOf (scrubEntry s b e)) = coreOf (keepOf (s)) := by
  unfold scrubEntry
  dsimp only
  (repeat' split) <;> simp

@[simp] theorem scrubTake_keep (s : State) (b : Nat) :
    keepOf (scrubTake s b) = keepOf s := by
  unfold scrubTake
  split <;> simp

@[simp] theorem scrubBank_core (s : State) (b : Nat) :
    coreOf (keepOf (scrubBank s b)) = coreOf (keepOf (s)) := by
  unfold scrubBank
  split <;> simp

@[simp] theorem execFenScrub_core (s : State) :
    ∀ t', execFenScrub s = .next t' → coreOf (keepOf (t')) = coreOf (keepOf (s)) := by
  intro t' h
  unfold execFenScrub at h
  rw [whenUp_next] at h
  subst h
  (repeat' split) <;> simp [coreOf_foldl]

@[simp] theorem fenCommand_keep (s : State) (o : BankOp) :
    keepOf (fenCommand s o) = keepOf s := by
  unfold fenCommand
  dsimp only
  (repeat' split) <;> simp

@[simp] theorem fenWriteCommand_keep (s : State) (insert : Bool) :
    keepOf (fenWriteCommand s insert) = keepOf s := by
  unfold fenWriteCommand
  dsimp only
  (repeat' split) <;> simp

@[simp] theorem execFenRead_keep (a : MbxArgs) (s : State) :
    ∀ t', execFenRead a s = .next t' → keepOf t' = keepOf s := by
  intro t' h
  unfold execFenRead at h
  rw [runningHw_next] at h
  subst h
  (repeat' split) <;> simp [mbxStart_keep]

@[simp] theorem execFenInvalidate_keep (a : MbxArgs) (s : State) :
    ∀ t', execFenInvalidate a s = .next t' → keepOf t' = keepOf s := by
  intro t' h
  unfold execFenInvalidate at h
  rw [runningHw_next] at h
  subst h
  (repeat' split) <;> simp [mbxStart_keep]

@[simp] theorem execFenWrite_keep (a : MbxArgs) (s : State) :
    ∀ t', execFenWrite a s = .next t' → keepOf t' = keepOf s := by
  intro t' h
  unfold execFenWrite at h
  rw [runningHw_next] at h
  subst h
  (repeat' split) <;> simp [mbxStart_keep]

@[simp] theorem execFenInsert_keep (a : MbxArgs) (s : State) :
    ∀ t', execFenInsert a s = .next t' → keepOf t' = keepOf s := by
  intro t' h
  unfold execFenInsert at h
  rw [runningHw_next] at h
  subst h
  (repeat' split) <;> simp [mbxStart_keep]

@[simp] theorem execFenMask_keep (a : MbxArgs) (s : State) :
    ∀ t', execFenMask a s = .next t' → keepOf t' = keepOf s := by
  intro t' h
  unfold execFenMask at h
  rw [runningHw_next] at h
  subst h
  simp [keepOf_ite, mbxStart_keep]

@[simp] theorem execFlashCommandComplete_core (r : FlashRes) (s : State) :
    ∀ t', execFlashCommandComplete r s = .next t' → coreOf (keepOf (t')) = coreOf (keepOf (s)) := by
  intro t' h
  unfold execFlashCommandComplete at h
  rw [runningHw_next] at h
  subst h
  (repeat' split) <;> simp

@[simp] theorem execFlashTimeout_core (s : State) :
    ∀ t', execFlashTimeout s = .next t' → coreOf (keepOf (t')) = coreOf (keepOf (s)) := by
  intro t' h
  unfold execFlashTimeout at h
  rw [runningHw_next] at h
  subst h
  (repeat' split) <;> simp

@[simp] theorem execLogProgram_keep (s : State) :
    ∀ t', execLogProgram s = .next t' → keepOf t' = keepOf s := by
  intro t' h
  unfold execLogProgram at h
  rw [runningHw_next] at h
  subst h
  (repeat' split) <;> simp

@[simp] theorem selectLog_keep (s : State) (data : W32) :
    keepOf (selectLog s data) = keepOf s := by
  unfold selectLog
  simp

@[simp] theorem execLogFselWrite_keep (data : W32) (s : State) :
    ∀ t', execLogFselWrite data s = .next t' → keepOf t' = keepOf s := by
  intro t' h
  unfold execLogFselWrite at h
  rw [whenUp_next] at h
  subst h
  (repeat' split) <;> simp

@[simp] theorem execLogFetchComplete_keep (s : State) :
    ∀ t', execLogFetchComplete s = .next t' → keepOf t' = keepOf s := by
  intro t' h
  unfold execLogFetchComplete at h
  rw [runningHw_next] at h
  subst h
  (repeat' split) <;> simp

@[simp] theorem execBankWrite_keep (a : MbxArgs) (image : List Byte) (s : State) :
    ∀ t', execBankWrite a image s = .next t' → keepOf t' = keepOf s := by
  intro t' h
  unfold execBankWrite at h
  rw [runningHw_next] at h
  subst h
  simp [keepOf_ite, mbxStart_keep]

@[simp] theorem execBankStatus_keep (a : MbxArgs) (s : State) :
    ∀ t', execBankStatus a s = .next t' → keepOf t' = keepOf s := by
  intro t' h
  unfold execBankStatus at h
  rw [runningHw_next] at h
  subst h
  (repeat' split) <;> simp [mbxStart_keep]

@[simp] theorem takeMsg_keep (s : State) :
    keepOf (takeMsg s) = keepOf s := by
  unfold takeMsg
  simp

theorem mgmtMsg_keep (s : State) (k : State → State) (h : ∀ s, keepOf (k s) = keepOf s) :
    ∀ t, mgmtMsg s k = .next t → keepOf t = keepOf s := by
  intro t e
  unfold mgmtMsg at e
  rw [whenUp_next] at e
  subst e
  (repeat' split) <;> simp [h]

@[simp] theorem answerMsg_keep (s : State) (m : MgmtOut) :
    keepOf (answerMsg s m) = keepOf s := by
  unfold answerMsg
  simp

theorem mgmtLive_keep (s : State) (k : State → State) (h : ∀ s, keepOf (k s) = keepOf s) :
    ∀ t, mgmtLive s k = .next t → keepOf t = keepOf s := by
  intro t e
  unfold mgmtLive at e
  exact mgmtMsg_keep _ _ (by intro s; split <;> simp [h]) t e

@[simp] theorem controlAnswer_keep (s : State) (cmd code : Byte) (data : List Byte) :
    keepOf (controlAnswer s cmd code data) = keepOf s := by
  unfold controlAnswer
  simp

@[simp] theorem spdmAnswer_keep (s : State) (code : Byte) (data : List Byte) (sig : Option (BitVec 768)) :
    keepOf (spdmAnswer s code data sig) = keepOf s := by
  unfold spdmAnswer
  simp

@[simp] theorem spdmError_keep (s : State) (e : Byte) :
    keepOf (spdmError s e) = keepOf s := by
  unfold spdmError
  simp

@[simp] theorem pldmAnswer_keep (s : State) (type : Byte) (code : W16) (data : List Byte) :
    keepOf (pldmAnswer s type code data) = keepOf s := by
  unfold pldmAnswer
  simp

@[simp] theorem pldmBase_keep (s : State) (cmd : Byte) (data : List Byte) :
    keepOf (pldmBase s cmd data) = keepOf s := by
  unfold pldmBase
  split <;> simp

@[simp] theorem ackEvent_keep (s : State) (inst : Nat) :
    keepOf (ackEvent s inst) = keepOf s := by
  unfold ackEvent
  simp

@[simp] theorem execMctpMessage_keep (msg : List Byte) (s : State) :
    ∀ t', execMctpMessage msg s = .next t' → keepOf t' = keepOf s := by
  intro t' h
  unfold execMctpMessage at h
  exact mgmtMsg_keep _ _ (by intro s; dsimp only; (repeat' split) <;> first | rfl | simp) t' h

@[simp] theorem execSetEndpointId_keep (eid : Byte) (s : State) :
    ∀ t', execSetEndpointId eid s = .next t' → keepOf t' = keepOf s := by
  intro t' h
  unfold execSetEndpointId at h
  exact mgmtMsg_keep _ _ (by intro s; (repeat' split) <;> first | rfl | simp) t' h

@[simp] theorem execGetEndpointId_keep (s : State) :
    ∀ t', execGetEndpointId s = .next t' → keepOf t' = keepOf s := by
  intro t' h
  unfold execGetEndpointId at h
  exact mgmtMsg_keep _ _ (by intro s; simp) t' h

@[simp] theorem execGetEndpointUuid_keep (s : State) :
    ∀ t', execGetEndpointUuid s = .next t' → keepOf t' = keepOf s := by
  intro t' h
  unfold execGetEndpointUuid at h
  exact mgmtMsg_keep _ _ (by intro s; simp) t' h

@[simp] theorem execGetMctpVersionSupport_keep (s : State) :
    ∀ t', execGetMctpVersionSupport s = .next t' → keepOf t' = keepOf s := by
  intro t' h
  unfold execGetMctpVersionSupport at h
  exact mgmtMsg_keep _ _ (by intro s; simp) t' h

@[simp] theorem execGetMessageTypeSupport_keep (s : State) :
    ∀ t', execGetMessageTypeSupport s = .next t' → keepOf t' = keepOf s := by
  intro t' h
  unfold execGetMessageTypeSupport at h
  exact mgmtMsg_keep _ _ (by intro s; simp) t' h

@[simp] theorem execGetVersion_keep (s : State) :
    ∀ t', execGetVersion s = .next t' → keepOf t' = keepOf s := by
  intro t' h
  unfold execGetVersion at h
  exact mgmtLive_keep _ _ (by intro s; simp) t' h

@[simp] theorem execGetCapabilities_keep (s : State) :
    ∀ t', execGetCapabilities s = .next t' → keepOf t' = keepOf s := by
  intro t' h
  unfold execGetCapabilities at h
  exact mgmtLive_keep _ _ (by intro s; (repeat' split) <;> first | rfl | simp) t' h

@[simp] theorem execNegotiateAlgorithms_keep (offersP384 offersSha384 : Bool) (s : State) :
    ∀ t', execNegotiateAlgorithms offersP384 offersSha384 s = .next t' → keepOf t' = keepOf s := by
  intro t' h
  unfold execNegotiateAlgorithms at h
  exact mgmtLive_keep _ _ (by intro s; (repeat' split) <;> first | rfl | simp) t' h

theorem negotiated_keep (s : State) (k : State → State) (h : ∀ s, keepOf (k s) = keepOf s) :
    ∀ t, negotiated s k = .next t → keepOf t = keepOf s := by
  intro t e
  unfold negotiated at e
  exact mgmtLive_keep _ _ (by intro s; split <;> simp [h]) t e

@[simp] theorem execGetDigests_keep (s : State) :
    ∀ t', execGetDigests s = .next t' → keepOf t' = keepOf s := by
  intro t' h
  unfold execGetDigests at h
  exact negotiated_keep _ _ (by intro s; (repeat' split) <;> first | rfl | simp) t' h

@[simp] theorem execGetCertificate_keep (slot : Fin 8) (off len : Nat) (s : State) :
    ∀ t', execGetCertificate slot off len s = .next t' → keepOf t' = keepOf s := by
  intro t' h
  unfold execGetCertificate at h
  exact negotiated_keep _ _ (by intro s; (repeat' split) <;> first | rfl | simp) t' h

@[simp] theorem drawNonce_keep (s : State) : keepOf (drawNonce s).2 = keepOf s := by
  unfold drawNonce
  simp

@[simp] theorem execChallenge_keep (slot : Fin 8) (nonce : BitVec 256) (s : State) :
    ∀ t', execChallenge slot nonce s = .next t' → keepOf t' = keepOf s := by
  intro t' h
  refine negotiated_keep _ _ ?_ t' h
  intro s
  split
  · simp
  · split
    · simp
    · dsimp only
      rw [spdmAnswer_keep, drawNonce_keep]

@[simp] theorem measurement_keep (s : State) (i : Nat) : keepOf (measurement s i).2 = keepOf s := by
  unfold measurement
  (repeat' split) <;> simp

@[simp] theorem execGetMeasurements_keep (idx : MeasIndex) (signed : Bool) (nonce : BitVec 256) (s : State) :
    ∀ t', execGetMeasurements idx signed nonce s = .next t' → keepOf t' = keepOf s := by
  intro t' h
  unfold execGetMeasurements at h
  exact mgmtMsg_keep _ _ (by intro s; (try dsimp only); (repeat' split) <;> first | rfl | simp) t' h

@[simp] theorem execSetEventReceiver_keep (enable : Bool) (receiver : Byte) (s : State) :
    ∀ t', execSetEventReceiver enable receiver s = .next t' → keepOf t' = keepOf s := by
  intro t' h
  unfold execSetEventReceiver at h
  exact mgmtLive_keep _ _ (by intro s; (repeat' split) <;> first | rfl | simp) t' h

@[simp] theorem execPldmSensorRead_keep (sensor : W16) (s : State) :
    ∀ t', execPldmSensorRead sensor s = .next t' → keepOf t' = keepOf s := by
  intro t' h
  unfold execPldmSensorRead at h
  exact mgmtLive_keep _ _ (by intro s; simp) t' h

@[simp] theorem execPlatformEventRetry_keep (s : State) :
    ∀ t', execPlatformEventRetry s = .next t' → keepOf t' = keepOf s := by
  intro t' h
  unfold execPlatformEventRetry at h
  rw [whenUp_next] at h
  subst h
  (repeat' split) <;> simp

@[simp] theorem execPldmFirmwareUpdate_keep (comp : W16) (trailer descs : List Byte) (bodyLen : Nat) (s : State) :
    ∀ t', execPldmFirmwareUpdate comp trailer descs bodyLen s = .next t' → keepOf t' = keepOf s := by
  intro t' h
  unfold execPldmFirmwareUpdate at h
  exact mgmtLive_keep _ _ (by intro s; (repeat' split) <;> first | rfl | simp) t' h

@[simp] theorem execRequestFirmwareData_keep (off : Nat) (data : List Byte) (s : State) :
    ∀ t', execRequestFirmwareData off data s = .next t' → keepOf t' = keepOf s := by
  intro t' h
  unfold execRequestFirmwareData at h
  exact mgmtLive_keep _ _ (by intro s; (repeat' split) <;> first | rfl | simp) t' h

@[simp] theorem execActivateFirmware_keep (selfContained : Bool) (s : State) :
    ∀ t', execActivateFirmware selfContained s = .next t' → keepOf t' = keepOf s := by
  intro t' h
  unfold execActivateFirmware at h
  exact mgmtLive_keep _ _ (by intro s; simp) t' h

@[simp] theorem clearInt_keep (s : State) (data : W32) :
    keepOf (clearInt s data) = keepOf s := by
  unfold clearInt
  simp

@[simp] theorem clearMbx_keep (s : State) (data : W32) :
    keepOf (clearMbx s data) = keepOf s := by
  unfold clearMbx
  simp

@[simp] theorem stileAnswer_keep (s : State) (v : W32) :
    keepOf (stileAnswer s v) = keepOf s := by
  unfold stileAnswer
  simp

@[simp] theorem execTelCounterRead_keep (off : Nat) (s : State) :
    ∀ t', execTelCounterRead off s = .next t' → keepOf t' = keepOf s := by
  intro t' h
  unfold execTelCounterRead at h
  cases h
  split <;> simp

@[simp] theorem execGenTimeloRead_keep (s : State) :
    ∀ t', execGenTimeloRead s = .next t' → keepOf t' = keepOf s := by
  intro t' h
  unfold execGenTimeloRead at h
  cases h
  split <;> simp

@[simp] theorem mbxWrite_keep (s : State) (off : Nat) (data : W32) :
    keepOf (mbxWrite s off data) = keepOf s := by
  unfold mbxWrite
  (repeat' split) <;> simp

@[simp] theorem execUnknownCommand_keep (opc : Byte) (a : MbxArgs) (s : State) :
    ∀ t', execUnknownCommand opc a s = .next t' → keepOf t' = keepOf s := by
  intro t' h
  unfold execUnknownCommand at h
  rw [runningHw_next] at h
  subst h
  (repeat' split) <;> simp [mbxStart_keep]

end Sys2Proof.Machine
end

