-- ==== Sys2Proof/Laws/Tables.lean ====
section
/-! SUPPORT. What sparse tables and byte memories do: reading after an update, and the canonical form kept by every update. -/

namespace Sys2Proof.Machine

variable {α : Type}

/-! ## Reading after an update -/

@[simp] theorem smGet_nil (d : α) (k : Nat) : smGet d [] k = d := rfl

theorem smGet_smIns (d v : α) (k j : Nat) (m : SMap α) :
    smGet d (smIns k v m) j = if j = k then v else smGet d m j := by
  induction m with
  | nil => simp [smIns, smGet]
  | cons x r ih =>
    obtain ⟨k', v'⟩ := x
    simp only [smIns]
    split
    · simp [smGet]
    · split
      · subst_vars; simp only [smGet]; split <;> rfl
      · simp only [smGet, ih]
        by_cases h : j = k'
        · simp [h]; omega
        · simp [h]

theorem smGet_smDel (d : α) (k j : Nat) (m : SMap α) :
    smGet d (smDel k m) j = if j = k then d else smGet d m j := by
  induction m with
  | nil => simp [smDel]
  | cons x r ih =>
    obtain ⟨k', v'⟩ := x
    simp only [smDel]
    split
    · rename_i h; subst h; rw [ih]; simp only [smGet]; split <;> rfl
    · simp only [smGet, ih]
      by_cases h : j = k'
      · simp [h]; omega
      · simp [h]

theorem smGet_smSet [DecidableEq α] (d v : α) (k j : Nat) (m : SMap α) :
    smGet d (smSet d m k v) j = if j = k then v else smGet d m j := by
  unfold smSet; split
  · rename_i h; subst h; exact smGet_smDel v k j m
  · exact smGet_smIns d v k j m

@[simp] theorem smGet_smSet_self [DecidableEq α] (d v : α) (k : Nat) (m : SMap α) : smGet d (smSet d m k v) k = v := by
  simp [smGet_smSet]

theorem smGet_smSet_other [DecidableEq α] (d v : α) {k j : Nat} (m : SMap α) (h : j ≠ k) :
    smGet d (smSet d m k v) j = smGet d m j := by simp [smGet_smSet, h]

/-! ## The canonical form -/

theorem smWfFrom_mono [DecidableEq α] {d : α} {lo lo' : Nat} {m : SMap α} (h : smWfFrom d lo m = true) (hl : lo' ≤ lo) :
    smWfFrom d lo' m = true := by
  cases m with
  | nil => rfl
  | cons x r => obtain ⟨k, v⟩ := x; simp [smWfFrom] at *; exact ⟨⟨by omega, h.1.2⟩, h.2⟩

theorem smWfFrom_smIns [DecidableEq α] {d v : α} {k lo : Nat} {m : SMap α} (h : smWfFrom d lo m = true) (hk : lo ≤ k)
    (hv : v ≠ d) : smWfFrom d lo (smIns k v m) = true := by
  induction m generalizing lo with
  | nil => simp [smIns, smWfFrom, hk, hv]
  | cons x r ih =>
    obtain ⟨k', v'⟩ := x
    simp [smWfFrom] at h
    simp only [smIns]
    split
    · simp [smWfFrom, hk, hv, h.1.2, h.2]; omega
    · split
      · subst_vars; simp [smWfFrom, hk, hv, h.2]
      · simp [smWfFrom, h.1]; exact ih h.2 (by omega)

theorem smWfFrom_smDel [DecidableEq α] {d : α} {k lo : Nat} {m : SMap α} (h : smWfFrom d lo m = true) :
    smWfFrom d lo (smDel k m) = true := by
  induction m generalizing lo with
  | nil => rfl
  | cons x r ih =>
    obtain ⟨k', v'⟩ := x
    simp [smWfFrom] at h
    simp only [smDel]
    split
    · exact smWfFrom_mono (ih h.2) (by omega)
    · simp [smWfFrom, h.1]; exact ih h.2

/-- Setting a part keeps the canonical form. -/
theorem smWf_smSet [DecidableEq α] {d v : α} {k : Nat} {m : SMap α} (h : smWf d m = true) : smWf d (smSet d m k v) = true := by
  unfold smSet; split
  · exact smWfFrom_smDel h
  · rename_i hv; exact smWfFrom_smIns h (Nat.zero_le k) hv

theorem smWf_smDel [DecidableEq α] {d : α} {k : Nat} {m : SMap α} (h : smWf d m = true) : smWf d (smDel k m) = true :=
  smWfFrom_smDel h

theorem smWfFrom_filter [DecidableEq α] {d : α} {lo : Nat} {m : SMap α} (p : Nat × α → Bool) (h : smWfFrom d lo m = true) :
    smWfFrom d lo (m.filter p) = true := by
  induction m generalizing lo with
  | nil => rfl
  | cons x r ih =>
    obtain ⟨k, v⟩ := x
    simp [smWfFrom] at h
    simp only [List.filter]
    split
    · simp [smWfFrom, h.1]; exact ih h.2
    · exact smWfFrom_mono (ih h.2) (by omega)

/-- Passing every part through a function keeps the canonical form. -/
theorem smWf_smMap [DecidableEq α] {d : α} (f : α → α) (m : SMap α) : smWf d (smMap d f m) = true := by
  induction m with
  | nil => rfl
  | cons x r ih => exact smWf_smSet ih

/-- A part after every part was passed through a function that leaves the default alone. -/
theorem smGet_smMap [DecidableEq α] {d : α} (f : α → α) (h : f d = d) (m : SMap α) (k : Nat) :
    smGet d (smMap d f m) k = f (smGet d m k) := by
  induction m with
  | nil => exact h.symm
  | cons x r ih => simp only [smMap, smGet_smSet, smGet]; split <;> simp_all

/-! ## Byte memory -/

theorem memGet_memSet (d b : Byte) (m : List Host.Cell) (a x : Nat) :
    memGet d (memSet d m a b) x = if x = a then b else memGet d m x := smGet_smSet d b a x m

/-- A byte outside a write reads as before. -/
theorem memGet_memWrite_other (d : Byte) (l : List Byte) (m : List Host.Cell) (a x : Nat) (h : x < a ∨ a + l.length ≤ x) :
    memGet d (memWrite d m a l) x = memGet d m x := by
  induction l generalizing m a with
  | nil => rfl
  | cons b r ih =>
    simp only [memWrite, List.length_cons] at *
    rw [ih _ _ (by omega), memGet_memSet, if_neg (by omega)]

/-- A read of what a write covers gives the bytes written. -/
theorem memRead_memWrite (d : Byte) (l : List Byte) (m : List Host.Cell) (a : Nat) : memRead d (memWrite d m a l) a l.length = l := by
  induction l generalizing m a with
  | nil => rfl
  | cons b r ih =>
    simp only [memWrite, List.length_cons, memRead]
    rw [ih, memGet_memWrite_other _ _ _ _ _ (by omega), memGet_memSet, if_pos rfl]

/-- A range outside a write reads as before. -/
theorem memRead_memWrite_other (d : Byte) (l : List Byte) (m : List Host.Cell) (a x n : Nat)
    (h : x + n ≤ a ∨ a + l.length ≤ x) : memRead d (memWrite d m a l) x n = memRead d m x n := by
  induction n generalizing x with
  | zero => rfl
  | succ n ih =>
    simp only [memRead]
    rw [ih _ (by omega), memGet_memWrite_other _ _ _ _ _ (by omega)]

theorem memWf_memSet {d b : Byte} {m : List Host.Cell} {a : Nat} (h : memWf d m = true) : memWf d (memSet d m a b) = true :=
  smWf_smSet h

/-- Every write keeps the canonical form. -/
theorem memWf_memWrite {d : Byte} (l : List Byte) {m : List Host.Cell} {a : Nat} (h : memWf d m = true) :
    memWf d (memWrite d m a l) = true := by
  induction l generalizing m a with
  | nil => exact h
  | cons b r ih => exact ih (memWf_memSet h)

/-- Clearing a range keeps the canonical form. -/
theorem memWf_memClear {d : Byte} {m : List Host.Cell} {a n : Nat} (h : memWf d m = true) : memWf d (memClear m a n) = true :=
  smWfFrom_filter _ h

/-! ## Byte memory whose unlisted bytes differ by address -/

/-- The canonical form is that of a table whose entries differ from their own defaults. -/
theorem memWfAt_mono {d : Nat → Byte} {lo lo' : Nat} {m : List Host.Cell} (h : memWfAt d lo m = true) (hl : lo' ≤ lo) :
    memWfAt d lo' m = true := by
  cases m with
  | nil => rfl
  | cons x r => obtain ⟨k, v⟩ := x; simp [memWfAt] at *; exact ⟨⟨by omega, h.1.2⟩, h.2⟩

theorem memWfAt_smIns {d : Nat → Byte} {v : Byte} {k lo : Nat} {m : List Host.Cell} (h : memWfAt d lo m = true) (hk : lo ≤ k)
    (hv : v ≠ d k) : memWfAt d lo (smIns k v m) = true := by
  induction m generalizing lo with
  | nil => simp [smIns, memWfAt, hk, hv]
  | cons x r ih =>
    obtain ⟨k', v'⟩ := x
    simp [memWfAt] at h
    simp only [smIns]
    split
    · simp [memWfAt, hk, hv, h.1.2, h.2]; omega
    · split
      · subst_vars; simp [memWfAt, hk, hv, h.2]
      · simp [memWfAt, h.1]; exact ih h.2 (by omega)

theorem memWfAt_smDel {d : Nat → Byte} {k lo : Nat} {m : List Host.Cell} (h : memWfAt d lo m = true) :
    memWfAt d lo (smDel k m) = true := by
  induction m generalizing lo with
  | nil => rfl
  | cons x r ih =>
    obtain ⟨k', v'⟩ := x
    simp [memWfAt] at h
    simp only [smDel]
    split
    · exact memWfAt_mono (ih h.2) (by omega)
    · simp [memWfAt, h.1]; exact ih h.2

theorem memWfAt_memSet {d : Nat → Byte} {b : Byte} {m : List Host.Cell} {a : Nat} (h : memWfAt d 0 m = true) :
    memWfAt d 0 (memSet (d a) m a b) = true := by
  unfold memSet smSet; split
  · exact memWfAt_smDel h
  · rename_i hv; exact memWfAt_smIns h (Nat.zero_le a) hv

/-- Every write keeps the canonical form. -/
theorem memWfAt_memWriteAt {d : Nat → Byte} (l : List Byte) {m : List Host.Cell} {a : Nat} (h : memWfAt d 0 m = true) :
    memWfAt d 0 (memWriteAt d m a l) = true := by
  induction l generalizing m a with
  | nil => exact h
  | cons b r ih => exact ih (memWfAt_memSet h)

theorem memWfAt_filter {d : Nat → Byte} {lo : Nat} {m : List Host.Cell} (p : Host.Cell → Bool) (h : memWfAt d lo m = true) :
    memWfAt d lo (m.filter p) = true := by
  induction m generalizing lo with
  | nil => rfl
  | cons x r ih =>
    obtain ⟨k, v⟩ := x
    simp [memWfAt] at h
    simp only [List.filter]
    split
    · simp [memWfAt, h.1]; exact ih h.2
    · exact memWfAt_mono (ih h.2) (by omega)

/-- Clearing a range keeps the canonical form. -/
theorem memWfAt_memClear {d : Nat → Byte} {m : List Host.Cell} {a n : Nat} (h : memWfAt d 0 m = true) :
    memWfAt d 0 (memClear m a n) = true := memWfAt_filter _ h

/-- A byte outside a write reads as before. -/
theorem memGet_memWriteAt_other (d : Nat → Byte) (l : List Byte) (m : List Host.Cell) (a x : Nat) (h : x < a ∨ a + l.length ≤ x) :
    memGet (d x) (memWriteAt d m a l) x = memGet (d x) m x := by
  induction l generalizing m a with
  | nil => rfl
  | cons b r ih =>
    simp only [memWriteAt, List.length_cons] at *
    rw [ih _ _ (by omega)]
    unfold memGet memSet smSet
    split
    · rw [smGet_smDel, if_neg (by omega)]
    · rw [smGet_smIns, if_neg (by omega)]

/-- A read of what a write covers gives the bytes written. -/
theorem memReadAt_memWriteAt (d : Nat → Byte) (l : List Byte) (m : List Host.Cell) (a : Nat) :
    memReadAt d (memWriteAt d m a l) a l.length = l := by
  induction l generalizing m a with
  | nil => rfl
  | cons b r ih =>
    simp only [memWriteAt, List.length_cons, memReadAt]
    rw [ih, memGet_memWriteAt_other _ _ _ _ _ (by omega)]
    simp [memGet, memSet]

end Sys2Proof.Machine
end

