-- ==== Sys2Proof/Laws/Mems.lean ====
section
/-! SUPPORT. The byte memories stay in canonical form: what every operation that writes the far tier or the flash leaves of them. -/

namespace Sys2Proof.Machine

/-- The far tier and the flash are in canonical form. -/
def memsOk (k : Kept) : Prop := memWfAt farInit 0 k.far = true ∧ memWf 0xFF k.flash = true

theorem memsOk_mk {a b c d e f g h i : _} {k : _} {fl fa : List Host.Cell} :
    memsOk { pending := a, fuses := b, fuseOp := c, fuseWait := d, cfg := e, now := f, chal := g, view := h, boot := i,
             flash := fl, far := fa, inten := k } = (memWfAt farInit 0 fa = true ∧ memWf 0xFF fl = true) := rfl

theorem memsOk_far {s : State} (h : memsOk (keepOf s)) : memWfAt farInit 0 s.far = true := by rw [kept_far]; exact h.1
theorem memsOk_flash {s : State} (h : memsOk (keepOf s)) : memWf 0xFF s.flash = true := by rw [kept_flash]; exact h.2

theorem mems_of {t : State} (hf : memWfAt farInit 0 t.far = true) (hl : memWf 0xFF t.flash = true) : memsOk (keepOf t) := by
  unfold memsOk
  rw [← kept_far, ← kept_flash]
  exact ⟨hf, hl⟩

theorem memsOk_foldl {α : Type} (f : State → α → State) (hf : ∀ s x, memsOk (keepOf s) → memsOk (keepOf (f s x))) (l : List α)
    (s : State) (h : memsOk (keepOf s)) : memsOk (keepOf (l.foldl f s)) := by
  induction l generalizing s with
  | nil => exact h
  | cons x r ih => exact ih _ (hf _ _ h)

theorem memsOk_ite (c : Prop) [Decidable c] (s t : State) (hs : memsOk (keepOf s)) (ht : memsOk (keepOf t)) :
    memsOk (keepOf (if c then s else t)) := by
  split
  · exact hs
  · exact ht

theorem putShadow_mems (s : State) (b e : Nat)
    (hm : memsOk (keepOf s)) : memsOk (keepOf (putShadow s b e)) := by
  unfold putShadow
  exact mems_of (memWfAt_memWriteAt _ (memsOk_far hm :)) (memsOk_flash hm :)

theorem blankShadow_mems (s : State) (b : Nat)
    (hm : memsOk (keepOf s)) : memsOk (keepOf (blankShadow s b)) := by
  unfold blankShadow
  exact mems_of (memWfAt_memClear (memsOk_far hm :)) (memsOk_flash hm :)

theorem flashWrite_mems (s : State) (a : Nat) (l : List Byte)
    (hm : memsOk (keepOf s)) : memsOk (keepOf (flashWrite s a l)) := by
  unfold flashWrite
  exact mems_of (memsOk_far hm :) (memWf_memWrite _ (memsOk_flash hm :))

theorem flashErase_mems (s : State) (a n : Nat)
    (hm : memsOk (keepOf s)) : memsOk (keepOf (flashErase s a n)) := by
  unfold flashErase
  exact mems_of (memsOk_far hm :) (memWf_memClear (memsOk_flash hm :))

theorem clearBank_mems (s : State) (b : Nat)
    (hm : memsOk (keepOf s)) : memsOk (keepOf (clearBank s b)) := by
  unfold clearBank
  have h := blankShadow_mems { s with fen := s.fen.filter fun x => decide (x.1 / 8192 ≠ b) } b
    (mems_of (memsOk_far hm :) (memsOk_flash hm :))
  exact mems_of (memsOk_far h :) (memsOk_flash h :)

theorem loadBanks_mems (s : State) (bs : List Nat) (l : List (Nat × FenEntry))
    (hm : memsOk (keepOf s)) : memsOk (keepOf (loadBanks s bs l)) := by
  unfold loadBanks
  refine memsOk_foldl _ ?_ _ _ (memsOk_foldl _ (fun s x h => clearBank_mems s x h) _ _ hm)
  intro s x h
  exact putShadow_mems _ _ _ (by simpa using h)

theorem discardBuild_mems (s : State)
    (hm : memsOk (keepOf s)) : memsOk (keepOf (discardBuild s)) := by
  unfold discardBuild
  have h := memsOk_foldl _ (fun s x h => clearBank_mems s x h) (if s.load.stageLen = 0 then s.load.banks else []) s hm
  generalize (if s.load.stageLen = 0 then s.load.banks else []).foldl clearBank s = u at h
  simpa using h

theorem closeLoad_mems (s : State) (status : W16) (failed : List Nat)
    (hm : memsOk (keepOf s)) : memsOk (keepOf (closeLoad s status failed)) := by
  unfold closeLoad
  simp [hm, discardBuild_mems]

theorem failLoad_mems (s : State) (status : W16) (failed : List Nat)
    (hm : memsOk (keepOf s)) : memsOk (keepOf (failLoad s status failed)) := by
  unfold failLoad
  dsimp only
  split <;> simp [hm, closeLoad_mems]

theorem loadDone_mems (s : State)
    (hm : memsOk (keepOf s)) : memsOk (keepOf (loadDone s)) := by
  unfold loadDone
  (repeat' split) <;> simp [hm, failLoad_mems, closeLoad_mems]

theorem endEnding_mems (s : State)
    (hm : memsOk (keepOf s)) : memsOk (keepOf (endEnding s)) := by
  unfold endEnding
  split <;> simp [hm, loadDone_mems]

theorem buildSet_mems (s : State) (m : BaleImage) (hb : List Byte) (data : List (List Byte)) (t : State)
    (h : buildSet s m hb data = .ok t) (hm : memsOk (keepOf s)) : memsOk (keepOf t) := by
  unfold buildSet at h
  simp only [] at h
  iterate 6 obtain ⟨_, _, h⟩ := bind_ok h
  obtain ⟨fens, _, h⟩ := bind_ok h
  iterate 3 obtain ⟨_, _, h⟩ := bind_ok h
  obtain ⟨s1, h1, h⟩ := bind_ok h
  obtain ⟨s2, h2, h⟩ := bind_ok h
  cases h
  have a := loadMoves_keep _ _ _ h1
  have a : keepOf s2 = keepOf s := by rw [reserveTables_keep _ _ _ h2, a]; simp
  have hf := memsOk_foldl _ (fun s (x : Nat × List Nat × List (Nat × FenEntry)) h => loadBanks_mems s x.2.1 x.2.2 h) fens s2
    (by rw [a]; exact hm)
  generalize fens.foldl _ s2 = u at hf ⊢
  simpa using hf

theorem endLoad_mems (s : State)
    (hm : memsOk (keepOf s)) : memsOk (keepOf (endLoad s)) := by
  unfold endLoad
  split
  · split
    · exact loadDone_mems _ hm
    · split
      · exact failLoad_mems _ _ _ hm
      · dsimp only
        split
        · exact failLoad_mems _ _ _ hm
        · split
          · exact failLoad_mems _ _ _ hm
          · have hr : memsOk (keepOf (readStage (readData s (baleHdr ‹_›)))) := by simpa using hm
            split
            · exact hr
            · split
              · simpa using hm
              · simpa using failLoad_mems _ stShardsLost _ hr
              · split
                · exact failLoad_mems _ _ _ hr
                · rename_i h
                  exact loadDone_mems _ (by simpa using buildSet_mems _ _ _ _ _ h hr)
  · exact hm

theorem startLoad_mems (s : State) (m : BaleImage) (base present : Nat)
    (hm : memsOk (keepOf s)) : memsOk (keepOf (startLoad s m base present)) := by
  unfold startLoad
  dsimp only
  (repeat' split) <;> first
    | (simpa using hm)
    | exact failLoad_mems _ _ _ (by simpa using hm)

theorem execBaleLoadEnd_mems (s : State)
    (hm : memsOk (keepOf s)) : ∀ t', execBaleLoadEnd s = .next t' → memsOk (keepOf t') := by
  intro t' h
  unfold execBaleLoadEnd at h
  rw [runningHw_next] at h
  subst h
  (repeat' split) <;> simp [hm, endLoad_mems]

theorem mbxStart_mems (s : State) (opc : Byte) (a : MbxArgs) (k : State → State)
    (h : ∀ s, memsOk (keepOf s) → memsOk (keepOf (k s))) (hm : memsOk (keepOf s)) : memsOk (keepOf (mbxStart s opc a k)) := by
  unfold mbxStart
  simp only []
  split
  · exact hm
  · split
    · simpa using hm
    · split
      · simpa using hm
      · apply h
        simpa using hm

theorem execBaleAbort_mems (a : MbxArgs) (s : State)
    (hm : memsOk (keepOf s)) : ∀ t', execBaleAbort a s = .next t' → memsOk (keepOf t') := by
  intro t' h
  unfold execBaleAbort at h
  rw [runningHw_next] at h
  subst h
  split
  · exact hm
  split
  · refine mbxStart_mems _ _ _ _ ?_ hm
    intro u hu
    split
    · simpa using failLoad_mems u stAborted [] hu
    · simpa using hu
  · exact hm

theorem flashUnknown_mems (s : State) (a n : Nat)
    (hm : memsOk (keepOf s)) : memsOk (keepOf (flashUnknown s a n)) := by
  unfold flashUnknown
  simp [hm, flashWrite_mems]

theorem cutFlash_mems (s : State) (c : FlashCmd)
    (hm : memsOk (keepOf s)) : memsOk (keepOf (cutFlash s c)) := by
  unfold cutFlash
  split <;> simp [hm, flashUnknown_mems]

theorem bankDoneCmd_mems (s : State) (w : BankWrite) (c : FlashCmd) (r : FlashRes)
    (hm : memsOk (keepOf s)) : memsOk (keepOf (bankDoneCmd s w c r)) := by
  unfold bankDoneCmd
  (repeat' split) <;> simp [hm, flashWrite_mems, flashErase_mems, flashUnknown_mems]

theorem logDoneCmd_mems (s : State) (c : FlashCmd) (r : FlashRes)
    (hm : memsOk (keepOf s)) : memsOk (keepOf (logDoneCmd s c r)) := by
  unfold logDoneCmd
  (repeat' split) <;> simp [hm, flashWrite_mems, flashErase_mems, flashUnknown_mems]

theorem flashDone_mems (s : State) (r : FlashRes)
    (hm : memsOk (keepOf s)) : memsOk (keepOf (flashDone s r)) := by
  unfold flashDone
  dsimp only
  (repeat' split) <;> simp [hm, bankDoneCmd_mems, logDoneCmd_mems]

theorem cutBank_mems (s : State)
    (hm : memsOk (keepOf s)) : memsOk (keepOf (cutBank s)) := by
  unfold cutBank
  dsimp only
  (repeat' split) <;> simp [hm, cutFlash_mems]

theorem abandonBank_mems (s : State)
    (hm : memsOk (keepOf s)) : memsOk (keepOf (abandonBank s)) := by
  unfold abandonBank
  simp [hm, cutBank_mems]

theorem cutFlashAll_mems (s : State)
    (hm : memsOk (keepOf s)) : memsOk (keepOf (cutFlashAll s)) := by
  unfold cutFlashAll
  dsimp only
  (repeat' split) <;> simp [hm, cutFlash_mems]

theorem wiped_mems (s : State) (warm : Bool) (hm : memsOk (keepOf s)) : memsOk (keepOf (wiped s warm)) := by
  have h := cutFlashAll_mems s hm
  have e : memsOk (keepOf (cutFuse (cutFlashAll s))) := by
    unfold cutFuse
    split
    · exact mems_of (t := { drawn (cutFlashAll s) with fuses := _, fuseOp := none }) (memsOk_far h :) (memsOk_flash h :)
    · exact h
  unfold wiped
  generalize cutFuse (cutFlashAll s) = u at e
  exact mems_of rfl (memsOk_flash e :)

theorem useCfg_mems (s : State) (far : Option Nat) (hm : memsOk (keepOf s)) : memsOk (keepOf (useCfg s far)) := by
  exact mems_of (memsOk_far hm :) (memsOk_flash hm :)

theorem chooseRecord_mems (s : State) (hm : memsOk (keepOf s)) : memsOk (keepOf (chooseRecord s)) := by
  unfold chooseRecord
  split <;> exact mems_of (memsOk_far hm :) (memsOk_flash hm :)

theorem choosePair_mems (s : State) (hm : memsOk (keepOf s)) : memsOk (keepOf (choosePair s)) := by
  unfold choosePair
  dsimp only
  split <;> exact mems_of (memsOk_far hm :) (memsOk_flash hm :)

theorem newChal_mems (s : State) (hm : memsOk (keepOf s)) : memsOk (keepOf (newChal s)) :=
  mems_of (memsOk_far hm :) (memsOk_flash hm :)

theorem beginBoot_mems (s : State) (f : Sfdp) (w : Bool) (hm : memsOk (keepOf s)) : memsOk (keepOf (beginBoot s f w)) :=
  mems_of (memsOk_far hm :) (memsOk_flash hm :)

theorem ownView_mems (s : State) (hm : memsOk (keepOf s)) : memsOk (keepOf (ownView s)) :=
  mems_of (memsOk_far hm :) (memsOk_flash hm :)

theorem bringUp_mems (s : State) (sfdp : Sfdp) (warm : Bool)
    (hm : memsOk (keepOf s)) : memsOk (keepOf (bringUp s sfdp warm)) := by
  unfold bringUp
  refine choosePair_mems _ (ownView_mems _ (useCfg_mems _ _ (chooseRecord_mems _ ?_)))
  rw [scanLog_keep, powerPlots_keep]
  exact newChal_mems _ (beginBoot_mems _ _ _ (wiped_mems s warm hm))

theorem warmReset_mems (s : State) (sfdp : Sfdp)
    (hm : memsOk (keepOf s)) : memsOk (keepOf (warmReset s sfdp)) := by
  unfold warmReset
  simp [hm, bringUp_mems]

theorem requestFailed_mems (s : State) (who : Issuer) (st : W16) (wr : Bool)
    (hm : memsOk (keepOf s)) : memsOk (keepOf (requestFailed s who st wr)) := by
  unfold requestFailed
  (repeat' split) <;> simp [hm, failLoad_mems]

theorem execMemoryReadResponse_mems (mp : Fin 8) (tag : BitVec 11) (last err : Bool) (s : State)
    (hm : memsOk (keepOf s)) : ∀ t', execMemoryReadResponse mp tag last err s = .next t' → memsOk (keepOf t') := by
  intro t' h
  unfold execMemoryReadResponse at h
  rw [overFord_next] at h
  subst h
  dsimp only
  (repeat' split) <;> simp [hm, requestFailed_mems]

theorem execMemoryWriteResponse_mems (mp : Fin 8) (tag : BitVec 11) (err : Bool) (s : State)
    (hm : memsOk (keepOf s)) : ∀ t', execMemoryWriteResponse mp tag err s = .next t' → memsOk (keepOf t') := by
  intro t' h
  unfold execMemoryWriteResponse at h
  rw [overFord_next] at h
  subst h
  dsimp only
  (repeat' split) <;> simp [hm, requestFailed_mems]

theorem execContentCompletion_mems (tag : BitVec 9) (last : Bool) (status : BitVec 3) (s : State)
    (hm : memsOk (keepOf s)) : ∀ t', execContentCompletion tag last status s = .next t' → memsOk (keepOf t') := by
  intro t' h
  unfold execContentCompletion at h
  rw [overFord_next] at h
  subst h
  dsimp only
  (repeat' split) <;> simp [hm, requestFailed_mems]

theorem execCompletionTimeout_mems (t : ReqTag) (s : State)
    (hm : memsOk (keepOf s)) : ∀ t', execCompletionTimeout t s = .next t' → memsOk (keepOf t') := by
  intro t' h
  unfold execCompletionTimeout at h
  rw [runningHw_next] at h
  subst h
  (repeat' split) <;> simp [hm, requestFailed_mems]

theorem endDma_mems (s : State) (ch : Nat) (d : Dma) (rest : List Dma) (r : DmaRes)
    (hm : memsOk (keepOf s)) : memsOk (keepOf (endDma s ch d rest r)) := by
  unfold endDma
  dsimp only
  refine endEnding_mems _ ?_
  (repeat' split) <;> simp [hm]

theorem execDmaTransferComplete_mems (ch : Fin 16) (r : DmaRes) (s : State)
    (hm : memsOk (keepOf s)) : ∀ t', execDmaTransferComplete ch r s = .next t' → memsOk (keepOf t') := by
  intro t' h
  unfold execDmaTransferComplete at h
  rw [runningOn_next] at h
  subst h
  (repeat' split) <;> simp [hm, endDma_mems]

theorem enterFenced_mems (s : State)
    (hm : memsOk (keepOf s)) : memsOk (keepOf (enterFenced s)) := by
  unfold enterFenced
  dsimp only
  have a : memsOk (keepOf (if loadHeld s then failLoad s stCommandAborted [] else s)) :=
    memsOk_ite _ _ _ (failLoad_mems _ _ _ hm) hm
  generalize (if loadHeld s then failLoad s stCommandAborted [] else s) = u at a ⊢
  have b : memsOk (keepOf (endWhere { u with boot := { u.boot with fenced := true, fwVer := 0, mcVer := 0, baleFmts := [] } }
      (fun _ => true) stCannotScreen)) := by
    rw [endWhere_keep]
    exact mems_of (memsOk_far a :) (memsOk_flash a :)
  generalize endWhere _ _ _ = v at b ⊢
  simpa using b

theorem restart_mems (s : State)
    (hm : memsOk (keepOf s)) : memsOk (keepOf (restart s)) := by
  have c : ∀ v : State, memsOk (keepOf v) → memsOk (keepOf (if v.bankWr.isSome = true then
      raise { abandonBank v with bankSt := 3, bankErr := stCommandAborted } intMbx else v)) :=
    fun v h => memsOk_ite _ _ _ (by simpa using abandonBank_mems v h) h
  unfold restart
  dsimp only
  have hm : memsOk (keepOf (orphanOp s)) := by simpa using hm
  have a : memsOk (keepOf { orphanOp s with
      hay := { (orphanOp s).hay with restarts := (s.hay.restarts.filter fun t => decide (s.now ≤ t + 10000000000)) ++ [s.now],
                                     dogAt := (orphanOp s).now, firmRun := false },
      boot := { (orphanOp s).boot with hwrdy := false }, mbx := { (orphanOp s).mbx with running := none } }) :=
    mems_of (memsOk_far hm :) (memsOk_flash hm :)
  split
  · refine enterFenced_mems _ ?_
    rw [logRec_keep]
    exact c _ (memsOk_ite _ _ _ (failLoad_mems _ _ _ a) a)
  · rw [logRec_keep]
    exact c _ (memsOk_ite _ _ _ (failLoad_mems _ _ _ a) a)

theorem execWatchdogExpiry_mems (s : State)
    (hm : memsOk (keepOf s)) : ∀ t', execWatchdogExpiry s = .next t' → memsOk (keepOf t') := by
  intro t' h
  unfold execWatchdogExpiry at h
  rw [whenUp_next] at h
  subst h
  (repeat' split) <;> simp [hm, restart_mems]

theorem execHaywardSramError_mems (s : State)
    (hm : memsOk (keepOf s)) : ∀ t', execHaywardSramError s = .next t' → memsOk (keepOf t') := by
  intro t' h
  unfold execHaywardSramError at h
  rw [whenUp_next] at h
  subst h
  (repeat' split) <;> simp [hm, restart_mems]

theorem execPorNRelease_mems (sfdp : Sfdp) (s : State)
    (hm : memsOk (keepOf s)) : ∀ t', execPorNRelease sfdp s = .next t' → memsOk (keepOf t') := by
  intro t' h
  unfold execPorNRelease at h
  cases h
  split <;> simp [hm, bringUp_mems]

theorem execPorNAssert_mems (s : State)
    (hm : memsOk (keepOf s)) : ∀ t', execPorNAssert s = .next t' → memsOk (keepOf t') := by
  intro t' h
  cases h
  exact wiped_mems s false hm

theorem execWarmNReset_mems (sfdp : Sfdp) (s : State)
    (hm : memsOk (keepOf s)) : ∀ t', execWarmNReset sfdp s = .next t' → memsOk (keepOf t') := by
  intro t' h
  unfold execWarmNReset at h
  cases h
  split <;> simp [hm, warmReset_mems]

theorem execFarWipeComplete_mems (s : State)
    (hm : memsOk (keepOf s)) : ∀ t', execFarWipeComplete s = .next t' → memsOk (keepOf t') := by
  intro t' h
  cases h
  split
  · exact mems_of rfl (memsOk_flash hm :)
  · exact hm

theorem beginFuse_mems (s : State) (op : FuseOp) (hm : memsOk (keepOf s)) : memsOk (keepOf (beginFuse s op)) := by
  have a : memsOk (keepOf { s with fuseOp := some op }) :=
    mems_of (memsOk_far hm :) (memsOk_flash hm :)
  unfold beginFuse
  dsimp only
  split
  · simpa using a
  · exact a

theorem beginWaiting_mems (s : State) (hm : memsOk (keepOf s)) : memsOk (keepOf (beginWaiting s)) := by
  unfold beginWaiting
  split
  · exact hm
  · split
    · exact beginFuse_mems _ _ (mems_of (memsOk_far hm :) (memsOk_flash hm :))
    · exact hm

theorem execFuseProgramComplete_mems (s : State)
    (hm : memsOk (keepOf s)) : ∀ t', execFuseProgramComplete s = .next t' → memsOk (keepOf t') := by
  intro t' h
  unfold execFuseProgramComplete at h
  rw [runningHw_next] at h
  subst h
  split
  · exact hm
  split
  · split
    · exact hm
    · rename_i op _
      dsimp only
      have a : memsOk (keepOf { s with fuseOp := none, fuses := fuseWritten s.fuses op }) :=
        mems_of (memsOk_far hm :) (memsOk_flash hm :)
      split
      · exact warmReset_mems _ _ a
      · refine beginWaiting_mems _ ?_
        simpa using a
  · exact hm

theorem putShadows_mems (s u : State) (b : Nat) (l : List Nat) (h : keepOf u = keepOf s) (hm : memsOk (keepOf s)) :
    memsOk (keepOf (l.foldl (fun s e => putShadow s b e) u)) :=
  memsOk_foldl _ (fun s e h => putShadow_mems s b e h) l u (by rw [h]; exact hm)

theorem runBankOp_mems (s : State) (b : Nat)
    (hm : memsOk (keepOf s)) : memsOk (keepOf (runBankOp s b)) := by
  unfold runBankOp
  split
  · dsimp only
    split
    · exact hm
    · rename_i h
      have a := shadowWrites_keep _ _ _ _ h
      rw [show ∀ (u : State) d, keepOf { u with bankDone := smSet [] u.bankDone b [d] } = keepOf u from fun u d => by simp, a]
      exact putShadows_mems s _ _ _ (by simp) hm
  · exact hm

theorem execFenBankOp_mems (b : Fin 64) (s : State)
    (hm : memsOk (keepOf s)) : ∀ t', execFenBankOp b s = .next t' → memsOk (keepOf t') := by
  intro t' h
  unfold execFenBankOp at h
  rw [runningOn_next] at h
  subst h
  (repeat' split) <;> simp [hm, runBankOp_mems]

theorem scrubEntry_mems (s : State) (b e : Nat)
    (hm : memsOk (keepOf s)) : memsOk (keepOf (scrubEntry s b e)) := by
  unfold scrubEntry
  dsimp only
  (repeat' split) <;> simp [hm, putShadow_mems]

theorem scrubBank_mems (s : State) (b : Nat)
    (hm : memsOk (keepOf s)) : memsOk (keepOf (scrubBank s b)) := by
  unfold scrubBank
  split <;> simp [hm, scrubEntry_mems]

theorem execFenScrub_mems (s : State)
    (hm : memsOk (keepOf s)) : ∀ t', execFenScrub s = .next t' → memsOk (keepOf t') := by
  intro t' h
  unfold execFenScrub at h
  rw [whenUp_next] at h
  subst h
  split
  · split
    · split
      · exact hm
      · exact memsOk_foldl _ (fun s b h => scrubBank_mems s b h) (List.range 64) s hm
    · exact hm
  · exact hm

theorem execFlashCommandComplete_mems (r : FlashRes) (s : State)
    (hm : memsOk (keepOf s)) : ∀ t', execFlashCommandComplete r s = .next t' → memsOk (keepOf t') := by
  intro t' h
  unfold execFlashCommandComplete at h
  rw [runningHw_next] at h
  subst h
  (repeat' split) <;> simp [hm, flashDone_mems]

theorem execFlashTimeout_mems (s : State)
    (hm : memsOk (keepOf s)) : ∀ t', execFlashTimeout s = .next t' → memsOk (keepOf t') := by
  intro t' h
  unfold execFlashTimeout at h
  rw [runningHw_next] at h
  subst h
  (repeat' split) <;> simp [hm, flashUnknown_mems, cutFlash_mems]

end Sys2Proof.Machine
end

