-- ==== Sys2Proof/Laws/State.lean ====
section
/-! SUPPORT. One law per field of State for each update of one part: what the update does not touch reads as before.  And what each
update sets. -/

namespace Sys2Proof.Machine


/-! ## setPort -/

@[simp] theorem setPort_pending (s : State) (p : Nat) (x : Port) : (setPort s p x).pending = s.pending := rfl
@[simp] theorem setPort_out (s : State) (p : Nat) (x : Port) : (setPort s p x).out = s.out := rfl
@[simp] theorem setPort_free (s : State) (p : Nat) (x : Port) : (setPort s p x).free = s.free := rfl
@[simp] theorem setPort_now (s : State) (p : Nat) (x : Port) : (setPort s p x).now = s.now := rfl
@[simp] theorem setPort_boot (s : State) (p : Nat) (x : Port) : (setPort s p x).boot = s.boot := rfl
@[simp] theorem setPort_fuses (s : State) (p : Nat) (x : Port) : (setPort s p x).fuses = s.fuses := rfl
@[simp] theorem setPort_fuseOp (s : State) (p : Nat) (x : Port) : (setPort s p x).fuseOp = s.fuseOp := rfl
@[simp] theorem setPort_fuseWait (s : State) (p : Nat) (x : Port) : (setPort s p x).fuseWait = s.fuseWait := rfl
@[simp] theorem setPort_chal (s : State) (p : Nat) (x : Port) : (setPort s p x).chal = s.chal := rfl
@[simp] theorem setPort_cfg (s : State) (p : Nat) (x : Port) : (setPort s p x).cfg = s.cfg := rfl
@[simp] theorem setPort_view (s : State) (p : Nat) (x : Port) : (setPort s p x).view = s.view := rfl
@[simp] theorem setPort_c0wait (s : State) (p : Nat) (x : Port) : (setPort s p x).c0wait = s.c0wait := rfl
@[simp] theorem setPort_routeHold (s : State) (p : Nat) (x : Port) : (setPort s p x).routeHold = s.routeHold := rfl
@[simp] theorem setPort_discards (s : State) (p : Nat) (x : Port) : (setPort s p x).discards = s.discards := rfl
@[simp] theorem setPort_fbs (s : State) (p : Nat) (x : Port) : (setPort s p x).fbs = s.fbs := rfl
@[simp] theorem setPort_poolUsed (s : State) (p : Nat) (x : Port) : (setPort s p x).poolUsed = s.poolUsed := rfl
@[simp] theorem setPort_poolRes (s : State) (p : Nat) (x : Port) : (setPort s p x).poolRes = s.poolRes := rfl
@[simp] theorem setPort_rotPtr (s : State) (p : Nat) (x : Port) : (setPort s p x).rotPtr = s.rotPtr := rfl
@[simp] theorem setPort_weirs (s : State) (p : Nat) (x : Port) : (setPort s p x).weirs = s.weirs := rfl
@[simp] theorem setPort_sluices (s : State) (p : Nat) (x : Port) : (setPort s p x).sluices = s.sluices := rfl
@[simp] theorem setPort_outCtr (s : State) (p : Nat) (x : Port) : (setPort s p x).outCtr = s.outCtr := rfl
@[simp] theorem setPort_inWin (s : State) (p : Nat) (x : Port) : (setPort s p x).inWin = s.inWin := rfl
@[simp] theorem setPort_linkTags (s : State) (p : Nat) (x : Port) : (setPort s p x).linkTags = s.linkTags := rfl
@[simp] theorem setPort_adms (s : State) (p : Nat) (x : Port) : (setPort s p x).adms = s.adms := rfl
@[simp] theorem setPort_streams (s : State) (p : Nat) (x : Port) : (setPort s p x).streams = s.streams := rfl
@[simp] theorem setPort_reqs (s : State) (p : Nat) (x : Port) : (setPort s p x).reqs = s.reqs := rfl
@[simp] theorem setPort_buckets (s : State) (p : Nat) (x : Port) : (setPort s p x).buckets = s.buckets := rfl
@[simp] theorem setPort_laneTurn (s : State) (p : Nat) (x : Port) : (setPort s p x).laneTurn = s.laneTurn := rfl
@[simp] theorem setPort_tickAt (s : State) (p : Nat) (x : Port) : (setPort s p x).tickAt = s.tickAt := rfl
@[simp] theorem setPort_passAt (s : State) (p : Nat) (x : Port) : (setPort s p x).passAt = s.passAt := rfl
@[simp] theorem setPort_fen (s : State) (p : Nat) (x : Port) : (setPort s p x).fen = s.fen := rfl
@[simp] theorem setPort_bankQ (s : State) (p : Nat) (x : Port) : (setPort s p x).bankQ = s.bankQ := rfl
@[simp] theorem setPort_bankHeld (s : State) (p : Nat) (x : Port) : (setPort s p x).bankHeld = s.bankHeld := rfl
@[simp] theorem setPort_bankDone (s : State) (p : Nat) (x : Port) : (setPort s p x).bankDone = s.bankDone := rfl
@[simp] theorem setPort_suspect (s : State) (p : Nat) (x : Port) : (setPort s p x).suspect = s.suspect := rfl
@[simp] theorem setPort_scrubPos (s : State) (p : Nat) (x : Port) : (setPort s p x).scrubPos = s.scrubPos := rfl
@[simp] theorem setPort_scrubQ (s : State) (p : Nat) (x : Port) : (setPort s p x).scrubQ = s.scrubQ := rfl
@[simp] theorem setPort_fenQ (s : State) (p : Nat) (x : Port) : (setPort s p x).fenQ = s.fenQ := rfl
@[simp] theorem setPort_fenRes (s : State) (p : Nat) (x : Port) : (setPort s p x).fenRes = s.fenRes := rfl
@[simp] theorem setPort_opLog (s : State) (p : Nat) (x : Port) : (setPort s p x).opLog = s.opLog := rfl
@[simp] theorem setPort_objs (s : State) (p : Nat) (x : Port) : (setPort s p x).objs = s.objs := rfl
@[simp] theorem setPort_tabA (s : State) (p : Nat) (x : Port) : (setPort s p x).tabA = s.tabA := rfl
@[simp] theorem setPort_tabB (s : State) (p : Nat) (x : Port) : (setPort s p x).tabB = s.tabB := rfl
@[simp] theorem setPort_actB (s : State) (p : Nat) (x : Port) : (setPort s p x).actB = s.actB := rfl
@[simp] theorem setPort_setAct (s : State) (p : Nat) (x : Port) : (setPort s p x).setAct = s.setAct := rfl
@[simp] theorem setPort_setEpoch (s : State) (p : Nat) (x : Port) : (setPort s p x).setEpoch = s.setEpoch := rfl
@[simp] theorem setPort_load (s : State) (p : Nat) (x : Port) : (setPort s p x).load = s.load := rfl
@[simp] theorem setPort_ests (s : State) (p : Nat) (x : Port) : (setPort s p x).ests = s.ests := rfl
@[simp] theorem setPort_blocks (s : State) (p : Nat) (x : Port) : (setPort s p x).blocks = s.blocks := rfl
@[simp] theorem setPort_slow (s : State) (p : Nat) (x : Port) : (setPort s p x).slow = s.slow := rfl
@[simp] theorem setPort_far (s : State) (p : Nat) (x : Port) : (setPort s p x).far = s.far := rfl
@[simp] theorem setPort_kv (s : State) (p : Nat) (x : Port) : (setPort s p x).kv = s.kv := rfl
@[simp] theorem setPort_memTags (s : State) (p : Nat) (x : Port) : (setPort s p x).memTags = s.memTags := rfl
@[simp] theorem setPort_conTags (s : State) (p : Nat) (x : Port) : (setPort s p x).conTags = s.conTags := rfl
@[simp] theorem setPort_dmaQ (s : State) (p : Nat) (x : Port) : (setPort s p x).dmaQ = s.dmaQ := rfl
@[simp] theorem setPort_dmaWait (s : State) (p : Nat) (x : Port) : (setPort s p x).dmaWait = s.dmaWait := rfl
@[simp] theorem setPort_dmaTag (s : State) (p : Nat) (x : Port) : (setPort s p x).dmaTag = s.dmaTag := rfl
@[simp] theorem setPort_memRest (s : State) (p : Nat) (x : Port) : (setPort s p x).memRest = s.memRest := rfl
@[simp] theorem setPort_conRest (s : State) (p : Nat) (x : Port) : (setPort s p x).conRest = s.conRest := rfl
@[simp] theorem setPort_flashAt (s : State) (p : Nat) (x : Port) : (setPort s p x).flashAt = s.flashAt := rfl
@[simp] theorem setPort_opOrphans (s : State) (p : Nat) (x : Port) : (setPort s p x).opOrphans = s.opOrphans := rfl
@[simp] theorem setPort_dmaDone (s : State) (p : Nat) (x : Port) : (setPort s p x).dmaDone = s.dmaDone := rfl
@[simp] theorem setPort_progs (s : State) (p : Nat) (x : Port) : (setPort s p x).progs = s.progs := rfl
@[simp] theorem setPort_progNo (s : State) (p : Nat) (x : Port) : (setPort s p x).progNo = s.progNo := rfl
@[simp] theorem setPort_jobs (s : State) (p : Nat) (x : Port) : (setPort s p x).jobs = s.jobs := rfl
@[simp] theorem setPort_disp (s : State) (p : Nat) (x : Port) : (setPort s p x).disp = s.disp := rfl
@[simp] theorem setPort_sram (s : State) (p : Nat) (x : Port) : (setPort s p x).sram = s.sram := rfl
@[simp] theorem setPort_flips (s : State) (p : Nat) (x : Port) : (setPort s p x).flips = s.flips := rfl
@[simp] theorem setPort_counters (s : State) (p : Nat) (x : Port) : (setPort s p x).counters = s.counters := rfl
@[simp] theorem setPort_mask (s : State) (p : Nat) (x : Port) : (setPort s p x).mask = s.mask := rfl
@[simp] theorem setPort_draining (s : State) (p : Nat) (x : Port) : (setPort s p x).draining = s.draining := rfl
@[simp] theorem setPort_locks (s : State) (p : Nat) (x : Port) : (setPort s p x).locks = s.locks := rfl
@[simp] theorem setPort_plots (s : State) (p : Nat) (x : Port) : (setPort s p x).plots = s.plots := rfl
@[simp] theorem setPort_hay (s : State) (p : Nat) (x : Port) : (setPort s p x).hay = s.hay := rfl
@[simp] theorem setPort_flash (s : State) (p : Nat) (x : Port) : (setPort s p x).flash = s.flash := rfl
@[simp] theorem setPort_flashCmd (s : State) (p : Nat) (x : Port) : (setPort s p x).flashCmd = s.flashCmd := rfl
@[simp] theorem setPort_flashSusp (s : State) (p : Nat) (x : Port) : (setPort s p x).flashSusp = s.flashSusp := rfl
@[simp] theorem setPort_spoilt (s : State) (p : Nat) (x : Port) : (setPort s p x).spoilt = s.spoilt := rfl
@[simp] theorem setPort_bankWr (s : State) (p : Nat) (x : Port) : (setPort s p x).bankWr = s.bankWr := rfl
@[simp] theorem setPort_bankSt (s : State) (p : Nat) (x : Port) : (setPort s p x).bankSt = s.bankSt := rfl
@[simp] theorem setPort_bankErr (s : State) (p : Nat) (x : Port) : (setPort s p x).bankErr = s.bankErr := rfl
@[simp] theorem setPort_bankTgt (s : State) (p : Nat) (x : Port) : (setPort s p x).bankTgt = s.bankTgt := rfl
@[simp] theorem setPort_log (s : State) (p : Nat) (x : Port) : (setPort s p x).log = s.log := rfl
@[simp] theorem setPort_mgmt (s : State) (p : Nat) (x : Port) : (setPort s p x).mgmt = s.mgmt := rfl
@[simp] theorem setPort_gen (s : State) (p : Nat) (x : Port) : (setPort s p x).gen = s.gen := rfl
@[simp] theorem setPort_mbx (s : State) (p : Nat) (x : Port) : (setPort s p x).mbx = s.mbx := rfl
@[simp] theorem setPort_det (s : State) (p : Nat) (x : Port) : (setPort s p x).det = s.det := rfl
@[simp] theorem setPort_logWin (s : State) (p : Nat) (x : Port) : (setPort s p x).logWin = s.logWin := rfl
@[simp] theorem setPort_tel (s : State) (p : Nat) (x : Port) : (setPort s p x).tel = s.tel := rfl
@[simp] theorem setPort_tally (s : State) (p : Nat) (x : Port) : (setPort s p x).tally = s.tally := rfl

/-! ## modPort -/

@[simp] theorem modPort_pending (s : State) (p : Nat) (f : Port → Port) : (modPort s p f).pending = s.pending := rfl
@[simp] theorem modPort_out (s : State) (p : Nat) (f : Port → Port) : (modPort s p f).out = s.out := rfl
@[simp] theorem modPort_free (s : State) (p : Nat) (f : Port → Port) : (modPort s p f).free = s.free := rfl
@[simp] theorem modPort_now (s : State) (p : Nat) (f : Port → Port) : (modPort s p f).now = s.now := rfl
@[simp] theorem modPort_boot (s : State) (p : Nat) (f : Port → Port) : (modPort s p f).boot = s.boot := rfl
@[simp] theorem modPort_fuses (s : State) (p : Nat) (f : Port → Port) : (modPort s p f).fuses = s.fuses := rfl
@[simp] theorem modPort_fuseOp (s : State) (p : Nat) (f : Port → Port) : (modPort s p f).fuseOp = s.fuseOp := rfl
@[simp] theorem modPort_fuseWait (s : State) (p : Nat) (f : Port → Port) : (modPort s p f).fuseWait = s.fuseWait := rfl
@[simp] theorem modPort_chal (s : State) (p : Nat) (f : Port → Port) : (modPort s p f).chal = s.chal := rfl
@[simp] theorem modPort_cfg (s : State) (p : Nat) (f : Port → Port) : (modPort s p f).cfg = s.cfg := rfl
@[simp] theorem modPort_view (s : State) (p : Nat) (f : Port → Port) : (modPort s p f).view = s.view := rfl
@[simp] theorem modPort_c0wait (s : State) (p : Nat) (f : Port → Port) : (modPort s p f).c0wait = s.c0wait := rfl
@[simp] theorem modPort_routeHold (s : State) (p : Nat) (f : Port → Port) : (modPort s p f).routeHold = s.routeHold := rfl
@[simp] theorem modPort_discards (s : State) (p : Nat) (f : Port → Port) : (modPort s p f).discards = s.discards := rfl
@[simp] theorem modPort_fbs (s : State) (p : Nat) (f : Port → Port) : (modPort s p f).fbs = s.fbs := rfl
@[simp] theorem modPort_poolUsed (s : State) (p : Nat) (f : Port → Port) : (modPort s p f).poolUsed = s.poolUsed := rfl
@[simp] theorem modPort_poolRes (s : State) (p : Nat) (f : Port → Port) : (modPort s p f).poolRes = s.poolRes := rfl
@[simp] theorem modPort_rotPtr (s : State) (p : Nat) (f : Port → Port) : (modPort s p f).rotPtr = s.rotPtr := rfl
@[simp] theorem modPort_weirs (s : State) (p : Nat) (f : Port → Port) : (modPort s p f).weirs = s.weirs := rfl
@[simp] theorem modPort_sluices (s : State) (p : Nat) (f : Port → Port) : (modPort s p f).sluices = s.sluices := rfl
@[simp] theorem modPort_outCtr (s : State) (p : Nat) (f : Port → Port) : (modPort s p f).outCtr = s.outCtr := rfl
@[simp] theorem modPort_inWin (s : State) (p : Nat) (f : Port → Port) : (modPort s p f).inWin = s.inWin := rfl
@[simp] theorem modPort_linkTags (s : State) (p : Nat) (f : Port → Port) : (modPort s p f).linkTags = s.linkTags := rfl
@[simp] theorem modPort_adms (s : State) (p : Nat) (f : Port → Port) : (modPort s p f).adms = s.adms := rfl
@[simp] theorem modPort_streams (s : State) (p : Nat) (f : Port → Port) : (modPort s p f).streams = s.streams := rfl
@[simp] theorem modPort_reqs (s : State) (p : Nat) (f : Port → Port) : (modPort s p f).reqs = s.reqs := rfl
@[simp] theorem modPort_buckets (s : State) (p : Nat) (f : Port → Port) : (modPort s p f).buckets = s.buckets := rfl
@[simp] theorem modPort_laneTurn (s : State) (p : Nat) (f : Port → Port) : (modPort s p f).laneTurn = s.laneTurn := rfl
@[simp] theorem modPort_tickAt (s : State) (p : Nat) (f : Port → Port) : (modPort s p f).tickAt = s.tickAt := rfl
@[simp] theorem modPort_passAt (s : State) (p : Nat) (f : Port → Port) : (modPort s p f).passAt = s.passAt := rfl
@[simp] theorem modPort_fen (s : State) (p : Nat) (f : Port → Port) : (modPort s p f).fen = s.fen := rfl
@[simp] theorem modPort_bankQ (s : State) (p : Nat) (f : Port → Port) : (modPort s p f).bankQ = s.bankQ := rfl
@[simp] theorem modPort_bankHeld (s : State) (p : Nat) (f : Port → Port) : (modPort s p f).bankHeld = s.bankHeld := rfl
@[simp] theorem modPort_bankDone (s : State) (p : Nat) (f : Port → Port) : (modPort s p f).bankDone = s.bankDone := rfl
@[simp] theorem modPort_suspect (s : State) (p : Nat) (f : Port → Port) : (modPort s p f).suspect = s.suspect := rfl
@[simp] theorem modPort_scrubPos (s : State) (p : Nat) (f : Port → Port) : (modPort s p f).scrubPos = s.scrubPos := rfl
@[simp] theorem modPort_scrubQ (s : State) (p : Nat) (f : Port → Port) : (modPort s p f).scrubQ = s.scrubQ := rfl
@[simp] theorem modPort_fenQ (s : State) (p : Nat) (f : Port → Port) : (modPort s p f).fenQ = s.fenQ := rfl
@[simp] theorem modPort_fenRes (s : State) (p : Nat) (f : Port → Port) : (modPort s p f).fenRes = s.fenRes := rfl
@[simp] theorem modPort_opLog (s : State) (p : Nat) (f : Port → Port) : (modPort s p f).opLog = s.opLog := rfl
@[simp] theorem modPort_objs (s : State) (p : Nat) (f : Port → Port) : (modPort s p f).objs = s.objs := rfl
@[simp] theorem modPort_tabA (s : State) (p : Nat) (f : Port → Port) : (modPort s p f).tabA = s.tabA := rfl
@[simp] theorem modPort_tabB (s : State) (p : Nat) (f : Port → Port) : (modPort s p f).tabB = s.tabB := rfl
@[simp] theorem modPort_actB (s : State) (p : Nat) (f : Port → Port) : (modPort s p f).actB = s.actB := rfl
@[simp] theorem modPort_setAct (s : State) (p : Nat) (f : Port → Port) : (modPort s p f).setAct = s.setAct := rfl
@[simp] theorem modPort_setEpoch (s : State) (p : Nat) (f : Port → Port) : (modPort s p f).setEpoch = s.setEpoch := rfl
@[simp] theorem modPort_load (s : State) (p : Nat) (f : Port → Port) : (modPort s p f).load = s.load := rfl
@[simp] theorem modPort_ests (s : State) (p : Nat) (f : Port → Port) : (modPort s p f).ests = s.ests := rfl
@[simp] theorem modPort_blocks (s : State) (p : Nat) (f : Port → Port) : (modPort s p f).blocks = s.blocks := rfl
@[simp] theorem modPort_slow (s : State) (p : Nat) (f : Port → Port) : (modPort s p f).slow = s.slow := rfl
@[simp] theorem modPort_far (s : State) (p : Nat) (f : Port → Port) : (modPort s p f).far = s.far := rfl
@[simp] theorem modPort_kv (s : State) (p : Nat) (f : Port → Port) : (modPort s p f).kv = s.kv := rfl
@[simp] theorem modPort_memTags (s : State) (p : Nat) (f : Port → Port) : (modPort s p f).memTags = s.memTags := rfl
@[simp] theorem modPort_conTags (s : State) (p : Nat) (f : Port → Port) : (modPort s p f).conTags = s.conTags := rfl
@[simp] theorem modPort_dmaQ (s : State) (p : Nat) (f : Port → Port) : (modPort s p f).dmaQ = s.dmaQ := rfl
@[simp] theorem modPort_dmaWait (s : State) (p : Nat) (f : Port → Port) : (modPort s p f).dmaWait = s.dmaWait := rfl
@[simp] theorem modPort_dmaTag (s : State) (p : Nat) (f : Port → Port) : (modPort s p f).dmaTag = s.dmaTag := rfl
@[simp] theorem modPort_memRest (s : State) (p : Nat) (f : Port → Port) : (modPort s p f).memRest = s.memRest := rfl
@[simp] theorem modPort_conRest (s : State) (p : Nat) (f : Port → Port) : (modPort s p f).conRest = s.conRest := rfl
@[simp] theorem modPort_flashAt (s : State) (p : Nat) (f : Port → Port) : (modPort s p f).flashAt = s.flashAt := rfl
@[simp] theorem modPort_opOrphans (s : State) (p : Nat) (f : Port → Port) : (modPort s p f).opOrphans = s.opOrphans := rfl
@[simp] theorem modPort_dmaDone (s : State) (p : Nat) (f : Port → Port) : (modPort s p f).dmaDone = s.dmaDone := rfl
@[simp] theorem modPort_progs (s : State) (p : Nat) (f : Port → Port) : (modPort s p f).progs = s.progs := rfl
@[simp] theorem modPort_progNo (s : State) (p : Nat) (f : Port → Port) : (modPort s p f).progNo = s.progNo := rfl
@[simp] theorem modPort_jobs (s : State) (p : Nat) (f : Port → Port) : (modPort s p f).jobs = s.jobs := rfl
@[simp] theorem modPort_disp (s : State) (p : Nat) (f : Port → Port) : (modPort s p f).disp = s.disp := rfl
@[simp] theorem modPort_sram (s : State) (p : Nat) (f : Port → Port) : (modPort s p f).sram = s.sram := rfl
@[simp] theorem modPort_flips (s : State) (p : Nat) (f : Port → Port) : (modPort s p f).flips = s.flips := rfl
@[simp] theorem modPort_counters (s : State) (p : Nat) (f : Port → Port) : (modPort s p f).counters = s.counters := rfl
@[simp] theorem modPort_mask (s : State) (p : Nat) (f : Port → Port) : (modPort s p f).mask = s.mask := rfl
@[simp] theorem modPort_draining (s : State) (p : Nat) (f : Port → Port) : (modPort s p f).draining = s.draining := rfl
@[simp] theorem modPort_locks (s : State) (p : Nat) (f : Port → Port) : (modPort s p f).locks = s.locks := rfl
@[simp] theorem modPort_plots (s : State) (p : Nat) (f : Port → Port) : (modPort s p f).plots = s.plots := rfl
@[simp] theorem modPort_hay (s : State) (p : Nat) (f : Port → Port) : (modPort s p f).hay = s.hay := rfl
@[simp] theorem modPort_flash (s : State) (p : Nat) (f : Port → Port) : (modPort s p f).flash = s.flash := rfl
@[simp] theorem modPort_flashCmd (s : State) (p : Nat) (f : Port → Port) : (modPort s p f).flashCmd = s.flashCmd := rfl
@[simp] theorem modPort_flashSusp (s : State) (p : Nat) (f : Port → Port) : (modPort s p f).flashSusp = s.flashSusp := rfl
@[simp] theorem modPort_spoilt (s : State) (p : Nat) (f : Port → Port) : (modPort s p f).spoilt = s.spoilt := rfl
@[simp] theorem modPort_bankWr (s : State) (p : Nat) (f : Port → Port) : (modPort s p f).bankWr = s.bankWr := rfl
@[simp] theorem modPort_bankSt (s : State) (p : Nat) (f : Port → Port) : (modPort s p f).bankSt = s.bankSt := rfl
@[simp] theorem modPort_bankErr (s : State) (p : Nat) (f : Port → Port) : (modPort s p f).bankErr = s.bankErr := rfl
@[simp] theorem modPort_bankTgt (s : State) (p : Nat) (f : Port → Port) : (modPort s p f).bankTgt = s.bankTgt := rfl
@[simp] theorem modPort_log (s : State) (p : Nat) (f : Port → Port) : (modPort s p f).log = s.log := rfl
@[simp] theorem modPort_mgmt (s : State) (p : Nat) (f : Port → Port) : (modPort s p f).mgmt = s.mgmt := rfl
@[simp] theorem modPort_gen (s : State) (p : Nat) (f : Port → Port) : (modPort s p f).gen = s.gen := rfl
@[simp] theorem modPort_mbx (s : State) (p : Nat) (f : Port → Port) : (modPort s p f).mbx = s.mbx := rfl
@[simp] theorem modPort_det (s : State) (p : Nat) (f : Port → Port) : (modPort s p f).det = s.det := rfl
@[simp] theorem modPort_logWin (s : State) (p : Nat) (f : Port → Port) : (modPort s p f).logWin = s.logWin := rfl
@[simp] theorem modPort_tel (s : State) (p : Nat) (f : Port → Port) : (modPort s p f).tel = s.tel := rfl
@[simp] theorem modPort_tally (s : State) (p : Nat) (f : Port → Port) : (modPort s p f).tally = s.tally := rfl

/-! ## setFb -/

@[simp] theorem setFb_pending (s : State) (f : Nat) (x : FbPort) : (setFb s f x).pending = s.pending := rfl
@[simp] theorem setFb_out (s : State) (f : Nat) (x : FbPort) : (setFb s f x).out = s.out := rfl
@[simp] theorem setFb_free (s : State) (f : Nat) (x : FbPort) : (setFb s f x).free = s.free := rfl
@[simp] theorem setFb_now (s : State) (f : Nat) (x : FbPort) : (setFb s f x).now = s.now := rfl
@[simp] theorem setFb_boot (s : State) (f : Nat) (x : FbPort) : (setFb s f x).boot = s.boot := rfl
@[simp] theorem setFb_fuses (s : State) (f : Nat) (x : FbPort) : (setFb s f x).fuses = s.fuses := rfl
@[simp] theorem setFb_fuseOp (s : State) (f : Nat) (x : FbPort) : (setFb s f x).fuseOp = s.fuseOp := rfl
@[simp] theorem setFb_fuseWait (s : State) (f : Nat) (x : FbPort) : (setFb s f x).fuseWait = s.fuseWait := rfl
@[simp] theorem setFb_chal (s : State) (f : Nat) (x : FbPort) : (setFb s f x).chal = s.chal := rfl
@[simp] theorem setFb_cfg (s : State) (f : Nat) (x : FbPort) : (setFb s f x).cfg = s.cfg := rfl
@[simp] theorem setFb_view (s : State) (f : Nat) (x : FbPort) : (setFb s f x).view = s.view := rfl
@[simp] theorem setFb_ports (s : State) (f : Nat) (x : FbPort) : (setFb s f x).ports = s.ports := rfl
@[simp] theorem setFb_c0wait (s : State) (f : Nat) (x : FbPort) : (setFb s f x).c0wait = s.c0wait := rfl
@[simp] theorem setFb_routeHold (s : State) (f : Nat) (x : FbPort) : (setFb s f x).routeHold = s.routeHold := rfl
@[simp] theorem setFb_discards (s : State) (f : Nat) (x : FbPort) : (setFb s f x).discards = s.discards := rfl
@[simp] theorem setFb_poolUsed (s : State) (f : Nat) (x : FbPort) : (setFb s f x).poolUsed = s.poolUsed := rfl
@[simp] theorem setFb_poolRes (s : State) (f : Nat) (x : FbPort) : (setFb s f x).poolRes = s.poolRes := rfl
@[simp] theorem setFb_rotPtr (s : State) (f : Nat) (x : FbPort) : (setFb s f x).rotPtr = s.rotPtr := rfl
@[simp] theorem setFb_weirs (s : State) (f : Nat) (x : FbPort) : (setFb s f x).weirs = s.weirs := rfl
@[simp] theorem setFb_sluices (s : State) (f : Nat) (x : FbPort) : (setFb s f x).sluices = s.sluices := rfl
@[simp] theorem setFb_outCtr (s : State) (f : Nat) (x : FbPort) : (setFb s f x).outCtr = s.outCtr := rfl
@[simp] theorem setFb_inWin (s : State) (f : Nat) (x : FbPort) : (setFb s f x).inWin = s.inWin := rfl
@[simp] theorem setFb_linkTags (s : State) (f : Nat) (x : FbPort) : (setFb s f x).linkTags = s.linkTags := rfl
@[simp] theorem setFb_adms (s : State) (f : Nat) (x : FbPort) : (setFb s f x).adms = s.adms := rfl
@[simp] theorem setFb_streams (s : State) (f : Nat) (x : FbPort) : (setFb s f x).streams = s.streams := rfl
@[simp] theorem setFb_reqs (s : State) (f : Nat) (x : FbPort) : (setFb s f x).reqs = s.reqs := rfl
@[simp] theorem setFb_buckets (s : State) (f : Nat) (x : FbPort) : (setFb s f x).buckets = s.buckets := rfl
@[simp] theorem setFb_laneTurn (s : State) (f : Nat) (x : FbPort) : (setFb s f x).laneTurn = s.laneTurn := rfl
@[simp] theorem setFb_tickAt (s : State) (f : Nat) (x : FbPort) : (setFb s f x).tickAt = s.tickAt := rfl
@[simp] theorem setFb_passAt (s : State) (f : Nat) (x : FbPort) : (setFb s f x).passAt = s.passAt := rfl
@[simp] theorem setFb_fen (s : State) (f : Nat) (x : FbPort) : (setFb s f x).fen = s.fen := rfl
@[simp] theorem setFb_bankQ (s : State) (f : Nat) (x : FbPort) : (setFb s f x).bankQ = s.bankQ := rfl
@[simp] theorem setFb_bankHeld (s : State) (f : Nat) (x : FbPort) : (setFb s f x).bankHeld = s.bankHeld := rfl
@[simp] theorem setFb_bankDone (s : State) (f : Nat) (x : FbPort) : (setFb s f x).bankDone = s.bankDone := rfl
@[simp] theorem setFb_suspect (s : State) (f : Nat) (x : FbPort) : (setFb s f x).suspect = s.suspect := rfl
@[simp] theorem setFb_scrubPos (s : State) (f : Nat) (x : FbPort) : (setFb s f x).scrubPos = s.scrubPos := rfl
@[simp] theorem setFb_scrubQ (s : State) (f : Nat) (x : FbPort) : (setFb s f x).scrubQ = s.scrubQ := rfl
@[simp] theorem setFb_fenQ (s : State) (f : Nat) (x : FbPort) : (setFb s f x).fenQ = s.fenQ := rfl
@[simp] theorem setFb_fenRes (s : State) (f : Nat) (x : FbPort) : (setFb s f x).fenRes = s.fenRes := rfl
@[simp] theorem setFb_opLog (s : State) (f : Nat) (x : FbPort) : (setFb s f x).opLog = s.opLog := rfl
@[simp] theorem setFb_objs (s : State) (f : Nat) (x : FbPort) : (setFb s f x).objs = s.objs := rfl
@[simp] theorem setFb_tabA (s : State) (f : Nat) (x : FbPort) : (setFb s f x).tabA = s.tabA := rfl
@[simp] theorem setFb_tabB (s : State) (f : Nat) (x : FbPort) : (setFb s f x).tabB = s.tabB := rfl
@[simp] theorem setFb_actB (s : State) (f : Nat) (x : FbPort) : (setFb s f x).actB = s.actB := rfl
@[simp] theorem setFb_setAct (s : State) (f : Nat) (x : FbPort) : (setFb s f x).setAct = s.setAct := rfl
@[simp] theorem setFb_setEpoch (s : State) (f : Nat) (x : FbPort) : (setFb s f x).setEpoch = s.setEpoch := rfl
@[simp] theorem setFb_load (s : State) (f : Nat) (x : FbPort) : (setFb s f x).load = s.load := rfl
@[simp] theorem setFb_ests (s : State) (f : Nat) (x : FbPort) : (setFb s f x).ests = s.ests := rfl
@[simp] theorem setFb_blocks (s : State) (f : Nat) (x : FbPort) : (setFb s f x).blocks = s.blocks := rfl
@[simp] theorem setFb_slow (s : State) (f : Nat) (x : FbPort) : (setFb s f x).slow = s.slow := rfl
@[simp] theorem setFb_far (s : State) (f : Nat) (x : FbPort) : (setFb s f x).far = s.far := rfl
@[simp] theorem setFb_kv (s : State) (f : Nat) (x : FbPort) : (setFb s f x).kv = s.kv := rfl
@[simp] theorem setFb_memTags (s : State) (f : Nat) (x : FbPort) : (setFb s f x).memTags = s.memTags := rfl
@[simp] theorem setFb_conTags (s : State) (f : Nat) (x : FbPort) : (setFb s f x).conTags = s.conTags := rfl
@[simp] theorem setFb_dmaQ (s : State) (f : Nat) (x : FbPort) : (setFb s f x).dmaQ = s.dmaQ := rfl
@[simp] theorem setFb_dmaWait (s : State) (f : Nat) (x : FbPort) : (setFb s f x).dmaWait = s.dmaWait := rfl
@[simp] theorem setFb_dmaTag (s : State) (f : Nat) (x : FbPort) : (setFb s f x).dmaTag = s.dmaTag := rfl
@[simp] theorem setFb_memRest (s : State) (f : Nat) (x : FbPort) : (setFb s f x).memRest = s.memRest := rfl
@[simp] theorem setFb_conRest (s : State) (f : Nat) (x : FbPort) : (setFb s f x).conRest = s.conRest := rfl
@[simp] theorem setFb_flashAt (s : State) (f : Nat) (x : FbPort) : (setFb s f x).flashAt = s.flashAt := rfl
@[simp] theorem setFb_opOrphans (s : State) (f : Nat) (x : FbPort) : (setFb s f x).opOrphans = s.opOrphans := rfl
@[simp] theorem setFb_dmaDone (s : State) (f : Nat) (x : FbPort) : (setFb s f x).dmaDone = s.dmaDone := rfl
@[simp] theorem setFb_progs (s : State) (f : Nat) (x : FbPort) : (setFb s f x).progs = s.progs := rfl
@[simp] theorem setFb_progNo (s : State) (f : Nat) (x : FbPort) : (setFb s f x).progNo = s.progNo := rfl
@[simp] theorem setFb_jobs (s : State) (f : Nat) (x : FbPort) : (setFb s f x).jobs = s.jobs := rfl
@[simp] theorem setFb_disp (s : State) (f : Nat) (x : FbPort) : (setFb s f x).disp = s.disp := rfl
@[simp] theorem setFb_sram (s : State) (f : Nat) (x : FbPort) : (setFb s f x).sram = s.sram := rfl
@[simp] theorem setFb_flips (s : State) (f : Nat) (x : FbPort) : (setFb s f x).flips = s.flips := rfl
@[simp] theorem setFb_counters (s : State) (f : Nat) (x : FbPort) : (setFb s f x).counters = s.counters := rfl
@[simp] theorem setFb_mask (s : State) (f : Nat) (x : FbPort) : (setFb s f x).mask = s.mask := rfl
@[simp] theorem setFb_draining (s : State) (f : Nat) (x : FbPort) : (setFb s f x).draining = s.draining := rfl
@[simp] theorem setFb_locks (s : State) (f : Nat) (x : FbPort) : (setFb s f x).locks = s.locks := rfl
@[simp] theorem setFb_plots (s : State) (f : Nat) (x : FbPort) : (setFb s f x).plots = s.plots := rfl
@[simp] theorem setFb_hay (s : State) (f : Nat) (x : FbPort) : (setFb s f x).hay = s.hay := rfl
@[simp] theorem setFb_flash (s : State) (f : Nat) (x : FbPort) : (setFb s f x).flash = s.flash := rfl
@[simp] theorem setFb_flashCmd (s : State) (f : Nat) (x : FbPort) : (setFb s f x).flashCmd = s.flashCmd := rfl
@[simp] theorem setFb_flashSusp (s : State) (f : Nat) (x : FbPort) : (setFb s f x).flashSusp = s.flashSusp := rfl
@[simp] theorem setFb_spoilt (s : State) (f : Nat) (x : FbPort) : (setFb s f x).spoilt = s.spoilt := rfl
@[simp] theorem setFb_bankWr (s : State) (f : Nat) (x : FbPort) : (setFb s f x).bankWr = s.bankWr := rfl
@[simp] theorem setFb_bankSt (s : State) (f : Nat) (x : FbPort) : (setFb s f x).bankSt = s.bankSt := rfl
@[simp] theorem setFb_bankErr (s : State) (f : Nat) (x : FbPort) : (setFb s f x).bankErr = s.bankErr := rfl
@[simp] theorem setFb_bankTgt (s : State) (f : Nat) (x : FbPort) : (setFb s f x).bankTgt = s.bankTgt := rfl
@[simp] theorem setFb_log (s : State) (f : Nat) (x : FbPort) : (setFb s f x).log = s.log := rfl
@[simp] theorem setFb_mgmt (s : State) (f : Nat) (x : FbPort) : (setFb s f x).mgmt = s.mgmt := rfl
@[simp] theorem setFb_gen (s : State) (f : Nat) (x : FbPort) : (setFb s f x).gen = s.gen := rfl
@[simp] theorem setFb_mbx (s : State) (f : Nat) (x : FbPort) : (setFb s f x).mbx = s.mbx := rfl
@[simp] theorem setFb_det (s : State) (f : Nat) (x : FbPort) : (setFb s f x).det = s.det := rfl
@[simp] theorem setFb_logWin (s : State) (f : Nat) (x : FbPort) : (setFb s f x).logWin = s.logWin := rfl
@[simp] theorem setFb_tel (s : State) (f : Nat) (x : FbPort) : (setFb s f x).tel = s.tel := rfl
@[simp] theorem setFb_tally (s : State) (f : Nat) (x : FbPort) : (setFb s f x).tally = s.tally := rfl

/-! ## modFb -/

@[simp] theorem modFb_pending (s : State) (f : Nat) (g : FbPort → FbPort) : (modFb s f g).pending = s.pending := rfl
@[simp] theorem modFb_out (s : State) (f : Nat) (g : FbPort → FbPort) : (modFb s f g).out = s.out := rfl
@[simp] theorem modFb_free (s : State) (f : Nat) (g : FbPort → FbPort) : (modFb s f g).free = s.free := rfl
@[simp] theorem modFb_now (s : State) (f : Nat) (g : FbPort → FbPort) : (modFb s f g).now = s.now := rfl
@[simp] theorem modFb_boot (s : State) (f : Nat) (g : FbPort → FbPort) : (modFb s f g).boot = s.boot := rfl
@[simp] theorem modFb_fuses (s : State) (f : Nat) (g : FbPort → FbPort) : (modFb s f g).fuses = s.fuses := rfl
@[simp] theorem modFb_fuseOp (s : State) (f : Nat) (g : FbPort → FbPort) : (modFb s f g).fuseOp = s.fuseOp := rfl
@[simp] theorem modFb_fuseWait (s : State) (f : Nat) (g : FbPort → FbPort) : (modFb s f g).fuseWait = s.fuseWait := rfl
@[simp] theorem modFb_chal (s : State) (f : Nat) (g : FbPort → FbPort) : (modFb s f g).chal = s.chal := rfl
@[simp] theorem modFb_cfg (s : State) (f : Nat) (g : FbPort → FbPort) : (modFb s f g).cfg = s.cfg := rfl
@[simp] theorem modFb_view (s : State) (f : Nat) (g : FbPort → FbPort) : (modFb s f g).view = s.view := rfl
@[simp] theorem modFb_ports (s : State) (f : Nat) (g : FbPort → FbPort) : (modFb s f g).ports = s.ports := rfl
@[simp] theorem modFb_c0wait (s : State) (f : Nat) (g : FbPort → FbPort) : (modFb s f g).c0wait = s.c0wait := rfl
@[simp] theorem modFb_routeHold (s : State) (f : Nat) (g : FbPort → FbPort) : (modFb s f g).routeHold = s.routeHold := rfl
@[simp] theorem modFb_discards (s : State) (f : Nat) (g : FbPort → FbPort) : (modFb s f g).discards = s.discards := rfl
@[simp] theorem modFb_poolUsed (s : State) (f : Nat) (g : FbPort → FbPort) : (modFb s f g).poolUsed = s.poolUsed := rfl
@[simp] theorem modFb_poolRes (s : State) (f : Nat) (g : FbPort → FbPort) : (modFb s f g).poolRes = s.poolRes := rfl
@[simp] theorem modFb_rotPtr (s : State) (f : Nat) (g : FbPort → FbPort) : (modFb s f g).rotPtr = s.rotPtr := rfl
@[simp] theorem modFb_weirs (s : State) (f : Nat) (g : FbPort → FbPort) : (modFb s f g).weirs = s.weirs := rfl
@[simp] theorem modFb_sluices (s : State) (f : Nat) (g : FbPort → FbPort) : (modFb s f g).sluices = s.sluices := rfl
@[simp] theorem modFb_outCtr (s : State) (f : Nat) (g : FbPort → FbPort) : (modFb s f g).outCtr = s.outCtr := rfl
@[simp] theorem modFb_inWin (s : State) (f : Nat) (g : FbPort → FbPort) : (modFb s f g).inWin = s.inWin := rfl
@[simp] theorem modFb_linkTags (s : State) (f : Nat) (g : FbPort → FbPort) : (modFb s f g).linkTags = s.linkTags := rfl
@[simp] theorem modFb_adms (s : State) (f : Nat) (g : FbPort → FbPort) : (modFb s f g).adms = s.adms := rfl
@[simp] theorem modFb_streams (s : State) (f : Nat) (g : FbPort → FbPort) : (modFb s f g).streams = s.streams := rfl
@[simp] theorem modFb_reqs (s : State) (f : Nat) (g : FbPort → FbPort) : (modFb s f g).reqs = s.reqs := rfl
@[simp] theorem modFb_buckets (s : State) (f : Nat) (g : FbPort → FbPort) : (modFb s f g).buckets = s.buckets := rfl
@[simp] theorem modFb_laneTurn (s : State) (f : Nat) (g : FbPort → FbPort) : (modFb s f g).laneTurn = s.laneTurn := rfl
@[simp] theorem modFb_tickAt (s : State) (f : Nat) (g : FbPort → FbPort) : (modFb s f g).tickAt = s.tickAt := rfl
@[simp] theorem modFb_passAt (s : State) (f : Nat) (g : FbPort → FbPort) : (modFb s f g).passAt = s.passAt := rfl
@[simp] theorem modFb_fen (s : State) (f : Nat) (g : FbPort → FbPort) : (modFb s f g).fen = s.fen := rfl
@[simp] theorem modFb_bankQ (s : State) (f : Nat) (g : FbPort → FbPort) : (modFb s f g).bankQ = s.bankQ := rfl
@[simp] theorem modFb_bankHeld (s : State) (f : Nat) (g : FbPort → FbPort) : (modFb s f g).bankHeld = s.bankHeld := rfl
@[simp] theorem modFb_bankDone (s : State) (f : Nat) (g : FbPort → FbPort) : (modFb s f g).bankDone = s.bankDone := rfl
@[simp] theorem modFb_suspect (s : State) (f : Nat) (g : FbPort → FbPort) : (modFb s f g).suspect = s.suspect := rfl
@[simp] theorem modFb_scrubPos (s : State) (f : Nat) (g : FbPort → FbPort) : (modFb s f g).scrubPos = s.scrubPos := rfl
@[simp] theorem modFb_scrubQ (s : State) (f : Nat) (g : FbPort → FbPort) : (modFb s f g).scrubQ = s.scrubQ := rfl
@[simp] theorem modFb_fenQ (s : State) (f : Nat) (g : FbPort → FbPort) : (modFb s f g).fenQ = s.fenQ := rfl
@[simp] theorem modFb_fenRes (s : State) (f : Nat) (g : FbPort → FbPort) : (modFb s f g).fenRes = s.fenRes := rfl
@[simp] theorem modFb_opLog (s : State) (f : Nat) (g : FbPort → FbPort) : (modFb s f g).opLog = s.opLog := rfl
@[simp] theorem modFb_objs (s : State) (f : Nat) (g : FbPort → FbPort) : (modFb s f g).objs = s.objs := rfl
@[simp] theorem modFb_tabA (s : State) (f : Nat) (g : FbPort → FbPort) : (modFb s f g).tabA = s.tabA := rfl
@[simp] theorem modFb_tabB (s : State) (f : Nat) (g : FbPort → FbPort) : (modFb s f g).tabB = s.tabB := rfl
@[simp] theorem modFb_actB (s : State) (f : Nat) (g : FbPort → FbPort) : (modFb s f g).actB = s.actB := rfl
@[simp] theorem modFb_setAct (s : State) (f : Nat) (g : FbPort → FbPort) : (modFb s f g).setAct = s.setAct := rfl
@[simp] theorem modFb_setEpoch (s : State) (f : Nat) (g : FbPort → FbPort) : (modFb s f g).setEpoch = s.setEpoch := rfl
@[simp] theorem modFb_load (s : State) (f : Nat) (g : FbPort → FbPort) : (modFb s f g).load = s.load := rfl
@[simp] theorem modFb_ests (s : State) (f : Nat) (g : FbPort → FbPort) : (modFb s f g).ests = s.ests := rfl
@[simp] theorem modFb_blocks (s : State) (f : Nat) (g : FbPort → FbPort) : (modFb s f g).blocks = s.blocks := rfl
@[simp] theorem modFb_slow (s : State) (f : Nat) (g : FbPort → FbPort) : (modFb s f g).slow = s.slow := rfl
@[simp] theorem modFb_far (s : State) (f : Nat) (g : FbPort → FbPort) : (modFb s f g).far = s.far := rfl
@[simp] theorem modFb_kv (s : State) (f : Nat) (g : FbPort → FbPort) : (modFb s f g).kv = s.kv := rfl
@[simp] theorem modFb_memTags (s : State) (f : Nat) (g : FbPort → FbPort) : (modFb s f g).memTags = s.memTags := rfl
@[simp] theorem modFb_conTags (s : State) (f : Nat) (g : FbPort → FbPort) : (modFb s f g).conTags = s.conTags := rfl
@[simp] theorem modFb_dmaQ (s : State) (f : Nat) (g : FbPort → FbPort) : (modFb s f g).dmaQ = s.dmaQ := rfl
@[simp] theorem modFb_dmaWait (s : State) (f : Nat) (g : FbPort → FbPort) : (modFb s f g).dmaWait = s.dmaWait := rfl
@[simp] theorem modFb_dmaTag (s : State) (f : Nat) (g : FbPort → FbPort) : (modFb s f g).dmaTag = s.dmaTag := rfl
@[simp] theorem modFb_memRest (s : State) (f : Nat) (g : FbPort → FbPort) : (modFb s f g).memRest = s.memRest := rfl
@[simp] theorem modFb_conRest (s : State) (f : Nat) (g : FbPort → FbPort) : (modFb s f g).conRest = s.conRest := rfl
@[simp] theorem modFb_flashAt (s : State) (f : Nat) (g : FbPort → FbPort) : (modFb s f g).flashAt = s.flashAt := rfl
@[simp] theorem modFb_opOrphans (s : State) (f : Nat) (g : FbPort → FbPort) : (modFb s f g).opOrphans = s.opOrphans := rfl
@[simp] theorem modFb_dmaDone (s : State) (f : Nat) (g : FbPort → FbPort) : (modFb s f g).dmaDone = s.dmaDone := rfl
@[simp] theorem modFb_progs (s : State) (f : Nat) (g : FbPort → FbPort) : (modFb s f g).progs = s.progs := rfl
@[simp] theorem modFb_progNo (s : State) (f : Nat) (g : FbPort → FbPort) : (modFb s f g).progNo = s.progNo := rfl
@[simp] theorem modFb_jobs (s : State) (f : Nat) (g : FbPort → FbPort) : (modFb s f g).jobs = s.jobs := rfl
@[simp] theorem modFb_disp (s : State) (f : Nat) (g : FbPort → FbPort) : (modFb s f g).disp = s.disp := rfl
@[simp] theorem modFb_sram (s : State) (f : Nat) (g : FbPort → FbPort) : (modFb s f g).sram = s.sram := rfl
@[simp] theorem modFb_flips (s : State) (f : Nat) (g : FbPort → FbPort) : (modFb s f g).flips = s.flips := rfl
@[simp] theorem modFb_counters (s : State) (f : Nat) (g : FbPort → FbPort) : (modFb s f g).counters = s.counters := rfl
@[simp] theorem modFb_mask (s : State) (f : Nat) (g : FbPort → FbPort) : (modFb s f g).mask = s.mask := rfl
@[simp] theorem modFb_draining (s : State) (f : Nat) (g : FbPort → FbPort) : (modFb s f g).draining = s.draining := rfl
@[simp] theorem modFb_locks (s : State) (f : Nat) (g : FbPort → FbPort) : (modFb s f g).locks = s.locks := rfl
@[simp] theorem modFb_plots (s : State) (f : Nat) (g : FbPort → FbPort) : (modFb s f g).plots = s.plots := rfl
@[simp] theorem modFb_hay (s : State) (f : Nat) (g : FbPort → FbPort) : (modFb s f g).hay = s.hay := rfl
@[simp] theorem modFb_flash (s : State) (f : Nat) (g : FbPort → FbPort) : (modFb s f g).flash = s.flash := rfl
@[simp] theorem modFb_flashCmd (s : State) (f : Nat) (g : FbPort → FbPort) : (modFb s f g).flashCmd = s.flashCmd := rfl
@[simp] theorem modFb_flashSusp (s : State) (f : Nat) (g : FbPort → FbPort) : (modFb s f g).flashSusp = s.flashSusp := rfl
@[simp] theorem modFb_spoilt (s : State) (f : Nat) (g : FbPort → FbPort) : (modFb s f g).spoilt = s.spoilt := rfl
@[simp] theorem modFb_bankWr (s : State) (f : Nat) (g : FbPort → FbPort) : (modFb s f g).bankWr = s.bankWr := rfl
@[simp] theorem modFb_bankSt (s : State) (f : Nat) (g : FbPort → FbPort) : (modFb s f g).bankSt = s.bankSt := rfl
@[simp] theorem modFb_bankErr (s : State) (f : Nat) (g : FbPort → FbPort) : (modFb s f g).bankErr = s.bankErr := rfl
@[simp] theorem modFb_bankTgt (s : State) (f : Nat) (g : FbPort → FbPort) : (modFb s f g).bankTgt = s.bankTgt := rfl
@[simp] theorem modFb_log (s : State) (f : Nat) (g : FbPort → FbPort) : (modFb s f g).log = s.log := rfl
@[simp] theorem modFb_mgmt (s : State) (f : Nat) (g : FbPort → FbPort) : (modFb s f g).mgmt = s.mgmt := rfl
@[simp] theorem modFb_gen (s : State) (f : Nat) (g : FbPort → FbPort) : (modFb s f g).gen = s.gen := rfl
@[simp] theorem modFb_mbx (s : State) (f : Nat) (g : FbPort → FbPort) : (modFb s f g).mbx = s.mbx := rfl
@[simp] theorem modFb_det (s : State) (f : Nat) (g : FbPort → FbPort) : (modFb s f g).det = s.det := rfl
@[simp] theorem modFb_logWin (s : State) (f : Nat) (g : FbPort → FbPort) : (modFb s f g).logWin = s.logWin := rfl
@[simp] theorem modFb_tel (s : State) (f : Nat) (g : FbPort → FbPort) : (modFb s f g).tel = s.tel := rfl
@[simp] theorem modFb_tally (s : State) (f : Nat) (g : FbPort → FbPort) : (modFb s f g).tally = s.tally := rfl

/-! ## setWeir -/

@[simp] theorem setWeir_pending (s : State) (w : Nat) (x : Weir) : (setWeir s w x).pending = s.pending := rfl
@[simp] theorem setWeir_out (s : State) (w : Nat) (x : Weir) : (setWeir s w x).out = s.out := rfl
@[simp] theorem setWeir_free (s : State) (w : Nat) (x : Weir) : (setWeir s w x).free = s.free := rfl
@[simp] theorem setWeir_now (s : State) (w : Nat) (x : Weir) : (setWeir s w x).now = s.now := rfl
@[simp] theorem setWeir_boot (s : State) (w : Nat) (x : Weir) : (setWeir s w x).boot = s.boot := rfl
@[simp] theorem setWeir_fuses (s : State) (w : Nat) (x : Weir) : (setWeir s w x).fuses = s.fuses := rfl
@[simp] theorem setWeir_fuseOp (s : State) (w : Nat) (x : Weir) : (setWeir s w x).fuseOp = s.fuseOp := rfl
@[simp] theorem setWeir_fuseWait (s : State) (w : Nat) (x : Weir) : (setWeir s w x).fuseWait = s.fuseWait := rfl
@[simp] theorem setWeir_chal (s : State) (w : Nat) (x : Weir) : (setWeir s w x).chal = s.chal := rfl
@[simp] theorem setWeir_cfg (s : State) (w : Nat) (x : Weir) : (setWeir s w x).cfg = s.cfg := rfl
@[simp] theorem setWeir_view (s : State) (w : Nat) (x : Weir) : (setWeir s w x).view = s.view := rfl
@[simp] theorem setWeir_ports (s : State) (w : Nat) (x : Weir) : (setWeir s w x).ports = s.ports := rfl
@[simp] theorem setWeir_c0wait (s : State) (w : Nat) (x : Weir) : (setWeir s w x).c0wait = s.c0wait := rfl
@[simp] theorem setWeir_routeHold (s : State) (w : Nat) (x : Weir) : (setWeir s w x).routeHold = s.routeHold := rfl
@[simp] theorem setWeir_discards (s : State) (w : Nat) (x : Weir) : (setWeir s w x).discards = s.discards := rfl
@[simp] theorem setWeir_fbs (s : State) (w : Nat) (x : Weir) : (setWeir s w x).fbs = s.fbs := rfl
@[simp] theorem setWeir_poolUsed (s : State) (w : Nat) (x : Weir) : (setWeir s w x).poolUsed = s.poolUsed := rfl
@[simp] theorem setWeir_poolRes (s : State) (w : Nat) (x : Weir) : (setWeir s w x).poolRes = s.poolRes := rfl
@[simp] theorem setWeir_rotPtr (s : State) (w : Nat) (x : Weir) : (setWeir s w x).rotPtr = s.rotPtr := rfl
@[simp] theorem setWeir_sluices (s : State) (w : Nat) (x : Weir) : (setWeir s w x).sluices = s.sluices := rfl
@[simp] theorem setWeir_outCtr (s : State) (w : Nat) (x : Weir) : (setWeir s w x).outCtr = s.outCtr := rfl
@[simp] theorem setWeir_inWin (s : State) (w : Nat) (x : Weir) : (setWeir s w x).inWin = s.inWin := rfl
@[simp] theorem setWeir_linkTags (s : State) (w : Nat) (x : Weir) : (setWeir s w x).linkTags = s.linkTags := rfl
@[simp] theorem setWeir_adms (s : State) (w : Nat) (x : Weir) : (setWeir s w x).adms = s.adms := rfl
@[simp] theorem setWeir_streams (s : State) (w : Nat) (x : Weir) : (setWeir s w x).streams = s.streams := rfl
@[simp] theorem setWeir_reqs (s : State) (w : Nat) (x : Weir) : (setWeir s w x).reqs = s.reqs := rfl
@[simp] theorem setWeir_buckets (s : State) (w : Nat) (x : Weir) : (setWeir s w x).buckets = s.buckets := rfl
@[simp] theorem setWeir_laneTurn (s : State) (w : Nat) (x : Weir) : (setWeir s w x).laneTurn = s.laneTurn := rfl
@[simp] theorem setWeir_tickAt (s : State) (w : Nat) (x : Weir) : (setWeir s w x).tickAt = s.tickAt := rfl
@[simp] theorem setWeir_passAt (s : State) (w : Nat) (x : Weir) : (setWeir s w x).passAt = s.passAt := rfl
@[simp] theorem setWeir_fen (s : State) (w : Nat) (x : Weir) : (setWeir s w x).fen = s.fen := rfl
@[simp] theorem setWeir_bankQ (s : State) (w : Nat) (x : Weir) : (setWeir s w x).bankQ = s.bankQ := rfl
@[simp] theorem setWeir_bankHeld (s : State) (w : Nat) (x : Weir) : (setWeir s w x).bankHeld = s.bankHeld := rfl
@[simp] theorem setWeir_bankDone (s : State) (w : Nat) (x : Weir) : (setWeir s w x).bankDone = s.bankDone := rfl
@[simp] theorem setWeir_suspect (s : State) (w : Nat) (x : Weir) : (setWeir s w x).suspect = s.suspect := rfl
@[simp] theorem setWeir_scrubPos (s : State) (w : Nat) (x : Weir) : (setWeir s w x).scrubPos = s.scrubPos := rfl
@[simp] theorem setWeir_scrubQ (s : State) (w : Nat) (x : Weir) : (setWeir s w x).scrubQ = s.scrubQ := rfl
@[simp] theorem setWeir_fenQ (s : State) (w : Nat) (x : Weir) : (setWeir s w x).fenQ = s.fenQ := rfl
@[simp] theorem setWeir_fenRes (s : State) (w : Nat) (x : Weir) : (setWeir s w x).fenRes = s.fenRes := rfl
@[simp] theorem setWeir_opLog (s : State) (w : Nat) (x : Weir) : (setWeir s w x).opLog = s.opLog := rfl
@[simp] theorem setWeir_objs (s : State) (w : Nat) (x : Weir) : (setWeir s w x).objs = s.objs := rfl
@[simp] theorem setWeir_tabA (s : State) (w : Nat) (x : Weir) : (setWeir s w x).tabA = s.tabA := rfl
@[simp] theorem setWeir_tabB (s : State) (w : Nat) (x : Weir) : (setWeir s w x).tabB = s.tabB := rfl
@[simp] theorem setWeir_actB (s : State) (w : Nat) (x : Weir) : (setWeir s w x).actB = s.actB := rfl
@[simp] theorem setWeir_setAct (s : State) (w : Nat) (x : Weir) : (setWeir s w x).setAct = s.setAct := rfl
@[simp] theorem setWeir_setEpoch (s : State) (w : Nat) (x : Weir) : (setWeir s w x).setEpoch = s.setEpoch := rfl
@[simp] theorem setWeir_load (s : State) (w : Nat) (x : Weir) : (setWeir s w x).load = s.load := rfl
@[simp] theorem setWeir_ests (s : State) (w : Nat) (x : Weir) : (setWeir s w x).ests = s.ests := rfl
@[simp] theorem setWeir_blocks (s : State) (w : Nat) (x : Weir) : (setWeir s w x).blocks = s.blocks := rfl
@[simp] theorem setWeir_slow (s : State) (w : Nat) (x : Weir) : (setWeir s w x).slow = s.slow := rfl
@[simp] theorem setWeir_far (s : State) (w : Nat) (x : Weir) : (setWeir s w x).far = s.far := rfl
@[simp] theorem setWeir_kv (s : State) (w : Nat) (x : Weir) : (setWeir s w x).kv = s.kv := rfl
@[simp] theorem setWeir_memTags (s : State) (w : Nat) (x : Weir) : (setWeir s w x).memTags = s.memTags := rfl
@[simp] theorem setWeir_conTags (s : State) (w : Nat) (x : Weir) : (setWeir s w x).conTags = s.conTags := rfl
@[simp] theorem setWeir_dmaQ (s : State) (w : Nat) (x : Weir) : (setWeir s w x).dmaQ = s.dmaQ := rfl
@[simp] theorem setWeir_dmaWait (s : State) (w : Nat) (x : Weir) : (setWeir s w x).dmaWait = s.dmaWait := rfl
@[simp] theorem setWeir_dmaTag (s : State) (w : Nat) (x : Weir) : (setWeir s w x).dmaTag = s.dmaTag := rfl
@[simp] theorem setWeir_memRest (s : State) (w : Nat) (x : Weir) : (setWeir s w x).memRest = s.memRest := rfl
@[simp] theorem setWeir_conRest (s : State) (w : Nat) (x : Weir) : (setWeir s w x).conRest = s.conRest := rfl
@[simp] theorem setWeir_flashAt (s : State) (w : Nat) (x : Weir) : (setWeir s w x).flashAt = s.flashAt := rfl
@[simp] theorem setWeir_opOrphans (s : State) (w : Nat) (x : Weir) : (setWeir s w x).opOrphans = s.opOrphans := rfl
@[simp] theorem setWeir_dmaDone (s : State) (w : Nat) (x : Weir) : (setWeir s w x).dmaDone = s.dmaDone := rfl
@[simp] theorem setWeir_progs (s : State) (w : Nat) (x : Weir) : (setWeir s w x).progs = s.progs := rfl
@[simp] theorem setWeir_progNo (s : State) (w : Nat) (x : Weir) : (setWeir s w x).progNo = s.progNo := rfl
@[simp] theorem setWeir_jobs (s : State) (w : Nat) (x : Weir) : (setWeir s w x).jobs = s.jobs := rfl
@[simp] theorem setWeir_disp (s : State) (w : Nat) (x : Weir) : (setWeir s w x).disp = s.disp := rfl
@[simp] theorem setWeir_sram (s : State) (w : Nat) (x : Weir) : (setWeir s w x).sram = s.sram := rfl
@[simp] theorem setWeir_flips (s : State) (w : Nat) (x : Weir) : (setWeir s w x).flips = s.flips := rfl
@[simp] theorem setWeir_counters (s : State) (w : Nat) (x : Weir) : (setWeir s w x).counters = s.counters := rfl
@[simp] theorem setWeir_mask (s : State) (w : Nat) (x : Weir) : (setWeir s w x).mask = s.mask := rfl
@[simp] theorem setWeir_draining (s : State) (w : Nat) (x : Weir) : (setWeir s w x).draining = s.draining := rfl
@[simp] theorem setWeir_locks (s : State) (w : Nat) (x : Weir) : (setWeir s w x).locks = s.locks := rfl
@[simp] theorem setWeir_plots (s : State) (w : Nat) (x : Weir) : (setWeir s w x).plots = s.plots := rfl
@[simp] theorem setWeir_hay (s : State) (w : Nat) (x : Weir) : (setWeir s w x).hay = s.hay := rfl
@[simp] theorem setWeir_flash (s : State) (w : Nat) (x : Weir) : (setWeir s w x).flash = s.flash := rfl
@[simp] theorem setWeir_flashCmd (s : State) (w : Nat) (x : Weir) : (setWeir s w x).flashCmd = s.flashCmd := rfl
@[simp] theorem setWeir_flashSusp (s : State) (w : Nat) (x : Weir) : (setWeir s w x).flashSusp = s.flashSusp := rfl
@[simp] theorem setWeir_spoilt (s : State) (w : Nat) (x : Weir) : (setWeir s w x).spoilt = s.spoilt := rfl
@[simp] theorem setWeir_bankWr (s : State) (w : Nat) (x : Weir) : (setWeir s w x).bankWr = s.bankWr := rfl
@[simp] theorem setWeir_bankSt (s : State) (w : Nat) (x : Weir) : (setWeir s w x).bankSt = s.bankSt := rfl
@[simp] theorem setWeir_bankErr (s : State) (w : Nat) (x : Weir) : (setWeir s w x).bankErr = s.bankErr := rfl
@[simp] theorem setWeir_bankTgt (s : State) (w : Nat) (x : Weir) : (setWeir s w x).bankTgt = s.bankTgt := rfl
@[simp] theorem setWeir_log (s : State) (w : Nat) (x : Weir) : (setWeir s w x).log = s.log := rfl
@[simp] theorem setWeir_mgmt (s : State) (w : Nat) (x : Weir) : (setWeir s w x).mgmt = s.mgmt := rfl
@[simp] theorem setWeir_gen (s : State) (w : Nat) (x : Weir) : (setWeir s w x).gen = s.gen := rfl
@[simp] theorem setWeir_mbx (s : State) (w : Nat) (x : Weir) : (setWeir s w x).mbx = s.mbx := rfl
@[simp] theorem setWeir_det (s : State) (w : Nat) (x : Weir) : (setWeir s w x).det = s.det := rfl
@[simp] theorem setWeir_logWin (s : State) (w : Nat) (x : Weir) : (setWeir s w x).logWin = s.logWin := rfl
@[simp] theorem setWeir_tel (s : State) (w : Nat) (x : Weir) : (setWeir s w x).tel = s.tel := rfl
@[simp] theorem setWeir_tally (s : State) (w : Nat) (x : Weir) : (setWeir s w x).tally = s.tally := rfl

/-! ## setSluice -/

@[simp] theorem setSluice_pending (s : State) (i : Nat) (x : Sluice) : (setSluice s i x).pending = s.pending := rfl
@[simp] theorem setSluice_out (s : State) (i : Nat) (x : Sluice) : (setSluice s i x).out = s.out := rfl
@[simp] theorem setSluice_free (s : State) (i : Nat) (x : Sluice) : (setSluice s i x).free = s.free := rfl
@[simp] theorem setSluice_now (s : State) (i : Nat) (x : Sluice) : (setSluice s i x).now = s.now := rfl
@[simp] theorem setSluice_boot (s : State) (i : Nat) (x : Sluice) : (setSluice s i x).boot = s.boot := rfl
@[simp] theorem setSluice_fuses (s : State) (i : Nat) (x : Sluice) : (setSluice s i x).fuses = s.fuses := rfl
@[simp] theorem setSluice_fuseOp (s : State) (i : Nat) (x : Sluice) : (setSluice s i x).fuseOp = s.fuseOp := rfl
@[simp] theorem setSluice_fuseWait (s : State) (i : Nat) (x : Sluice) : (setSluice s i x).fuseWait = s.fuseWait := rfl
@[simp] theorem setSluice_chal (s : State) (i : Nat) (x : Sluice) : (setSluice s i x).chal = s.chal := rfl
@[simp] theorem setSluice_cfg (s : State) (i : Nat) (x : Sluice) : (setSluice s i x).cfg = s.cfg := rfl
@[simp] theorem setSluice_view (s : State) (i : Nat) (x : Sluice) : (setSluice s i x).view = s.view := rfl
@[simp] theorem setSluice_ports (s : State) (i : Nat) (x : Sluice) : (setSluice s i x).ports = s.ports := rfl
@[simp] theorem setSluice_c0wait (s : State) (i : Nat) (x : Sluice) : (setSluice s i x).c0wait = s.c0wait := rfl
@[simp] theorem setSluice_routeHold (s : State) (i : Nat) (x : Sluice) : (setSluice s i x).routeHold = s.routeHold := rfl
@[simp] theorem setSluice_discards (s : State) (i : Nat) (x : Sluice) : (setSluice s i x).discards = s.discards := rfl
@[simp] theorem setSluice_fbs (s : State) (i : Nat) (x : Sluice) : (setSluice s i x).fbs = s.fbs := rfl
@[simp] theorem setSluice_poolUsed (s : State) (i : Nat) (x : Sluice) : (setSluice s i x).poolUsed = s.poolUsed := rfl
@[simp] theorem setSluice_poolRes (s : State) (i : Nat) (x : Sluice) : (setSluice s i x).poolRes = s.poolRes := rfl
@[simp] theorem setSluice_rotPtr (s : State) (i : Nat) (x : Sluice) : (setSluice s i x).rotPtr = s.rotPtr := rfl
@[simp] theorem setSluice_weirs (s : State) (i : Nat) (x : Sluice) : (setSluice s i x).weirs = s.weirs := rfl
@[simp] theorem setSluice_outCtr (s : State) (i : Nat) (x : Sluice) : (setSluice s i x).outCtr = s.outCtr := rfl
@[simp] theorem setSluice_inWin (s : State) (i : Nat) (x : Sluice) : (setSluice s i x).inWin = s.inWin := rfl
@[simp] theorem setSluice_linkTags (s : State) (i : Nat) (x : Sluice) : (setSluice s i x).linkTags = s.linkTags := rfl
@[simp] theorem setSluice_adms (s : State) (i : Nat) (x : Sluice) : (setSluice s i x).adms = s.adms := rfl
@[simp] theorem setSluice_streams (s : State) (i : Nat) (x : Sluice) : (setSluice s i x).streams = s.streams := rfl
@[simp] theorem setSluice_reqs (s : State) (i : Nat) (x : Sluice) : (setSluice s i x).reqs = s.reqs := rfl
@[simp] theorem setSluice_buckets (s : State) (i : Nat) (x : Sluice) : (setSluice s i x).buckets = s.buckets := rfl
@[simp] theorem setSluice_laneTurn (s : State) (i : Nat) (x : Sluice) : (setSluice s i x).laneTurn = s.laneTurn := rfl
@[simp] theorem setSluice_tickAt (s : State) (i : Nat) (x : Sluice) : (setSluice s i x).tickAt = s.tickAt := rfl
@[simp] theorem setSluice_passAt (s : State) (i : Nat) (x : Sluice) : (setSluice s i x).passAt = s.passAt := rfl
@[simp] theorem setSluice_fen (s : State) (i : Nat) (x : Sluice) : (setSluice s i x).fen = s.fen := rfl
@[simp] theorem setSluice_bankQ (s : State) (i : Nat) (x : Sluice) : (setSluice s i x).bankQ = s.bankQ := rfl
@[simp] theorem setSluice_bankHeld (s : State) (i : Nat) (x : Sluice) : (setSluice s i x).bankHeld = s.bankHeld := rfl
@[simp] theorem setSluice_bankDone (s : State) (i : Nat) (x : Sluice) : (setSluice s i x).bankDone = s.bankDone := rfl
@[simp] theorem setSluice_suspect (s : State) (i : Nat) (x : Sluice) : (setSluice s i x).suspect = s.suspect := rfl
@[simp] theorem setSluice_scrubPos (s : State) (i : Nat) (x : Sluice) : (setSluice s i x).scrubPos = s.scrubPos := rfl
@[simp] theorem setSluice_scrubQ (s : State) (i : Nat) (x : Sluice) : (setSluice s i x).scrubQ = s.scrubQ := rfl
@[simp] theorem setSluice_fenQ (s : State) (i : Nat) (x : Sluice) : (setSluice s i x).fenQ = s.fenQ := rfl
@[simp] theorem setSluice_fenRes (s : State) (i : Nat) (x : Sluice) : (setSluice s i x).fenRes = s.fenRes := rfl
@[simp] theorem setSluice_opLog (s : State) (i : Nat) (x : Sluice) : (setSluice s i x).opLog = s.opLog := rfl
@[simp] theorem setSluice_objs (s : State) (i : Nat) (x : Sluice) : (setSluice s i x).objs = s.objs := rfl
@[simp] theorem setSluice_tabA (s : State) (i : Nat) (x : Sluice) : (setSluice s i x).tabA = s.tabA := rfl
@[simp] theorem setSluice_tabB (s : State) (i : Nat) (x : Sluice) : (setSluice s i x).tabB = s.tabB := rfl
@[simp] theorem setSluice_actB (s : State) (i : Nat) (x : Sluice) : (setSluice s i x).actB = s.actB := rfl
@[simp] theorem setSluice_setAct (s : State) (i : Nat) (x : Sluice) : (setSluice s i x).setAct = s.setAct := rfl
@[simp] theorem setSluice_setEpoch (s : State) (i : Nat) (x : Sluice) : (setSluice s i x).setEpoch = s.setEpoch := rfl
@[simp] theorem setSluice_load (s : State) (i : Nat) (x : Sluice) : (setSluice s i x).load = s.load := rfl
@[simp] theorem setSluice_ests (s : State) (i : Nat) (x : Sluice) : (setSluice s i x).ests = s.ests := rfl
@[simp] theorem setSluice_blocks (s : State) (i : Nat) (x : Sluice) : (setSluice s i x).blocks = s.blocks := rfl
@[simp] theorem setSluice_slow (s : State) (i : Nat) (x : Sluice) : (setSluice s i x).slow = s.slow := rfl
@[simp] theorem setSluice_far (s : State) (i : Nat) (x : Sluice) : (setSluice s i x).far = s.far := rfl
@[simp] theorem setSluice_kv (s : State) (i : Nat) (x : Sluice) : (setSluice s i x).kv = s.kv := rfl
@[simp] theorem setSluice_memTags (s : State) (i : Nat) (x : Sluice) : (setSluice s i x).memTags = s.memTags := rfl
@[simp] theorem setSluice_conTags (s : State) (i : Nat) (x : Sluice) : (setSluice s i x).conTags = s.conTags := rfl
@[simp] theorem setSluice_dmaQ (s : State) (i : Nat) (x : Sluice) : (setSluice s i x).dmaQ = s.dmaQ := rfl
@[simp] theorem setSluice_dmaWait (s : State) (i : Nat) (x : Sluice) : (setSluice s i x).dmaWait = s.dmaWait := rfl
@[simp] theorem setSluice_dmaTag (s : State) (i : Nat) (x : Sluice) : (setSluice s i x).dmaTag = s.dmaTag := rfl
@[simp] theorem setSluice_memRest (s : State) (i : Nat) (x : Sluice) : (setSluice s i x).memRest = s.memRest := rfl
@[simp] theorem setSluice_conRest (s : State) (i : Nat) (x : Sluice) : (setSluice s i x).conRest = s.conRest := rfl
@[simp] theorem setSluice_flashAt (s : State) (i : Nat) (x : Sluice) : (setSluice s i x).flashAt = s.flashAt := rfl
@[simp] theorem setSluice_opOrphans (s : State) (i : Nat) (x : Sluice) : (setSluice s i x).opOrphans = s.opOrphans := rfl
@[simp] theorem setSluice_dmaDone (s : State) (i : Nat) (x : Sluice) : (setSluice s i x).dmaDone = s.dmaDone := rfl
@[simp] theorem setSluice_progs (s : State) (i : Nat) (x : Sluice) : (setSluice s i x).progs = s.progs := rfl
@[simp] theorem setSluice_progNo (s : State) (i : Nat) (x : Sluice) : (setSluice s i x).progNo = s.progNo := rfl
@[simp] theorem setSluice_jobs (s : State) (i : Nat) (x : Sluice) : (setSluice s i x).jobs = s.jobs := rfl
@[simp] theorem setSluice_disp (s : State) (i : Nat) (x : Sluice) : (setSluice s i x).disp = s.disp := rfl
@[simp] theorem setSluice_sram (s : State) (i : Nat) (x : Sluice) : (setSluice s i x).sram = s.sram := rfl
@[simp] theorem setSluice_flips (s : State) (i : Nat) (x : Sluice) : (setSluice s i x).flips = s.flips := rfl
@[simp] theorem setSluice_counters (s : State) (i : Nat) (x : Sluice) : (setSluice s i x).counters = s.counters := rfl
@[simp] theorem setSluice_mask (s : State) (i : Nat) (x : Sluice) : (setSluice s i x).mask = s.mask := rfl
@[simp] theorem setSluice_draining (s : State) (i : Nat) (x : Sluice) : (setSluice s i x).draining = s.draining := rfl
@[simp] theorem setSluice_locks (s : State) (i : Nat) (x : Sluice) : (setSluice s i x).locks = s.locks := rfl
@[simp] theorem setSluice_plots (s : State) (i : Nat) (x : Sluice) : (setSluice s i x).plots = s.plots := rfl
@[simp] theorem setSluice_hay (s : State) (i : Nat) (x : Sluice) : (setSluice s i x).hay = s.hay := rfl
@[simp] theorem setSluice_flash (s : State) (i : Nat) (x : Sluice) : (setSluice s i x).flash = s.flash := rfl
@[simp] theorem setSluice_flashCmd (s : State) (i : Nat) (x : Sluice) : (setSluice s i x).flashCmd = s.flashCmd := rfl
@[simp] theorem setSluice_flashSusp (s : State) (i : Nat) (x : Sluice) : (setSluice s i x).flashSusp = s.flashSusp := rfl
@[simp] theorem setSluice_spoilt (s : State) (i : Nat) (x : Sluice) : (setSluice s i x).spoilt = s.spoilt := rfl
@[simp] theorem setSluice_bankWr (s : State) (i : Nat) (x : Sluice) : (setSluice s i x).bankWr = s.bankWr := rfl
@[simp] theorem setSluice_bankSt (s : State) (i : Nat) (x : Sluice) : (setSluice s i x).bankSt = s.bankSt := rfl
@[simp] theorem setSluice_bankErr (s : State) (i : Nat) (x : Sluice) : (setSluice s i x).bankErr = s.bankErr := rfl
@[simp] theorem setSluice_bankTgt (s : State) (i : Nat) (x : Sluice) : (setSluice s i x).bankTgt = s.bankTgt := rfl
@[simp] theorem setSluice_log (s : State) (i : Nat) (x : Sluice) : (setSluice s i x).log = s.log := rfl
@[simp] theorem setSluice_mgmt (s : State) (i : Nat) (x : Sluice) : (setSluice s i x).mgmt = s.mgmt := rfl
@[simp] theorem setSluice_gen (s : State) (i : Nat) (x : Sluice) : (setSluice s i x).gen = s.gen := rfl
@[simp] theorem setSluice_mbx (s : State) (i : Nat) (x : Sluice) : (setSluice s i x).mbx = s.mbx := rfl
@[simp] theorem setSluice_det (s : State) (i : Nat) (x : Sluice) : (setSluice s i x).det = s.det := rfl
@[simp] theorem setSluice_logWin (s : State) (i : Nat) (x : Sluice) : (setSluice s i x).logWin = s.logWin := rfl
@[simp] theorem setSluice_tel (s : State) (i : Nat) (x : Sluice) : (setSluice s i x).tel = s.tel := rfl
@[simp] theorem setSluice_tally (s : State) (i : Nat) (x : Sluice) : (setSluice s i x).tally = s.tally := rfl

/-! ## setStream -/

@[simp] theorem setStream_pending (s : State) (c : Nat) (x : Stream) : (setStream s c x).pending = s.pending := rfl
@[simp] theorem setStream_out (s : State) (c : Nat) (x : Stream) : (setStream s c x).out = s.out := rfl
@[simp] theorem setStream_free (s : State) (c : Nat) (x : Stream) : (setStream s c x).free = s.free := rfl
@[simp] theorem setStream_now (s : State) (c : Nat) (x : Stream) : (setStream s c x).now = s.now := rfl
@[simp] theorem setStream_boot (s : State) (c : Nat) (x : Stream) : (setStream s c x).boot = s.boot := rfl
@[simp] theorem setStream_fuses (s : State) (c : Nat) (x : Stream) : (setStream s c x).fuses = s.fuses := rfl
@[simp] theorem setStream_fuseOp (s : State) (c : Nat) (x : Stream) : (setStream s c x).fuseOp = s.fuseOp := rfl
@[simp] theorem setStream_fuseWait (s : State) (c : Nat) (x : Stream) : (setStream s c x).fuseWait = s.fuseWait := rfl
@[simp] theorem setStream_chal (s : State) (c : Nat) (x : Stream) : (setStream s c x).chal = s.chal := rfl
@[simp] theorem setStream_cfg (s : State) (c : Nat) (x : Stream) : (setStream s c x).cfg = s.cfg := rfl
@[simp] theorem setStream_view (s : State) (c : Nat) (x : Stream) : (setStream s c x).view = s.view := rfl
@[simp] theorem setStream_ports (s : State) (c : Nat) (x : Stream) : (setStream s c x).ports = s.ports := rfl
@[simp] theorem setStream_c0wait (s : State) (c : Nat) (x : Stream) : (setStream s c x).c0wait = s.c0wait := rfl
@[simp] theorem setStream_routeHold (s : State) (c : Nat) (x : Stream) : (setStream s c x).routeHold = s.routeHold := rfl
@[simp] theorem setStream_discards (s : State) (c : Nat) (x : Stream) : (setStream s c x).discards = s.discards := rfl
@[simp] theorem setStream_fbs (s : State) (c : Nat) (x : Stream) : (setStream s c x).fbs = s.fbs := rfl
@[simp] theorem setStream_poolUsed (s : State) (c : Nat) (x : Stream) : (setStream s c x).poolUsed = s.poolUsed := rfl
@[simp] theorem setStream_poolRes (s : State) (c : Nat) (x : Stream) : (setStream s c x).poolRes = s.poolRes := rfl
@[simp] theorem setStream_rotPtr (s : State) (c : Nat) (x : Stream) : (setStream s c x).rotPtr = s.rotPtr := rfl
@[simp] theorem setStream_weirs (s : State) (c : Nat) (x : Stream) : (setStream s c x).weirs = s.weirs := rfl
@[simp] theorem setStream_sluices (s : State) (c : Nat) (x : Stream) : (setStream s c x).sluices = s.sluices := rfl
@[simp] theorem setStream_outCtr (s : State) (c : Nat) (x : Stream) : (setStream s c x).outCtr = s.outCtr := rfl
@[simp] theorem setStream_inWin (s : State) (c : Nat) (x : Stream) : (setStream s c x).inWin = s.inWin := rfl
@[simp] theorem setStream_linkTags (s : State) (c : Nat) (x : Stream) : (setStream s c x).linkTags = s.linkTags := rfl
@[simp] theorem setStream_adms (s : State) (c : Nat) (x : Stream) : (setStream s c x).adms = s.adms := rfl
@[simp] theorem setStream_reqs (s : State) (c : Nat) (x : Stream) : (setStream s c x).reqs = s.reqs := rfl
@[simp] theorem setStream_buckets (s : State) (c : Nat) (x : Stream) : (setStream s c x).buckets = s.buckets := rfl
@[simp] theorem setStream_laneTurn (s : State) (c : Nat) (x : Stream) : (setStream s c x).laneTurn = s.laneTurn := rfl
@[simp] theorem setStream_tickAt (s : State) (c : Nat) (x : Stream) : (setStream s c x).tickAt = s.tickAt := rfl
@[simp] theorem setStream_passAt (s : State) (c : Nat) (x : Stream) : (setStream s c x).passAt = s.passAt := rfl
@[simp] theorem setStream_fen (s : State) (c : Nat) (x : Stream) : (setStream s c x).fen = s.fen := rfl
@[simp] theorem setStream_bankQ (s : State) (c : Nat) (x : Stream) : (setStream s c x).bankQ = s.bankQ := rfl
@[simp] theorem setStream_bankHeld (s : State) (c : Nat) (x : Stream) : (setStream s c x).bankHeld = s.bankHeld := rfl
@[simp] theorem setStream_bankDone (s : State) (c : Nat) (x : Stream) : (setStream s c x).bankDone = s.bankDone := rfl
@[simp] theorem setStream_suspect (s : State) (c : Nat) (x : Stream) : (setStream s c x).suspect = s.suspect := rfl
@[simp] theorem setStream_scrubPos (s : State) (c : Nat) (x : Stream) : (setStream s c x).scrubPos = s.scrubPos := rfl
@[simp] theorem setStream_scrubQ (s : State) (c : Nat) (x : Stream) : (setStream s c x).scrubQ = s.scrubQ := rfl
@[simp] theorem setStream_fenQ (s : State) (c : Nat) (x : Stream) : (setStream s c x).fenQ = s.fenQ := rfl
@[simp] theorem setStream_fenRes (s : State) (c : Nat) (x : Stream) : (setStream s c x).fenRes = s.fenRes := rfl
@[simp] theorem setStream_opLog (s : State) (c : Nat) (x : Stream) : (setStream s c x).opLog = s.opLog := rfl
@[simp] theorem setStream_objs (s : State) (c : Nat) (x : Stream) : (setStream s c x).objs = s.objs := rfl
@[simp] theorem setStream_tabA (s : State) (c : Nat) (x : Stream) : (setStream s c x).tabA = s.tabA := rfl
@[simp] theorem setStream_tabB (s : State) (c : Nat) (x : Stream) : (setStream s c x).tabB = s.tabB := rfl
@[simp] theorem setStream_actB (s : State) (c : Nat) (x : Stream) : (setStream s c x).actB = s.actB := rfl
@[simp] theorem setStream_setAct (s : State) (c : Nat) (x : Stream) : (setStream s c x).setAct = s.setAct := rfl
@[simp] theorem setStream_setEpoch (s : State) (c : Nat) (x : Stream) : (setStream s c x).setEpoch = s.setEpoch := rfl
@[simp] theorem setStream_load (s : State) (c : Nat) (x : Stream) : (setStream s c x).load = s.load := rfl
@[simp] theorem setStream_ests (s : State) (c : Nat) (x : Stream) : (setStream s c x).ests = s.ests := rfl
@[simp] theorem setStream_blocks (s : State) (c : Nat) (x : Stream) : (setStream s c x).blocks = s.blocks := rfl
@[simp] theorem setStream_slow (s : State) (c : Nat) (x : Stream) : (setStream s c x).slow = s.slow := rfl
@[simp] theorem setStream_far (s : State) (c : Nat) (x : Stream) : (setStream s c x).far = s.far := rfl
@[simp] theorem setStream_kv (s : State) (c : Nat) (x : Stream) : (setStream s c x).kv = s.kv := rfl
@[simp] theorem setStream_memTags (s : State) (c : Nat) (x : Stream) : (setStream s c x).memTags = s.memTags := rfl
@[simp] theorem setStream_conTags (s : State) (c : Nat) (x : Stream) : (setStream s c x).conTags = s.conTags := rfl
@[simp] theorem setStream_dmaQ (s : State) (c : Nat) (x : Stream) : (setStream s c x).dmaQ = s.dmaQ := rfl
@[simp] theorem setStream_dmaWait (s : State) (c : Nat) (x : Stream) : (setStream s c x).dmaWait = s.dmaWait := rfl
@[simp] theorem setStream_dmaTag (s : State) (c : Nat) (x : Stream) : (setStream s c x).dmaTag = s.dmaTag := rfl
@[simp] theorem setStream_memRest (s : State) (c : Nat) (x : Stream) : (setStream s c x).memRest = s.memRest := rfl
@[simp] theorem setStream_conRest (s : State) (c : Nat) (x : Stream) : (setStream s c x).conRest = s.conRest := rfl
@[simp] theorem setStream_flashAt (s : State) (c : Nat) (x : Stream) : (setStream s c x).flashAt = s.flashAt := rfl
@[simp] theorem setStream_opOrphans (s : State) (c : Nat) (x : Stream) : (setStream s c x).opOrphans = s.opOrphans := rfl
@[simp] theorem setStream_dmaDone (s : State) (c : Nat) (x : Stream) : (setStream s c x).dmaDone = s.dmaDone := rfl
@[simp] theorem setStream_progs (s : State) (c : Nat) (x : Stream) : (setStream s c x).progs = s.progs := rfl
@[simp] theorem setStream_progNo (s : State) (c : Nat) (x : Stream) : (setStream s c x).progNo = s.progNo := rfl
@[simp] theorem setStream_jobs (s : State) (c : Nat) (x : Stream) : (setStream s c x).jobs = s.jobs := rfl
@[simp] theorem setStream_disp (s : State) (c : Nat) (x : Stream) : (setStream s c x).disp = s.disp := rfl
@[simp] theorem setStream_sram (s : State) (c : Nat) (x : Stream) : (setStream s c x).sram = s.sram := rfl
@[simp] theorem setStream_flips (s : State) (c : Nat) (x : Stream) : (setStream s c x).flips = s.flips := rfl
@[simp] theorem setStream_counters (s : State) (c : Nat) (x : Stream) : (setStream s c x).counters = s.counters := rfl
@[simp] theorem setStream_mask (s : State) (c : Nat) (x : Stream) : (setStream s c x).mask = s.mask := rfl
@[simp] theorem setStream_draining (s : State) (c : Nat) (x : Stream) : (setStream s c x).draining = s.draining := rfl
@[simp] theorem setStream_locks (s : State) (c : Nat) (x : Stream) : (setStream s c x).locks = s.locks := rfl
@[simp] theorem setStream_plots (s : State) (c : Nat) (x : Stream) : (setStream s c x).plots = s.plots := rfl
@[simp] theorem setStream_hay (s : State) (c : Nat) (x : Stream) : (setStream s c x).hay = s.hay := rfl
@[simp] theorem setStream_flash (s : State) (c : Nat) (x : Stream) : (setStream s c x).flash = s.flash := rfl
@[simp] theorem setStream_flashCmd (s : State) (c : Nat) (x : Stream) : (setStream s c x).flashCmd = s.flashCmd := rfl
@[simp] theorem setStream_flashSusp (s : State) (c : Nat) (x : Stream) : (setStream s c x).flashSusp = s.flashSusp := rfl
@[simp] theorem setStream_spoilt (s : State) (c : Nat) (x : Stream) : (setStream s c x).spoilt = s.spoilt := rfl
@[simp] theorem setStream_bankWr (s : State) (c : Nat) (x : Stream) : (setStream s c x).bankWr = s.bankWr := rfl
@[simp] theorem setStream_bankSt (s : State) (c : Nat) (x : Stream) : (setStream s c x).bankSt = s.bankSt := rfl
@[simp] theorem setStream_bankErr (s : State) (c : Nat) (x : Stream) : (setStream s c x).bankErr = s.bankErr := rfl
@[simp] theorem setStream_bankTgt (s : State) (c : Nat) (x : Stream) : (setStream s c x).bankTgt = s.bankTgt := rfl
@[simp] theorem setStream_log (s : State) (c : Nat) (x : Stream) : (setStream s c x).log = s.log := rfl
@[simp] theorem setStream_mgmt (s : State) (c : Nat) (x : Stream) : (setStream s c x).mgmt = s.mgmt := rfl
@[simp] theorem setStream_gen (s : State) (c : Nat) (x : Stream) : (setStream s c x).gen = s.gen := rfl
@[simp] theorem setStream_mbx (s : State) (c : Nat) (x : Stream) : (setStream s c x).mbx = s.mbx := rfl
@[simp] theorem setStream_det (s : State) (c : Nat) (x : Stream) : (setStream s c x).det = s.det := rfl
@[simp] theorem setStream_logWin (s : State) (c : Nat) (x : Stream) : (setStream s c x).logWin = s.logWin := rfl
@[simp] theorem setStream_tel (s : State) (c : Nat) (x : Stream) : (setStream s c x).tel = s.tel := rfl
@[simp] theorem setStream_tally (s : State) (c : Nat) (x : Stream) : (setStream s c x).tally = s.tally := rfl

/-! ## modStream -/

@[simp] theorem modStream_pending (s : State) (c : Nat) (f : Stream → Stream) : (modStream s c f).pending = s.pending := rfl
@[simp] theorem modStream_out (s : State) (c : Nat) (f : Stream → Stream) : (modStream s c f).out = s.out := rfl
@[simp] theorem modStream_free (s : State) (c : Nat) (f : Stream → Stream) : (modStream s c f).free = s.free := rfl
@[simp] theorem modStream_now (s : State) (c : Nat) (f : Stream → Stream) : (modStream s c f).now = s.now := rfl
@[simp] theorem modStream_boot (s : State) (c : Nat) (f : Stream → Stream) : (modStream s c f).boot = s.boot := rfl
@[simp] theorem modStream_fuses (s : State) (c : Nat) (f : Stream → Stream) : (modStream s c f).fuses = s.fuses := rfl
@[simp] theorem modStream_fuseOp (s : State) (c : Nat) (f : Stream → Stream) : (modStream s c f).fuseOp = s.fuseOp := rfl
@[simp] theorem modStream_fuseWait (s : State) (c : Nat) (f : Stream → Stream) : (modStream s c f).fuseWait = s.fuseWait := rfl
@[simp] theorem modStream_chal (s : State) (c : Nat) (f : Stream → Stream) : (modStream s c f).chal = s.chal := rfl
@[simp] theorem modStream_cfg (s : State) (c : Nat) (f : Stream → Stream) : (modStream s c f).cfg = s.cfg := rfl
@[simp] theorem modStream_view (s : State) (c : Nat) (f : Stream → Stream) : (modStream s c f).view = s.view := rfl
@[simp] theorem modStream_ports (s : State) (c : Nat) (f : Stream → Stream) : (modStream s c f).ports = s.ports := rfl
@[simp] theorem modStream_c0wait (s : State) (c : Nat) (f : Stream → Stream) : (modStream s c f).c0wait = s.c0wait := rfl
@[simp] theorem modStream_routeHold (s : State) (c : Nat) (f : Stream → Stream) : (modStream s c f).routeHold = s.routeHold := rfl
@[simp] theorem modStream_discards (s : State) (c : Nat) (f : Stream → Stream) : (modStream s c f).discards = s.discards := rfl
@[simp] theorem modStream_fbs (s : State) (c : Nat) (f : Stream → Stream) : (modStream s c f).fbs = s.fbs := rfl
@[simp] theorem modStream_poolUsed (s : State) (c : Nat) (f : Stream → Stream) : (modStream s c f).poolUsed = s.poolUsed := rfl
@[simp] theorem modStream_poolRes (s : State) (c : Nat) (f : Stream → Stream) : (modStream s c f).poolRes = s.poolRes := rfl
@[simp] theorem modStream_rotPtr (s : State) (c : Nat) (f : Stream → Stream) : (modStream s c f).rotPtr = s.rotPtr := rfl
@[simp] theorem modStream_weirs (s : State) (c : Nat) (f : Stream → Stream) : (modStream s c f).weirs = s.weirs := rfl
@[simp] theorem modStream_sluices (s : State) (c : Nat) (f : Stream → Stream) : (modStream s c f).sluices = s.sluices := rfl
@[simp] theorem modStream_outCtr (s : State) (c : Nat) (f : Stream → Stream) : (modStream s c f).outCtr = s.outCtr := rfl
@[simp] theorem modStream_inWin (s : State) (c : Nat) (f : Stream → Stream) : (modStream s c f).inWin = s.inWin := rfl
@[simp] theorem modStream_linkTags (s : State) (c : Nat) (f : Stream → Stream) : (modStream s c f).linkTags = s.linkTags := rfl
@[simp] theorem modStream_adms (s : State) (c : Nat) (f : Stream → Stream) : (modStream s c f).adms = s.adms := rfl
@[simp] theorem modStream_reqs (s : State) (c : Nat) (f : Stream → Stream) : (modStream s c f).reqs = s.reqs := rfl
@[simp] theorem modStream_buckets (s : State) (c : Nat) (f : Stream → Stream) : (modStream s c f).buckets = s.buckets := rfl
@[simp] theorem modStream_laneTurn (s : State) (c : Nat) (f : Stream → Stream) : (modStream s c f).laneTurn = s.laneTurn := rfl
@[simp] theorem modStream_tickAt (s : State) (c : Nat) (f : Stream → Stream) : (modStream s c f).tickAt = s.tickAt := rfl
@[simp] theorem modStream_passAt (s : State) (c : Nat) (f : Stream → Stream) : (modStream s c f).passAt = s.passAt := rfl
@[simp] theorem modStream_fen (s : State) (c : Nat) (f : Stream → Stream) : (modStream s c f).fen = s.fen := rfl
@[simp] theorem modStream_bankQ (s : State) (c : Nat) (f : Stream → Stream) : (modStream s c f).bankQ = s.bankQ := rfl
@[simp] theorem modStream_bankHeld (s : State) (c : Nat) (f : Stream → Stream) : (modStream s c f).bankHeld = s.bankHeld := rfl
@[simp] theorem modStream_bankDone (s : State) (c : Nat) (f : Stream → Stream) : (modStream s c f).bankDone = s.bankDone := rfl
@[simp] theorem modStream_suspect (s : State) (c : Nat) (f : Stream → Stream) : (modStream s c f).suspect = s.suspect := rfl
@[simp] theorem modStream_scrubPos (s : State) (c : Nat) (f : Stream → Stream) : (modStream s c f).scrubPos = s.scrubPos := rfl
@[simp] theorem modStream_scrubQ (s : State) (c : Nat) (f : Stream → Stream) : (modStream s c f).scrubQ = s.scrubQ := rfl
@[simp] theorem modStream_fenQ (s : State) (c : Nat) (f : Stream → Stream) : (modStream s c f).fenQ = s.fenQ := rfl
@[simp] theorem modStream_fenRes (s : State) (c : Nat) (f : Stream → Stream) : (modStream s c f).fenRes = s.fenRes := rfl
@[simp] theorem modStream_opLog (s : State) (c : Nat) (f : Stream → Stream) : (modStream s c f).opLog = s.opLog := rfl
@[simp] theorem modStream_objs (s : State) (c : Nat) (f : Stream → Stream) : (modStream s c f).objs = s.objs := rfl
@[simp] theorem modStream_tabA (s : State) (c : Nat) (f : Stream → Stream) : (modStream s c f).tabA = s.tabA := rfl
@[simp] theorem modStream_tabB (s : State) (c : Nat) (f : Stream → Stream) : (modStream s c f).tabB = s.tabB := rfl
@[simp] theorem modStream_actB (s : State) (c : Nat) (f : Stream → Stream) : (modStream s c f).actB = s.actB := rfl
@[simp] theorem modStream_setAct (s : State) (c : Nat) (f : Stream → Stream) : (modStream s c f).setAct = s.setAct := rfl
@[simp] theorem modStream_setEpoch (s : State) (c : Nat) (f : Stream → Stream) : (modStream s c f).setEpoch = s.setEpoch := rfl
@[simp] theorem modStream_load (s : State) (c : Nat) (f : Stream → Stream) : (modStream s c f).load = s.load := rfl
@[simp] theorem modStream_ests (s : State) (c : Nat) (f : Stream → Stream) : (modStream s c f).ests = s.ests := rfl
@[simp] theorem modStream_blocks (s : State) (c : Nat) (f : Stream → Stream) : (modStream s c f).blocks = s.blocks := rfl
@[simp] theorem modStream_slow (s : State) (c : Nat) (f : Stream → Stream) : (modStream s c f).slow = s.slow := rfl
@[simp] theorem modStream_far (s : State) (c : Nat) (f : Stream → Stream) : (modStream s c f).far = s.far := rfl
@[simp] theorem modStream_kv (s : State) (c : Nat) (f : Stream → Stream) : (modStream s c f).kv = s.kv := rfl
@[simp] theorem modStream_memTags (s : State) (c : Nat) (f : Stream → Stream) : (modStream s c f).memTags = s.memTags := rfl
@[simp] theorem modStream_conTags (s : State) (c : Nat) (f : Stream → Stream) : (modStream s c f).conTags = s.conTags := rfl
@[simp] theorem modStream_dmaQ (s : State) (c : Nat) (f : Stream → Stream) : (modStream s c f).dmaQ = s.dmaQ := rfl
@[simp] theorem modStream_dmaWait (s : State) (c : Nat) (f : Stream → Stream) : (modStream s c f).dmaWait = s.dmaWait := rfl
@[simp] theorem modStream_dmaTag (s : State) (c : Nat) (f : Stream → Stream) : (modStream s c f).dmaTag = s.dmaTag := rfl
@[simp] theorem modStream_memRest (s : State) (c : Nat) (f : Stream → Stream) : (modStream s c f).memRest = s.memRest := rfl
@[simp] theorem modStream_conRest (s : State) (c : Nat) (f : Stream → Stream) : (modStream s c f).conRest = s.conRest := rfl
@[simp] theorem modStream_flashAt (s : State) (c : Nat) (f : Stream → Stream) : (modStream s c f).flashAt = s.flashAt := rfl
@[simp] theorem modStream_opOrphans (s : State) (c : Nat) (f : Stream → Stream) : (modStream s c f).opOrphans = s.opOrphans := rfl
@[simp] theorem modStream_dmaDone (s : State) (c : Nat) (f : Stream → Stream) : (modStream s c f).dmaDone = s.dmaDone := rfl
@[simp] theorem modStream_progs (s : State) (c : Nat) (f : Stream → Stream) : (modStream s c f).progs = s.progs := rfl
@[simp] theorem modStream_progNo (s : State) (c : Nat) (f : Stream → Stream) : (modStream s c f).progNo = s.progNo := rfl
@[simp] theorem modStream_jobs (s : State) (c : Nat) (f : Stream → Stream) : (modStream s c f).jobs = s.jobs := rfl
@[simp] theorem modStream_disp (s : State) (c : Nat) (f : Stream → Stream) : (modStream s c f).disp = s.disp := rfl
@[simp] theorem modStream_sram (s : State) (c : Nat) (f : Stream → Stream) : (modStream s c f).sram = s.sram := rfl
@[simp] theorem modStream_flips (s : State) (c : Nat) (f : Stream → Stream) : (modStream s c f).flips = s.flips := rfl
@[simp] theorem modStream_counters (s : State) (c : Nat) (f : Stream → Stream) : (modStream s c f).counters = s.counters := rfl
@[simp] theorem modStream_mask (s : State) (c : Nat) (f : Stream → Stream) : (modStream s c f).mask = s.mask := rfl
@[simp] theorem modStream_draining (s : State) (c : Nat) (f : Stream → Stream) : (modStream s c f).draining = s.draining := rfl
@[simp] theorem modStream_locks (s : State) (c : Nat) (f : Stream → Stream) : (modStream s c f).locks = s.locks := rfl
@[simp] theorem modStream_plots (s : State) (c : Nat) (f : Stream → Stream) : (modStream s c f).plots = s.plots := rfl
@[simp] theorem modStream_hay (s : State) (c : Nat) (f : Stream → Stream) : (modStream s c f).hay = s.hay := rfl
@[simp] theorem modStream_flash (s : State) (c : Nat) (f : Stream → Stream) : (modStream s c f).flash = s.flash := rfl
@[simp] theorem modStream_flashCmd (s : State) (c : Nat) (f : Stream → Stream) : (modStream s c f).flashCmd = s.flashCmd := rfl
@[simp] theorem modStream_flashSusp (s : State) (c : Nat) (f : Stream → Stream) : (modStream s c f).flashSusp = s.flashSusp := rfl
@[simp] theorem modStream_spoilt (s : State) (c : Nat) (f : Stream → Stream) : (modStream s c f).spoilt = s.spoilt := rfl
@[simp] theorem modStream_bankWr (s : State) (c : Nat) (f : Stream → Stream) : (modStream s c f).bankWr = s.bankWr := rfl
@[simp] theorem modStream_bankSt (s : State) (c : Nat) (f : Stream → Stream) : (modStream s c f).bankSt = s.bankSt := rfl
@[simp] theorem modStream_bankErr (s : State) (c : Nat) (f : Stream → Stream) : (modStream s c f).bankErr = s.bankErr := rfl
@[simp] theorem modStream_bankTgt (s : State) (c : Nat) (f : Stream → Stream) : (modStream s c f).bankTgt = s.bankTgt := rfl
@[simp] theorem modStream_log (s : State) (c : Nat) (f : Stream → Stream) : (modStream s c f).log = s.log := rfl
@[simp] theorem modStream_mgmt (s : State) (c : Nat) (f : Stream → Stream) : (modStream s c f).mgmt = s.mgmt := rfl
@[simp] theorem modStream_gen (s : State) (c : Nat) (f : Stream → Stream) : (modStream s c f).gen = s.gen := rfl
@[simp] theorem modStream_mbx (s : State) (c : Nat) (f : Stream → Stream) : (modStream s c f).mbx = s.mbx := rfl
@[simp] theorem modStream_det (s : State) (c : Nat) (f : Stream → Stream) : (modStream s c f).det = s.det := rfl
@[simp] theorem modStream_logWin (s : State) (c : Nat) (f : Stream → Stream) : (modStream s c f).logWin = s.logWin := rfl
@[simp] theorem modStream_tel (s : State) (c : Nat) (f : Stream → Stream) : (modStream s c f).tel = s.tel := rfl
@[simp] theorem modStream_tally (s : State) (c : Nat) (f : Stream → Stream) : (modStream s c f).tally = s.tally := rfl

/-! ## setObj -/

@[simp] theorem setObj_pending (s : State) (i : Nat) (x : Obj) : (setObj s i x).pending = s.pending := rfl
@[simp] theorem setObj_out (s : State) (i : Nat) (x : Obj) : (setObj s i x).out = s.out := rfl
@[simp] theorem setObj_free (s : State) (i : Nat) (x : Obj) : (setObj s i x).free = s.free := rfl
@[simp] theorem setObj_now (s : State) (i : Nat) (x : Obj) : (setObj s i x).now = s.now := rfl
@[simp] theorem setObj_boot (s : State) (i : Nat) (x : Obj) : (setObj s i x).boot = s.boot := rfl
@[simp] theorem setObj_fuses (s : State) (i : Nat) (x : Obj) : (setObj s i x).fuses = s.fuses := rfl
@[simp] theorem setObj_fuseOp (s : State) (i : Nat) (x : Obj) : (setObj s i x).fuseOp = s.fuseOp := rfl
@[simp] theorem setObj_fuseWait (s : State) (i : Nat) (x : Obj) : (setObj s i x).fuseWait = s.fuseWait := rfl
@[simp] theorem setObj_chal (s : State) (i : Nat) (x : Obj) : (setObj s i x).chal = s.chal := rfl
@[simp] theorem setObj_cfg (s : State) (i : Nat) (x : Obj) : (setObj s i x).cfg = s.cfg := rfl
@[simp] theorem setObj_view (s : State) (i : Nat) (x : Obj) : (setObj s i x).view = s.view := rfl
@[simp] theorem setObj_ports (s : State) (i : Nat) (x : Obj) : (setObj s i x).ports = s.ports := rfl
@[simp] theorem setObj_c0wait (s : State) (i : Nat) (x : Obj) : (setObj s i x).c0wait = s.c0wait := rfl
@[simp] theorem setObj_routeHold (s : State) (i : Nat) (x : Obj) : (setObj s i x).routeHold = s.routeHold := rfl
@[simp] theorem setObj_discards (s : State) (i : Nat) (x : Obj) : (setObj s i x).discards = s.discards := rfl
@[simp] theorem setObj_fbs (s : State) (i : Nat) (x : Obj) : (setObj s i x).fbs = s.fbs := rfl
@[simp] theorem setObj_poolUsed (s : State) (i : Nat) (x : Obj) : (setObj s i x).poolUsed = s.poolUsed := rfl
@[simp] theorem setObj_poolRes (s : State) (i : Nat) (x : Obj) : (setObj s i x).poolRes = s.poolRes := rfl
@[simp] theorem setObj_rotPtr (s : State) (i : Nat) (x : Obj) : (setObj s i x).rotPtr = s.rotPtr := rfl
@[simp] theorem setObj_weirs (s : State) (i : Nat) (x : Obj) : (setObj s i x).weirs = s.weirs := rfl
@[simp] theorem setObj_sluices (s : State) (i : Nat) (x : Obj) : (setObj s i x).sluices = s.sluices := rfl
@[simp] theorem setObj_outCtr (s : State) (i : Nat) (x : Obj) : (setObj s i x).outCtr = s.outCtr := rfl
@[simp] theorem setObj_inWin (s : State) (i : Nat) (x : Obj) : (setObj s i x).inWin = s.inWin := rfl
@[simp] theorem setObj_linkTags (s : State) (i : Nat) (x : Obj) : (setObj s i x).linkTags = s.linkTags := rfl
@[simp] theorem setObj_adms (s : State) (i : Nat) (x : Obj) : (setObj s i x).adms = s.adms := rfl
@[simp] theorem setObj_streams (s : State) (i : Nat) (x : Obj) : (setObj s i x).streams = s.streams := rfl
@[simp] theorem setObj_reqs (s : State) (i : Nat) (x : Obj) : (setObj s i x).reqs = s.reqs := rfl
@[simp] theorem setObj_buckets (s : State) (i : Nat) (x : Obj) : (setObj s i x).buckets = s.buckets := rfl
@[simp] theorem setObj_laneTurn (s : State) (i : Nat) (x : Obj) : (setObj s i x).laneTurn = s.laneTurn := rfl
@[simp] theorem setObj_tickAt (s : State) (i : Nat) (x : Obj) : (setObj s i x).tickAt = s.tickAt := rfl
@[simp] theorem setObj_passAt (s : State) (i : Nat) (x : Obj) : (setObj s i x).passAt = s.passAt := rfl
@[simp] theorem setObj_fen (s : State) (i : Nat) (x : Obj) : (setObj s i x).fen = s.fen := rfl
@[simp] theorem setObj_bankQ (s : State) (i : Nat) (x : Obj) : (setObj s i x).bankQ = s.bankQ := rfl
@[simp] theorem setObj_bankHeld (s : State) (i : Nat) (x : Obj) : (setObj s i x).bankHeld = s.bankHeld := rfl
@[simp] theorem setObj_bankDone (s : State) (i : Nat) (x : Obj) : (setObj s i x).bankDone = s.bankDone := rfl
@[simp] theorem setObj_suspect (s : State) (i : Nat) (x : Obj) : (setObj s i x).suspect = s.suspect := rfl
@[simp] theorem setObj_scrubPos (s : State) (i : Nat) (x : Obj) : (setObj s i x).scrubPos = s.scrubPos := rfl
@[simp] theorem setObj_scrubQ (s : State) (i : Nat) (x : Obj) : (setObj s i x).scrubQ = s.scrubQ := rfl
@[simp] theorem setObj_fenQ (s : State) (i : Nat) (x : Obj) : (setObj s i x).fenQ = s.fenQ := rfl
@[simp] theorem setObj_fenRes (s : State) (i : Nat) (x : Obj) : (setObj s i x).fenRes = s.fenRes := rfl
@[simp] theorem setObj_opLog (s : State) (i : Nat) (x : Obj) : (setObj s i x).opLog = s.opLog := rfl
@[simp] theorem setObj_tabA (s : State) (i : Nat) (x : Obj) : (setObj s i x).tabA = s.tabA := rfl
@[simp] theorem setObj_tabB (s : State) (i : Nat) (x : Obj) : (setObj s i x).tabB = s.tabB := rfl
@[simp] theorem setObj_actB (s : State) (i : Nat) (x : Obj) : (setObj s i x).actB = s.actB := rfl
@[simp] theorem setObj_setAct (s : State) (i : Nat) (x : Obj) : (setObj s i x).setAct = s.setAct := rfl
@[simp] theorem setObj_setEpoch (s : State) (i : Nat) (x : Obj) : (setObj s i x).setEpoch = s.setEpoch := rfl
@[simp] theorem setObj_load (s : State) (i : Nat) (x : Obj) : (setObj s i x).load = s.load := rfl
@[simp] theorem setObj_ests (s : State) (i : Nat) (x : Obj) : (setObj s i x).ests = s.ests := rfl
@[simp] theorem setObj_blocks (s : State) (i : Nat) (x : Obj) : (setObj s i x).blocks = s.blocks := rfl
@[simp] theorem setObj_slow (s : State) (i : Nat) (x : Obj) : (setObj s i x).slow = s.slow := rfl
@[simp] theorem setObj_far (s : State) (i : Nat) (x : Obj) : (setObj s i x).far = s.far := rfl
@[simp] theorem setObj_kv (s : State) (i : Nat) (x : Obj) : (setObj s i x).kv = s.kv := rfl
@[simp] theorem setObj_memTags (s : State) (i : Nat) (x : Obj) : (setObj s i x).memTags = s.memTags := rfl
@[simp] theorem setObj_conTags (s : State) (i : Nat) (x : Obj) : (setObj s i x).conTags = s.conTags := rfl
@[simp] theorem setObj_dmaQ (s : State) (i : Nat) (x : Obj) : (setObj s i x).dmaQ = s.dmaQ := rfl
@[simp] theorem setObj_dmaWait (s : State) (i : Nat) (x : Obj) : (setObj s i x).dmaWait = s.dmaWait := rfl
@[simp] theorem setObj_dmaTag (s : State) (i : Nat) (x : Obj) : (setObj s i x).dmaTag = s.dmaTag := rfl
@[simp] theorem setObj_memRest (s : State) (i : Nat) (x : Obj) : (setObj s i x).memRest = s.memRest := rfl
@[simp] theorem setObj_conRest (s : State) (i : Nat) (x : Obj) : (setObj s i x).conRest = s.conRest := rfl
@[simp] theorem setObj_flashAt (s : State) (i : Nat) (x : Obj) : (setObj s i x).flashAt = s.flashAt := rfl
@[simp] theorem setObj_opOrphans (s : State) (i : Nat) (x : Obj) : (setObj s i x).opOrphans = s.opOrphans := rfl
@[simp] theorem setObj_dmaDone (s : State) (i : Nat) (x : Obj) : (setObj s i x).dmaDone = s.dmaDone := rfl
@[simp] theorem setObj_progs (s : State) (i : Nat) (x : Obj) : (setObj s i x).progs = s.progs := rfl
@[simp] theorem setObj_progNo (s : State) (i : Nat) (x : Obj) : (setObj s i x).progNo = s.progNo := rfl
@[simp] theorem setObj_jobs (s : State) (i : Nat) (x : Obj) : (setObj s i x).jobs = s.jobs := rfl
@[simp] theorem setObj_disp (s : State) (i : Nat) (x : Obj) : (setObj s i x).disp = s.disp := rfl
@[simp] theorem setObj_sram (s : State) (i : Nat) (x : Obj) : (setObj s i x).sram = s.sram := rfl
@[simp] theorem setObj_flips (s : State) (i : Nat) (x : Obj) : (setObj s i x).flips = s.flips := rfl
@[simp] theorem setObj_counters (s : State) (i : Nat) (x : Obj) : (setObj s i x).counters = s.counters := rfl
@[simp] theorem setObj_mask (s : State) (i : Nat) (x : Obj) : (setObj s i x).mask = s.mask := rfl
@[simp] theorem setObj_draining (s : State) (i : Nat) (x : Obj) : (setObj s i x).draining = s.draining := rfl
@[simp] theorem setObj_locks (s : State) (i : Nat) (x : Obj) : (setObj s i x).locks = s.locks := rfl
@[simp] theorem setObj_plots (s : State) (i : Nat) (x : Obj) : (setObj s i x).plots = s.plots := rfl
@[simp] theorem setObj_hay (s : State) (i : Nat) (x : Obj) : (setObj s i x).hay = s.hay := rfl
@[simp] theorem setObj_flash (s : State) (i : Nat) (x : Obj) : (setObj s i x).flash = s.flash := rfl
@[simp] theorem setObj_flashCmd (s : State) (i : Nat) (x : Obj) : (setObj s i x).flashCmd = s.flashCmd := rfl
@[simp] theorem setObj_flashSusp (s : State) (i : Nat) (x : Obj) : (setObj s i x).flashSusp = s.flashSusp := rfl
@[simp] theorem setObj_spoilt (s : State) (i : Nat) (x : Obj) : (setObj s i x).spoilt = s.spoilt := rfl
@[simp] theorem setObj_bankWr (s : State) (i : Nat) (x : Obj) : (setObj s i x).bankWr = s.bankWr := rfl
@[simp] theorem setObj_bankSt (s : State) (i : Nat) (x : Obj) : (setObj s i x).bankSt = s.bankSt := rfl
@[simp] theorem setObj_bankErr (s : State) (i : Nat) (x : Obj) : (setObj s i x).bankErr = s.bankErr := rfl
@[simp] theorem setObj_bankTgt (s : State) (i : Nat) (x : Obj) : (setObj s i x).bankTgt = s.bankTgt := rfl
@[simp] theorem setObj_log (s : State) (i : Nat) (x : Obj) : (setObj s i x).log = s.log := rfl
@[simp] theorem setObj_mgmt (s : State) (i : Nat) (x : Obj) : (setObj s i x).mgmt = s.mgmt := rfl
@[simp] theorem setObj_gen (s : State) (i : Nat) (x : Obj) : (setObj s i x).gen = s.gen := rfl
@[simp] theorem setObj_mbx (s : State) (i : Nat) (x : Obj) : (setObj s i x).mbx = s.mbx := rfl
@[simp] theorem setObj_det (s : State) (i : Nat) (x : Obj) : (setObj s i x).det = s.det := rfl
@[simp] theorem setObj_logWin (s : State) (i : Nat) (x : Obj) : (setObj s i x).logWin = s.logWin := rfl
@[simp] theorem setObj_tel (s : State) (i : Nat) (x : Obj) : (setObj s i x).tel = s.tel := rfl
@[simp] theorem setObj_tally (s : State) (i : Nat) (x : Obj) : (setObj s i x).tally = s.tally := rfl

/-! ## setPlot -/

@[simp] theorem setPlot_pending (s : State) (n : Nat) (x : Plot) : (setPlot s n x).pending = s.pending := rfl
@[simp] theorem setPlot_out (s : State) (n : Nat) (x : Plot) : (setPlot s n x).out = s.out := rfl
@[simp] theorem setPlot_free (s : State) (n : Nat) (x : Plot) : (setPlot s n x).free = s.free := rfl
@[simp] theorem setPlot_now (s : State) (n : Nat) (x : Plot) : (setPlot s n x).now = s.now := rfl
@[simp] theorem setPlot_boot (s : State) (n : Nat) (x : Plot) : (setPlot s n x).boot = s.boot := rfl
@[simp] theorem setPlot_fuses (s : State) (n : Nat) (x : Plot) : (setPlot s n x).fuses = s.fuses := rfl
@[simp] theorem setPlot_fuseOp (s : State) (n : Nat) (x : Plot) : (setPlot s n x).fuseOp = s.fuseOp := rfl
@[simp] theorem setPlot_fuseWait (s : State) (n : Nat) (x : Plot) : (setPlot s n x).fuseWait = s.fuseWait := rfl
@[simp] theorem setPlot_chal (s : State) (n : Nat) (x : Plot) : (setPlot s n x).chal = s.chal := rfl
@[simp] theorem setPlot_cfg (s : State) (n : Nat) (x : Plot) : (setPlot s n x).cfg = s.cfg := rfl
@[simp] theorem setPlot_view (s : State) (n : Nat) (x : Plot) : (setPlot s n x).view = s.view := rfl
@[simp] theorem setPlot_ports (s : State) (n : Nat) (x : Plot) : (setPlot s n x).ports = s.ports := rfl
@[simp] theorem setPlot_c0wait (s : State) (n : Nat) (x : Plot) : (setPlot s n x).c0wait = s.c0wait := rfl
@[simp] theorem setPlot_routeHold (s : State) (n : Nat) (x : Plot) : (setPlot s n x).routeHold = s.routeHold := rfl
@[simp] theorem setPlot_discards (s : State) (n : Nat) (x : Plot) : (setPlot s n x).discards = s.discards := rfl
@[simp] theorem setPlot_fbs (s : State) (n : Nat) (x : Plot) : (setPlot s n x).fbs = s.fbs := rfl
@[simp] theorem setPlot_poolUsed (s : State) (n : Nat) (x : Plot) : (setPlot s n x).poolUsed = s.poolUsed := rfl
@[simp] theorem setPlot_poolRes (s : State) (n : Nat) (x : Plot) : (setPlot s n x).poolRes = s.poolRes := rfl
@[simp] theorem setPlot_rotPtr (s : State) (n : Nat) (x : Plot) : (setPlot s n x).rotPtr = s.rotPtr := rfl
@[simp] theorem setPlot_weirs (s : State) (n : Nat) (x : Plot) : (setPlot s n x).weirs = s.weirs := rfl
@[simp] theorem setPlot_sluices (s : State) (n : Nat) (x : Plot) : (setPlot s n x).sluices = s.sluices := rfl
@[simp] theorem setPlot_outCtr (s : State) (n : Nat) (x : Plot) : (setPlot s n x).outCtr = s.outCtr := rfl
@[simp] theorem setPlot_inWin (s : State) (n : Nat) (x : Plot) : (setPlot s n x).inWin = s.inWin := rfl
@[simp] theorem setPlot_linkTags (s : State) (n : Nat) (x : Plot) : (setPlot s n x).linkTags = s.linkTags := rfl
@[simp] theorem setPlot_adms (s : State) (n : Nat) (x : Plot) : (setPlot s n x).adms = s.adms := rfl
@[simp] theorem setPlot_streams (s : State) (n : Nat) (x : Plot) : (setPlot s n x).streams = s.streams := rfl
@[simp] theorem setPlot_reqs (s : State) (n : Nat) (x : Plot) : (setPlot s n x).reqs = s.reqs := rfl
@[simp] theorem setPlot_buckets (s : State) (n : Nat) (x : Plot) : (setPlot s n x).buckets = s.buckets := rfl
@[simp] theorem setPlot_laneTurn (s : State) (n : Nat) (x : Plot) : (setPlot s n x).laneTurn = s.laneTurn := rfl
@[simp] theorem setPlot_tickAt (s : State) (n : Nat) (x : Plot) : (setPlot s n x).tickAt = s.tickAt := rfl
@[simp] theorem setPlot_passAt (s : State) (n : Nat) (x : Plot) : (setPlot s n x).passAt = s.passAt := rfl
@[simp] theorem setPlot_fen (s : State) (n : Nat) (x : Plot) : (setPlot s n x).fen = s.fen := rfl
@[simp] theorem setPlot_bankQ (s : State) (n : Nat) (x : Plot) : (setPlot s n x).bankQ = s.bankQ := rfl
@[simp] theorem setPlot_bankHeld (s : State) (n : Nat) (x : Plot) : (setPlot s n x).bankHeld = s.bankHeld := rfl
@[simp] theorem setPlot_bankDone (s : State) (n : Nat) (x : Plot) : (setPlot s n x).bankDone = s.bankDone := rfl
@[simp] theorem setPlot_suspect (s : State) (n : Nat) (x : Plot) : (setPlot s n x).suspect = s.suspect := rfl
@[simp] theorem setPlot_scrubPos (s : State) (n : Nat) (x : Plot) : (setPlot s n x).scrubPos = s.scrubPos := rfl
@[simp] theorem setPlot_scrubQ (s : State) (n : Nat) (x : Plot) : (setPlot s n x).scrubQ = s.scrubQ := rfl
@[simp] theorem setPlot_fenQ (s : State) (n : Nat) (x : Plot) : (setPlot s n x).fenQ = s.fenQ := rfl
@[simp] theorem setPlot_fenRes (s : State) (n : Nat) (x : Plot) : (setPlot s n x).fenRes = s.fenRes := rfl
@[simp] theorem setPlot_opLog (s : State) (n : Nat) (x : Plot) : (setPlot s n x).opLog = s.opLog := rfl
@[simp] theorem setPlot_objs (s : State) (n : Nat) (x : Plot) : (setPlot s n x).objs = s.objs := rfl
@[simp] theorem setPlot_tabA (s : State) (n : Nat) (x : Plot) : (setPlot s n x).tabA = s.tabA := rfl
@[simp] theorem setPlot_tabB (s : State) (n : Nat) (x : Plot) : (setPlot s n x).tabB = s.tabB := rfl
@[simp] theorem setPlot_actB (s : State) (n : Nat) (x : Plot) : (setPlot s n x).actB = s.actB := rfl
@[simp] theorem setPlot_setAct (s : State) (n : Nat) (x : Plot) : (setPlot s n x).setAct = s.setAct := rfl
@[simp] theorem setPlot_setEpoch (s : State) (n : Nat) (x : Plot) : (setPlot s n x).setEpoch = s.setEpoch := rfl
@[simp] theorem setPlot_load (s : State) (n : Nat) (x : Plot) : (setPlot s n x).load = s.load := rfl
@[simp] theorem setPlot_ests (s : State) (n : Nat) (x : Plot) : (setPlot s n x).ests = s.ests := rfl
@[simp] theorem setPlot_blocks (s : State) (n : Nat) (x : Plot) : (setPlot s n x).blocks = s.blocks := rfl
@[simp] theorem setPlot_slow (s : State) (n : Nat) (x : Plot) : (setPlot s n x).slow = s.slow := rfl
@[simp] theorem setPlot_far (s : State) (n : Nat) (x : Plot) : (setPlot s n x).far = s.far := rfl
@[simp] theorem setPlot_kv (s : State) (n : Nat) (x : Plot) : (setPlot s n x).kv = s.kv := rfl
@[simp] theorem setPlot_memTags (s : State) (n : Nat) (x : Plot) : (setPlot s n x).memTags = s.memTags := rfl
@[simp] theorem setPlot_conTags (s : State) (n : Nat) (x : Plot) : (setPlot s n x).conTags = s.conTags := rfl
@[simp] theorem setPlot_dmaQ (s : State) (n : Nat) (x : Plot) : (setPlot s n x).dmaQ = s.dmaQ := rfl
@[simp] theorem setPlot_dmaWait (s : State) (n : Nat) (x : Plot) : (setPlot s n x).dmaWait = s.dmaWait := rfl
@[simp] theorem setPlot_dmaTag (s : State) (n : Nat) (x : Plot) : (setPlot s n x).dmaTag = s.dmaTag := rfl
@[simp] theorem setPlot_memRest (s : State) (n : Nat) (x : Plot) : (setPlot s n x).memRest = s.memRest := rfl
@[simp] theorem setPlot_conRest (s : State) (n : Nat) (x : Plot) : (setPlot s n x).conRest = s.conRest := rfl
@[simp] theorem setPlot_flashAt (s : State) (n : Nat) (x : Plot) : (setPlot s n x).flashAt = s.flashAt := rfl
@[simp] theorem setPlot_opOrphans (s : State) (n : Nat) (x : Plot) : (setPlot s n x).opOrphans = s.opOrphans := rfl
@[simp] theorem setPlot_dmaDone (s : State) (n : Nat) (x : Plot) : (setPlot s n x).dmaDone = s.dmaDone := rfl
@[simp] theorem setPlot_progs (s : State) (n : Nat) (x : Plot) : (setPlot s n x).progs = s.progs := rfl
@[simp] theorem setPlot_progNo (s : State) (n : Nat) (x : Plot) : (setPlot s n x).progNo = s.progNo := rfl
@[simp] theorem setPlot_jobs (s : State) (n : Nat) (x : Plot) : (setPlot s n x).jobs = s.jobs := rfl
@[simp] theorem setPlot_disp (s : State) (n : Nat) (x : Plot) : (setPlot s n x).disp = s.disp := rfl
@[simp] theorem setPlot_sram (s : State) (n : Nat) (x : Plot) : (setPlot s n x).sram = s.sram := rfl
@[simp] theorem setPlot_flips (s : State) (n : Nat) (x : Plot) : (setPlot s n x).flips = s.flips := rfl
@[simp] theorem setPlot_counters (s : State) (n : Nat) (x : Plot) : (setPlot s n x).counters = s.counters := rfl
@[simp] theorem setPlot_mask (s : State) (n : Nat) (x : Plot) : (setPlot s n x).mask = s.mask := rfl
@[simp] theorem setPlot_draining (s : State) (n : Nat) (x : Plot) : (setPlot s n x).draining = s.draining := rfl
@[simp] theorem setPlot_locks (s : State) (n : Nat) (x : Plot) : (setPlot s n x).locks = s.locks := rfl
@[simp] theorem setPlot_hay (s : State) (n : Nat) (x : Plot) : (setPlot s n x).hay = s.hay := rfl
@[simp] theorem setPlot_flash (s : State) (n : Nat) (x : Plot) : (setPlot s n x).flash = s.flash := rfl
@[simp] theorem setPlot_flashCmd (s : State) (n : Nat) (x : Plot) : (setPlot s n x).flashCmd = s.flashCmd := rfl
@[simp] theorem setPlot_flashSusp (s : State) (n : Nat) (x : Plot) : (setPlot s n x).flashSusp = s.flashSusp := rfl
@[simp] theorem setPlot_spoilt (s : State) (n : Nat) (x : Plot) : (setPlot s n x).spoilt = s.spoilt := rfl
@[simp] theorem setPlot_bankWr (s : State) (n : Nat) (x : Plot) : (setPlot s n x).bankWr = s.bankWr := rfl
@[simp] theorem setPlot_bankSt (s : State) (n : Nat) (x : Plot) : (setPlot s n x).bankSt = s.bankSt := rfl
@[simp] theorem setPlot_bankErr (s : State) (n : Nat) (x : Plot) : (setPlot s n x).bankErr = s.bankErr := rfl
@[simp] theorem setPlot_bankTgt (s : State) (n : Nat) (x : Plot) : (setPlot s n x).bankTgt = s.bankTgt := rfl
@[simp] theorem setPlot_log (s : State) (n : Nat) (x : Plot) : (setPlot s n x).log = s.log := rfl
@[simp] theorem setPlot_mgmt (s : State) (n : Nat) (x : Plot) : (setPlot s n x).mgmt = s.mgmt := rfl
@[simp] theorem setPlot_gen (s : State) (n : Nat) (x : Plot) : (setPlot s n x).gen = s.gen := rfl
@[simp] theorem setPlot_mbx (s : State) (n : Nat) (x : Plot) : (setPlot s n x).mbx = s.mbx := rfl
@[simp] theorem setPlot_det (s : State) (n : Nat) (x : Plot) : (setPlot s n x).det = s.det := rfl
@[simp] theorem setPlot_logWin (s : State) (n : Nat) (x : Plot) : (setPlot s n x).logWin = s.logWin := rfl
@[simp] theorem setPlot_tel (s : State) (n : Nat) (x : Plot) : (setPlot s n x).tel = s.tel := rfl
@[simp] theorem setPlot_tally (s : State) (n : Nat) (x : Plot) : (setPlot s n x).tally = s.tally := rfl

/-! ## setHeath -/

@[simp] theorem setHeath_pending (s : State) (h : Nat) (x : Heath) : (setHeath s h x).pending = s.pending := rfl
@[simp] theorem setHeath_out (s : State) (h : Nat) (x : Heath) : (setHeath s h x).out = s.out := rfl
@[simp] theorem setHeath_free (s : State) (h : Nat) (x : Heath) : (setHeath s h x).free = s.free := rfl
@[simp] theorem setHeath_now (s : State) (h : Nat) (x : Heath) : (setHeath s h x).now = s.now := rfl
@[simp] theorem setHeath_boot (s : State) (h : Nat) (x : Heath) : (setHeath s h x).boot = s.boot := rfl
@[simp] theorem setHeath_fuses (s : State) (h : Nat) (x : Heath) : (setHeath s h x).fuses = s.fuses := rfl
@[simp] theorem setHeath_fuseOp (s : State) (h : Nat) (x : Heath) : (setHeath s h x).fuseOp = s.fuseOp := rfl
@[simp] theorem setHeath_fuseWait (s : State) (h : Nat) (x : Heath) : (setHeath s h x).fuseWait = s.fuseWait := rfl
@[simp] theorem setHeath_chal (s : State) (h : Nat) (x : Heath) : (setHeath s h x).chal = s.chal := rfl
@[simp] theorem setHeath_cfg (s : State) (h : Nat) (x : Heath) : (setHeath s h x).cfg = s.cfg := rfl
@[simp] theorem setHeath_view (s : State) (h : Nat) (x : Heath) : (setHeath s h x).view = s.view := rfl
@[simp] theorem setHeath_ports (s : State) (h : Nat) (x : Heath) : (setHeath s h x).ports = s.ports := rfl
@[simp] theorem setHeath_c0wait (s : State) (h : Nat) (x : Heath) : (setHeath s h x).c0wait = s.c0wait := rfl
@[simp] theorem setHeath_routeHold (s : State) (h : Nat) (x : Heath) : (setHeath s h x).routeHold = s.routeHold := rfl
@[simp] theorem setHeath_discards (s : State) (h : Nat) (x : Heath) : (setHeath s h x).discards = s.discards := rfl
@[simp] theorem setHeath_fbs (s : State) (h : Nat) (x : Heath) : (setHeath s h x).fbs = s.fbs := rfl
@[simp] theorem setHeath_poolUsed (s : State) (h : Nat) (x : Heath) : (setHeath s h x).poolUsed = s.poolUsed := rfl
@[simp] theorem setHeath_poolRes (s : State) (h : Nat) (x : Heath) : (setHeath s h x).poolRes = s.poolRes := rfl
@[simp] theorem setHeath_rotPtr (s : State) (h : Nat) (x : Heath) : (setHeath s h x).rotPtr = s.rotPtr := rfl
@[simp] theorem setHeath_weirs (s : State) (h : Nat) (x : Heath) : (setHeath s h x).weirs = s.weirs := rfl
@[simp] theorem setHeath_sluices (s : State) (h : Nat) (x : Heath) : (setHeath s h x).sluices = s.sluices := rfl
@[simp] theorem setHeath_outCtr (s : State) (h : Nat) (x : Heath) : (setHeath s h x).outCtr = s.outCtr := rfl
@[simp] theorem setHeath_inWin (s : State) (h : Nat) (x : Heath) : (setHeath s h x).inWin = s.inWin := rfl
@[simp] theorem setHeath_linkTags (s : State) (h : Nat) (x : Heath) : (setHeath s h x).linkTags = s.linkTags := rfl
@[simp] theorem setHeath_adms (s : State) (h : Nat) (x : Heath) : (setHeath s h x).adms = s.adms := rfl
@[simp] theorem setHeath_streams (s : State) (h : Nat) (x : Heath) : (setHeath s h x).streams = s.streams := rfl
@[simp] theorem setHeath_reqs (s : State) (h : Nat) (x : Heath) : (setHeath s h x).reqs = s.reqs := rfl
@[simp] theorem setHeath_buckets (s : State) (h : Nat) (x : Heath) : (setHeath s h x).buckets = s.buckets := rfl
@[simp] theorem setHeath_laneTurn (s : State) (h : Nat) (x : Heath) : (setHeath s h x).laneTurn = s.laneTurn := rfl
@[simp] theorem setHeath_tickAt (s : State) (h : Nat) (x : Heath) : (setHeath s h x).tickAt = s.tickAt := rfl
@[simp] theorem setHeath_passAt (s : State) (h : Nat) (x : Heath) : (setHeath s h x).passAt = s.passAt := rfl
@[simp] theorem setHeath_fen (s : State) (h : Nat) (x : Heath) : (setHeath s h x).fen = s.fen := rfl
@[simp] theorem setHeath_bankQ (s : State) (h : Nat) (x : Heath) : (setHeath s h x).bankQ = s.bankQ := rfl
@[simp] theorem setHeath_bankHeld (s : State) (h : Nat) (x : Heath) : (setHeath s h x).bankHeld = s.bankHeld := rfl
@[simp] theorem setHeath_bankDone (s : State) (h : Nat) (x : Heath) : (setHeath s h x).bankDone = s.bankDone := rfl
@[simp] theorem setHeath_suspect (s : State) (h : Nat) (x : Heath) : (setHeath s h x).suspect = s.suspect := rfl
@[simp] theorem setHeath_scrubPos (s : State) (h : Nat) (x : Heath) : (setHeath s h x).scrubPos = s.scrubPos := rfl
@[simp] theorem setHeath_scrubQ (s : State) (h : Nat) (x : Heath) : (setHeath s h x).scrubQ = s.scrubQ := rfl
@[simp] theorem setHeath_fenQ (s : State) (h : Nat) (x : Heath) : (setHeath s h x).fenQ = s.fenQ := rfl
@[simp] theorem setHeath_fenRes (s : State) (h : Nat) (x : Heath) : (setHeath s h x).fenRes = s.fenRes := rfl
@[simp] theorem setHeath_opLog (s : State) (h : Nat) (x : Heath) : (setHeath s h x).opLog = s.opLog := rfl
@[simp] theorem setHeath_objs (s : State) (h : Nat) (x : Heath) : (setHeath s h x).objs = s.objs := rfl
@[simp] theorem setHeath_tabA (s : State) (h : Nat) (x : Heath) : (setHeath s h x).tabA = s.tabA := rfl
@[simp] theorem setHeath_tabB (s : State) (h : Nat) (x : Heath) : (setHeath s h x).tabB = s.tabB := rfl
@[simp] theorem setHeath_actB (s : State) (h : Nat) (x : Heath) : (setHeath s h x).actB = s.actB := rfl
@[simp] theorem setHeath_setAct (s : State) (h : Nat) (x : Heath) : (setHeath s h x).setAct = s.setAct := rfl
@[simp] theorem setHeath_setEpoch (s : State) (h : Nat) (x : Heath) : (setHeath s h x).setEpoch = s.setEpoch := rfl
@[simp] theorem setHeath_load (s : State) (h : Nat) (x : Heath) : (setHeath s h x).load = s.load := rfl
@[simp] theorem setHeath_ests (s : State) (h : Nat) (x : Heath) : (setHeath s h x).ests = s.ests := rfl
@[simp] theorem setHeath_blocks (s : State) (h : Nat) (x : Heath) : (setHeath s h x).blocks = s.blocks := rfl
@[simp] theorem setHeath_slow (s : State) (h : Nat) (x : Heath) : (setHeath s h x).slow = s.slow := rfl
@[simp] theorem setHeath_far (s : State) (h : Nat) (x : Heath) : (setHeath s h x).far = s.far := rfl
@[simp] theorem setHeath_kv (s : State) (h : Nat) (x : Heath) : (setHeath s h x).kv = s.kv := rfl
@[simp] theorem setHeath_memTags (s : State) (h : Nat) (x : Heath) : (setHeath s h x).memTags = s.memTags := rfl
@[simp] theorem setHeath_conTags (s : State) (h : Nat) (x : Heath) : (setHeath s h x).conTags = s.conTags := rfl
@[simp] theorem setHeath_dmaQ (s : State) (h : Nat) (x : Heath) : (setHeath s h x).dmaQ = s.dmaQ := rfl
@[simp] theorem setHeath_dmaWait (s : State) (h : Nat) (x : Heath) : (setHeath s h x).dmaWait = s.dmaWait := rfl
@[simp] theorem setHeath_dmaTag (s : State) (h : Nat) (x : Heath) : (setHeath s h x).dmaTag = s.dmaTag := rfl
@[simp] theorem setHeath_memRest (s : State) (h : Nat) (x : Heath) : (setHeath s h x).memRest = s.memRest := rfl
@[simp] theorem setHeath_conRest (s : State) (h : Nat) (x : Heath) : (setHeath s h x).conRest = s.conRest := rfl
@[simp] theorem setHeath_flashAt (s : State) (h : Nat) (x : Heath) : (setHeath s h x).flashAt = s.flashAt := rfl
@[simp] theorem setHeath_opOrphans (s : State) (h : Nat) (x : Heath) : (setHeath s h x).opOrphans = s.opOrphans := rfl
@[simp] theorem setHeath_dmaDone (s : State) (h : Nat) (x : Heath) : (setHeath s h x).dmaDone = s.dmaDone := rfl
@[simp] theorem setHeath_progs (s : State) (h : Nat) (x : Heath) : (setHeath s h x).progs = s.progs := rfl
@[simp] theorem setHeath_progNo (s : State) (h : Nat) (x : Heath) : (setHeath s h x).progNo = s.progNo := rfl
@[simp] theorem setHeath_jobs (s : State) (h : Nat) (x : Heath) : (setHeath s h x).jobs = s.jobs := rfl
@[simp] theorem setHeath_disp (s : State) (h : Nat) (x : Heath) : (setHeath s h x).disp = s.disp := rfl
@[simp] theorem setHeath_sram (s : State) (h : Nat) (x : Heath) : (setHeath s h x).sram = s.sram := rfl
@[simp] theorem setHeath_flips (s : State) (h : Nat) (x : Heath) : (setHeath s h x).flips = s.flips := rfl
@[simp] theorem setHeath_counters (s : State) (h : Nat) (x : Heath) : (setHeath s h x).counters = s.counters := rfl
@[simp] theorem setHeath_mask (s : State) (h : Nat) (x : Heath) : (setHeath s h x).mask = s.mask := rfl
@[simp] theorem setHeath_draining (s : State) (h : Nat) (x : Heath) : (setHeath s h x).draining = s.draining := rfl
@[simp] theorem setHeath_locks (s : State) (h : Nat) (x : Heath) : (setHeath s h x).locks = s.locks := rfl
@[simp] theorem setHeath_plots (s : State) (h : Nat) (x : Heath) : (setHeath s h x).plots = s.plots := rfl
@[simp] theorem setHeath_flash (s : State) (h : Nat) (x : Heath) : (setHeath s h x).flash = s.flash := rfl
@[simp] theorem setHeath_flashCmd (s : State) (h : Nat) (x : Heath) : (setHeath s h x).flashCmd = s.flashCmd := rfl
@[simp] theorem setHeath_flashSusp (s : State) (h : Nat) (x : Heath) : (setHeath s h x).flashSusp = s.flashSusp := rfl
@[simp] theorem setHeath_spoilt (s : State) (h : Nat) (x : Heath) : (setHeath s h x).spoilt = s.spoilt := rfl
@[simp] theorem setHeath_bankWr (s : State) (h : Nat) (x : Heath) : (setHeath s h x).bankWr = s.bankWr := rfl
@[simp] theorem setHeath_bankSt (s : State) (h : Nat) (x : Heath) : (setHeath s h x).bankSt = s.bankSt := rfl
@[simp] theorem setHeath_bankErr (s : State) (h : Nat) (x : Heath) : (setHeath s h x).bankErr = s.bankErr := rfl
@[simp] theorem setHeath_bankTgt (s : State) (h : Nat) (x : Heath) : (setHeath s h x).bankTgt = s.bankTgt := rfl
@[simp] theorem setHeath_log (s : State) (h : Nat) (x : Heath) : (setHeath s h x).log = s.log := rfl
@[simp] theorem setHeath_mgmt (s : State) (h : Nat) (x : Heath) : (setHeath s h x).mgmt = s.mgmt := rfl
@[simp] theorem setHeath_gen (s : State) (h : Nat) (x : Heath) : (setHeath s h x).gen = s.gen := rfl
@[simp] theorem setHeath_mbx (s : State) (h : Nat) (x : Heath) : (setHeath s h x).mbx = s.mbx := rfl
@[simp] theorem setHeath_det (s : State) (h : Nat) (x : Heath) : (setHeath s h x).det = s.det := rfl
@[simp] theorem setHeath_logWin (s : State) (h : Nat) (x : Heath) : (setHeath s h x).logWin = s.logWin := rfl
@[simp] theorem setHeath_tel (s : State) (h : Nat) (x : Heath) : (setHeath s h x).tel = s.tel := rfl
@[simp] theorem setHeath_tally (s : State) (h : Nat) (x : Heath) : (setHeath s h x).tally = s.tally := rfl

/-! ## drawn -/

@[simp] theorem drawn_pending (s : State) : (drawn s).pending = s.pending := rfl
@[simp] theorem drawn_out (s : State) : (drawn s).out = s.out := rfl
@[simp] theorem drawn_now (s : State) : (drawn s).now = s.now := rfl
@[simp] theorem drawn_boot (s : State) : (drawn s).boot = s.boot := rfl
@[simp] theorem drawn_fuses (s : State) : (drawn s).fuses = s.fuses := rfl
@[simp] theorem drawn_fuseOp (s : State) : (drawn s).fuseOp = s.fuseOp := rfl
@[simp] theorem drawn_fuseWait (s : State) : (drawn s).fuseWait = s.fuseWait := rfl
@[simp] theorem drawn_chal (s : State) : (drawn s).chal = s.chal := rfl
@[simp] theorem drawn_cfg (s : State) : (drawn s).cfg = s.cfg := rfl
@[simp] theorem drawn_view (s : State) : (drawn s).view = s.view := rfl
@[simp] theorem drawn_ports (s : State) : (drawn s).ports = s.ports := rfl
@[simp] theorem drawn_c0wait (s : State) : (drawn s).c0wait = s.c0wait := rfl
@[simp] theorem drawn_routeHold (s : State) : (drawn s).routeHold = s.routeHold := rfl
@[simp] theorem drawn_discards (s : State) : (drawn s).discards = s.discards := rfl
@[simp] theorem drawn_fbs (s : State) : (drawn s).fbs = s.fbs := rfl
@[simp] theorem drawn_poolUsed (s : State) : (drawn s).poolUsed = s.poolUsed := rfl
@[simp] theorem drawn_poolRes (s : State) : (drawn s).poolRes = s.poolRes := rfl
@[simp] theorem drawn_rotPtr (s : State) : (drawn s).rotPtr = s.rotPtr := rfl
@[simp] theorem drawn_weirs (s : State) : (drawn s).weirs = s.weirs := rfl
@[simp] theorem drawn_sluices (s : State) : (drawn s).sluices = s.sluices := rfl
@[simp] theorem drawn_outCtr (s : State) : (drawn s).outCtr = s.outCtr := rfl
@[simp] theorem drawn_inWin (s : State) : (drawn s).inWin = s.inWin := rfl
@[simp] theorem drawn_linkTags (s : State) : (drawn s).linkTags = s.linkTags := rfl
@[simp] theorem drawn_adms (s : State) : (drawn s).adms = s.adms := rfl
@[simp] theorem drawn_streams (s : State) : (drawn s).streams = s.streams := rfl
@[simp] theorem drawn_reqs (s : State) : (drawn s).reqs = s.reqs := rfl
@[simp] theorem drawn_buckets (s : State) : (drawn s).buckets = s.buckets := rfl
@[simp] theorem drawn_laneTurn (s : State) : (drawn s).laneTurn = s.laneTurn := rfl
@[simp] theorem drawn_tickAt (s : State) : (drawn s).tickAt = s.tickAt := rfl
@[simp] theorem drawn_passAt (s : State) : (drawn s).passAt = s.passAt := rfl
@[simp] theorem drawn_fen (s : State) : (drawn s).fen = s.fen := rfl
@[simp] theorem drawn_bankQ (s : State) : (drawn s).bankQ = s.bankQ := rfl
@[simp] theorem drawn_bankHeld (s : State) : (drawn s).bankHeld = s.bankHeld := rfl
@[simp] theorem drawn_bankDone (s : State) : (drawn s).bankDone = s.bankDone := rfl
@[simp] theorem drawn_suspect (s : State) : (drawn s).suspect = s.suspect := rfl
@[simp] theorem drawn_scrubPos (s : State) : (drawn s).scrubPos = s.scrubPos := rfl
@[simp] theorem drawn_scrubQ (s : State) : (drawn s).scrubQ = s.scrubQ := rfl
@[simp] theorem drawn_fenQ (s : State) : (drawn s).fenQ = s.fenQ := rfl
@[simp] theorem drawn_fenRes (s : State) : (drawn s).fenRes = s.fenRes := rfl
@[simp] theorem drawn_opLog (s : State) : (drawn s).opLog = s.opLog := rfl
@[simp] theorem drawn_objs (s : State) : (drawn s).objs = s.objs := rfl
@[simp] theorem drawn_tabA (s : State) : (drawn s).tabA = s.tabA := rfl
@[simp] theorem drawn_tabB (s : State) : (drawn s).tabB = s.tabB := rfl
@[simp] theorem drawn_actB (s : State) : (drawn s).actB = s.actB := rfl
@[simp] theorem drawn_setAct (s : State) : (drawn s).setAct = s.setAct := rfl
@[simp] theorem drawn_setEpoch (s : State) : (drawn s).setEpoch = s.setEpoch := rfl
@[simp] theorem drawn_load (s : State) : (drawn s).load = s.load := rfl
@[simp] theorem drawn_ests (s : State) : (drawn s).ests = s.ests := rfl
@[simp] theorem drawn_blocks (s : State) : (drawn s).blocks = s.blocks := rfl
@[simp] theorem drawn_slow (s : State) : (drawn s).slow = s.slow := rfl
@[simp] theorem drawn_far (s : State) : (drawn s).far = s.far := rfl
@[simp] theorem drawn_kv (s : State) : (drawn s).kv = s.kv := rfl
@[simp] theorem drawn_memTags (s : State) : (drawn s).memTags = s.memTags := rfl
@[simp] theorem drawn_conTags (s : State) : (drawn s).conTags = s.conTags := rfl
@[simp] theorem drawn_dmaQ (s : State) : (drawn s).dmaQ = s.dmaQ := rfl
@[simp] theorem drawn_dmaWait (s : State) : (drawn s).dmaWait = s.dmaWait := rfl
@[simp] theorem drawn_dmaTag (s : State) : (drawn s).dmaTag = s.dmaTag := rfl
@[simp] theorem drawn_memRest (s : State) : (drawn s).memRest = s.memRest := rfl
@[simp] theorem drawn_conRest (s : State) : (drawn s).conRest = s.conRest := rfl
@[simp] theorem drawn_flashAt (s : State) : (drawn s).flashAt = s.flashAt := rfl
@[simp] theorem drawn_opOrphans (s : State) : (drawn s).opOrphans = s.opOrphans := rfl
@[simp] theorem drawn_dmaDone (s : State) : (drawn s).dmaDone = s.dmaDone := rfl
@[simp] theorem drawn_progs (s : State) : (drawn s).progs = s.progs := rfl
@[simp] theorem drawn_progNo (s : State) : (drawn s).progNo = s.progNo := rfl
@[simp] theorem drawn_jobs (s : State) : (drawn s).jobs = s.jobs := rfl
@[simp] theorem drawn_disp (s : State) : (drawn s).disp = s.disp := rfl
@[simp] theorem drawn_sram (s : State) : (drawn s).sram = s.sram := rfl
@[simp] theorem drawn_flips (s : State) : (drawn s).flips = s.flips := rfl
@[simp] theorem drawn_counters (s : State) : (drawn s).counters = s.counters := rfl
@[simp] theorem drawn_mask (s : State) : (drawn s).mask = s.mask := rfl
@[simp] theorem drawn_draining (s : State) : (drawn s).draining = s.draining := rfl
@[simp] theorem drawn_locks (s : State) : (drawn s).locks = s.locks := rfl
@[simp] theorem drawn_plots (s : State) : (drawn s).plots = s.plots := rfl
@[simp] theorem drawn_hay (s : State) : (drawn s).hay = s.hay := rfl
@[simp] theorem drawn_flash (s : State) : (drawn s).flash = s.flash := rfl
@[simp] theorem drawn_flashCmd (s : State) : (drawn s).flashCmd = s.flashCmd := rfl
@[simp] theorem drawn_flashSusp (s : State) : (drawn s).flashSusp = s.flashSusp := rfl
@[simp] theorem drawn_spoilt (s : State) : (drawn s).spoilt = s.spoilt := rfl
@[simp] theorem drawn_bankWr (s : State) : (drawn s).bankWr = s.bankWr := rfl
@[simp] theorem drawn_bankSt (s : State) : (drawn s).bankSt = s.bankSt := rfl
@[simp] theorem drawn_bankErr (s : State) : (drawn s).bankErr = s.bankErr := rfl
@[simp] theorem drawn_bankTgt (s : State) : (drawn s).bankTgt = s.bankTgt := rfl
@[simp] theorem drawn_log (s : State) : (drawn s).log = s.log := rfl
@[simp] theorem drawn_mgmt (s : State) : (drawn s).mgmt = s.mgmt := rfl
@[simp] theorem drawn_gen (s : State) : (drawn s).gen = s.gen := rfl
@[simp] theorem drawn_mbx (s : State) : (drawn s).mbx = s.mbx := rfl
@[simp] theorem drawn_det (s : State) : (drawn s).det = s.det := rfl
@[simp] theorem drawn_logWin (s : State) : (drawn s).logWin = s.logWin := rfl
@[simp] theorem drawn_tel (s : State) : (drawn s).tel = s.tel := rfl
@[simp] theorem drawn_tally (s : State) : (drawn s).tally = s.tally := rfl

/-! ## telAdd -/

@[simp] theorem telAdd_pending (s : State) (o n : Nat) : (telAdd s o n).pending = s.pending := rfl
@[simp] theorem telAdd_out (s : State) (o n : Nat) : (telAdd s o n).out = s.out := rfl
@[simp] theorem telAdd_free (s : State) (o n : Nat) : (telAdd s o n).free = s.free := rfl
@[simp] theorem telAdd_now (s : State) (o n : Nat) : (telAdd s o n).now = s.now := rfl
@[simp] theorem telAdd_boot (s : State) (o n : Nat) : (telAdd s o n).boot = s.boot := rfl
@[simp] theorem telAdd_fuses (s : State) (o n : Nat) : (telAdd s o n).fuses = s.fuses := rfl
@[simp] theorem telAdd_fuseOp (s : State) (o n : Nat) : (telAdd s o n).fuseOp = s.fuseOp := rfl
@[simp] theorem telAdd_fuseWait (s : State) (o n : Nat) : (telAdd s o n).fuseWait = s.fuseWait := rfl
@[simp] theorem telAdd_chal (s : State) (o n : Nat) : (telAdd s o n).chal = s.chal := rfl
@[simp] theorem telAdd_cfg (s : State) (o n : Nat) : (telAdd s o n).cfg = s.cfg := rfl
@[simp] theorem telAdd_view (s : State) (o n : Nat) : (telAdd s o n).view = s.view := rfl
@[simp] theorem telAdd_ports (s : State) (o n : Nat) : (telAdd s o n).ports = s.ports := rfl
@[simp] theorem telAdd_c0wait (s : State) (o n : Nat) : (telAdd s o n).c0wait = s.c0wait := rfl
@[simp] theorem telAdd_routeHold (s : State) (o n : Nat) : (telAdd s o n).routeHold = s.routeHold := rfl
@[simp] theorem telAdd_discards (s : State) (o n : Nat) : (telAdd s o n).discards = s.discards := rfl
@[simp] theorem telAdd_fbs (s : State) (o n : Nat) : (telAdd s o n).fbs = s.fbs := rfl
@[simp] theorem telAdd_poolUsed (s : State) (o n : Nat) : (telAdd s o n).poolUsed = s.poolUsed := rfl
@[simp] theorem telAdd_poolRes (s : State) (o n : Nat) : (telAdd s o n).poolRes = s.poolRes := rfl
@[simp] theorem telAdd_rotPtr (s : State) (o n : Nat) : (telAdd s o n).rotPtr = s.rotPtr := rfl
@[simp] theorem telAdd_weirs (s : State) (o n : Nat) : (telAdd s o n).weirs = s.weirs := rfl
@[simp] theorem telAdd_sluices (s : State) (o n : Nat) : (telAdd s o n).sluices = s.sluices := rfl
@[simp] theorem telAdd_outCtr (s : State) (o n : Nat) : (telAdd s o n).outCtr = s.outCtr := rfl
@[simp] theorem telAdd_inWin (s : State) (o n : Nat) : (telAdd s o n).inWin = s.inWin := rfl
@[simp] theorem telAdd_linkTags (s : State) (o n : Nat) : (telAdd s o n).linkTags = s.linkTags := rfl
@[simp] theorem telAdd_adms (s : State) (o n : Nat) : (telAdd s o n).adms = s.adms := rfl
@[simp] theorem telAdd_streams (s : State) (o n : Nat) : (telAdd s o n).streams = s.streams := rfl
@[simp] theorem telAdd_reqs (s : State) (o n : Nat) : (telAdd s o n).reqs = s.reqs := rfl
@[simp] theorem telAdd_buckets (s : State) (o n : Nat) : (telAdd s o n).buckets = s.buckets := rfl
@[simp] theorem telAdd_laneTurn (s : State) (o n : Nat) : (telAdd s o n).laneTurn = s.laneTurn := rfl
@[simp] theorem telAdd_tickAt (s : State) (o n : Nat) : (telAdd s o n).tickAt = s.tickAt := rfl
@[simp] theorem telAdd_passAt (s : State) (o n : Nat) : (telAdd s o n).passAt = s.passAt := rfl
@[simp] theorem telAdd_fen (s : State) (o n : Nat) : (telAdd s o n).fen = s.fen := rfl
@[simp] theorem telAdd_bankQ (s : State) (o n : Nat) : (telAdd s o n).bankQ = s.bankQ := rfl
@[simp] theorem telAdd_bankHeld (s : State) (o n : Nat) : (telAdd s o n).bankHeld = s.bankHeld := rfl
@[simp] theorem telAdd_bankDone (s : State) (o n : Nat) : (telAdd s o n).bankDone = s.bankDone := rfl
@[simp] theorem telAdd_suspect (s : State) (o n : Nat) : (telAdd s o n).suspect = s.suspect := rfl
@[simp] theorem telAdd_scrubPos (s : State) (o n : Nat) : (telAdd s o n).scrubPos = s.scrubPos := rfl
@[simp] theorem telAdd_scrubQ (s : State) (o n : Nat) : (telAdd s o n).scrubQ = s.scrubQ := rfl
@[simp] theorem telAdd_fenQ (s : State) (o n : Nat) : (telAdd s o n).fenQ = s.fenQ := rfl
@[simp] theorem telAdd_fenRes (s : State) (o n : Nat) : (telAdd s o n).fenRes = s.fenRes := rfl
@[simp] theorem telAdd_opLog (s : State) (o n : Nat) : (telAdd s o n).opLog = s.opLog := rfl
@[simp] theorem telAdd_objs (s : State) (o n : Nat) : (telAdd s o n).objs = s.objs := rfl
@[simp] theorem telAdd_tabA (s : State) (o n : Nat) : (telAdd s o n).tabA = s.tabA := rfl
@[simp] theorem telAdd_tabB (s : State) (o n : Nat) : (telAdd s o n).tabB = s.tabB := rfl
@[simp] theorem telAdd_actB (s : State) (o n : Nat) : (telAdd s o n).actB = s.actB := rfl
@[simp] theorem telAdd_setAct (s : State) (o n : Nat) : (telAdd s o n).setAct = s.setAct := rfl
@[simp] theorem telAdd_setEpoch (s : State) (o n : Nat) : (telAdd s o n).setEpoch = s.setEpoch := rfl
@[simp] theorem telAdd_load (s : State) (o n : Nat) : (telAdd s o n).load = s.load := rfl
@[simp] theorem telAdd_ests (s : State) (o n : Nat) : (telAdd s o n).ests = s.ests := rfl
@[simp] theorem telAdd_blocks (s : State) (o n : Nat) : (telAdd s o n).blocks = s.blocks := rfl
@[simp] theorem telAdd_slow (s : State) (o n : Nat) : (telAdd s o n).slow = s.slow := rfl
@[simp] theorem telAdd_far (s : State) (o n : Nat) : (telAdd s o n).far = s.far := rfl
@[simp] theorem telAdd_kv (s : State) (o n : Nat) : (telAdd s o n).kv = s.kv := rfl
@[simp] theorem telAdd_memTags (s : State) (o n : Nat) : (telAdd s o n).memTags = s.memTags := rfl
@[simp] theorem telAdd_conTags (s : State) (o n : Nat) : (telAdd s o n).conTags = s.conTags := rfl
@[simp] theorem telAdd_dmaQ (s : State) (o n : Nat) : (telAdd s o n).dmaQ = s.dmaQ := rfl
@[simp] theorem telAdd_dmaWait (s : State) (o n : Nat) : (telAdd s o n).dmaWait = s.dmaWait := rfl
@[simp] theorem telAdd_dmaTag (s : State) (o n : Nat) : (telAdd s o n).dmaTag = s.dmaTag := rfl
@[simp] theorem telAdd_memRest (s : State) (o n : Nat) : (telAdd s o n).memRest = s.memRest := rfl
@[simp] theorem telAdd_conRest (s : State) (o n : Nat) : (telAdd s o n).conRest = s.conRest := rfl
@[simp] theorem telAdd_flashAt (s : State) (o n : Nat) : (telAdd s o n).flashAt = s.flashAt := rfl
@[simp] theorem telAdd_opOrphans (s : State) (o n : Nat) : (telAdd s o n).opOrphans = s.opOrphans := rfl
@[simp] theorem telAdd_dmaDone (s : State) (o n : Nat) : (telAdd s o n).dmaDone = s.dmaDone := rfl
@[simp] theorem telAdd_progs (s : State) (o n : Nat) : (telAdd s o n).progs = s.progs := rfl
@[simp] theorem telAdd_progNo (s : State) (o n : Nat) : (telAdd s o n).progNo = s.progNo := rfl
@[simp] theorem telAdd_jobs (s : State) (o n : Nat) : (telAdd s o n).jobs = s.jobs := rfl
@[simp] theorem telAdd_disp (s : State) (o n : Nat) : (telAdd s o n).disp = s.disp := rfl
@[simp] theorem telAdd_sram (s : State) (o n : Nat) : (telAdd s o n).sram = s.sram := rfl
@[simp] theorem telAdd_flips (s : State) (o n : Nat) : (telAdd s o n).flips = s.flips := rfl
@[simp] theorem telAdd_counters (s : State) (o n : Nat) : (telAdd s o n).counters = s.counters := rfl
@[simp] theorem telAdd_mask (s : State) (o n : Nat) : (telAdd s o n).mask = s.mask := rfl
@[simp] theorem telAdd_draining (s : State) (o n : Nat) : (telAdd s o n).draining = s.draining := rfl
@[simp] theorem telAdd_locks (s : State) (o n : Nat) : (telAdd s o n).locks = s.locks := rfl
@[simp] theorem telAdd_plots (s : State) (o n : Nat) : (telAdd s o n).plots = s.plots := rfl
@[simp] theorem telAdd_hay (s : State) (o n : Nat) : (telAdd s o n).hay = s.hay := rfl
@[simp] theorem telAdd_flash (s : State) (o n : Nat) : (telAdd s o n).flash = s.flash := rfl
@[simp] theorem telAdd_flashCmd (s : State) (o n : Nat) : (telAdd s o n).flashCmd = s.flashCmd := rfl
@[simp] theorem telAdd_flashSusp (s : State) (o n : Nat) : (telAdd s o n).flashSusp = s.flashSusp := rfl
@[simp] theorem telAdd_spoilt (s : State) (o n : Nat) : (telAdd s o n).spoilt = s.spoilt := rfl
@[simp] theorem telAdd_bankWr (s : State) (o n : Nat) : (telAdd s o n).bankWr = s.bankWr := rfl
@[simp] theorem telAdd_bankSt (s : State) (o n : Nat) : (telAdd s o n).bankSt = s.bankSt := rfl
@[simp] theorem telAdd_bankErr (s : State) (o n : Nat) : (telAdd s o n).bankErr = s.bankErr := rfl
@[simp] theorem telAdd_bankTgt (s : State) (o n : Nat) : (telAdd s o n).bankTgt = s.bankTgt := rfl
@[simp] theorem telAdd_log (s : State) (o n : Nat) : (telAdd s o n).log = s.log := rfl
@[simp] theorem telAdd_mgmt (s : State) (o n : Nat) : (telAdd s o n).mgmt = s.mgmt := rfl
@[simp] theorem telAdd_gen (s : State) (o n : Nat) : (telAdd s o n).gen = s.gen := rfl
@[simp] theorem telAdd_mbx (s : State) (o n : Nat) : (telAdd s o n).mbx = s.mbx := rfl
@[simp] theorem telAdd_det (s : State) (o n : Nat) : (telAdd s o n).det = s.det := rfl
@[simp] theorem telAdd_logWin (s : State) (o n : Nat) : (telAdd s o n).logWin = s.logWin := rfl
@[simp] theorem telAdd_tally (s : State) (o n : Nat) : (telAdd s o n).tally = s.tally := rfl

/-! ## telInc -/

@[simp] theorem telInc_pending (s : State) (o : Nat) : (telInc s o).pending = s.pending := rfl
@[simp] theorem telInc_out (s : State) (o : Nat) : (telInc s o).out = s.out := rfl
@[simp] theorem telInc_free (s : State) (o : Nat) : (telInc s o).free = s.free := rfl
@[simp] theorem telInc_now (s : State) (o : Nat) : (telInc s o).now = s.now := rfl
@[simp] theorem telInc_boot (s : State) (o : Nat) : (telInc s o).boot = s.boot := rfl
@[simp] theorem telInc_fuses (s : State) (o : Nat) : (telInc s o).fuses = s.fuses := rfl
@[simp] theorem telInc_fuseOp (s : State) (o : Nat) : (telInc s o).fuseOp = s.fuseOp := rfl
@[simp] theorem telInc_fuseWait (s : State) (o : Nat) : (telInc s o).fuseWait = s.fuseWait := rfl
@[simp] theorem telInc_chal (s : State) (o : Nat) : (telInc s o).chal = s.chal := rfl
@[simp] theorem telInc_cfg (s : State) (o : Nat) : (telInc s o).cfg = s.cfg := rfl
@[simp] theorem telInc_view (s : State) (o : Nat) : (telInc s o).view = s.view := rfl
@[simp] theorem telInc_ports (s : State) (o : Nat) : (telInc s o).ports = s.ports := rfl
@[simp] theorem telInc_c0wait (s : State) (o : Nat) : (telInc s o).c0wait = s.c0wait := rfl
@[simp] theorem telInc_routeHold (s : State) (o : Nat) : (telInc s o).routeHold = s.routeHold := rfl
@[simp] theorem telInc_discards (s : State) (o : Nat) : (telInc s o).discards = s.discards := rfl
@[simp] theorem telInc_fbs (s : State) (o : Nat) : (telInc s o).fbs = s.fbs := rfl
@[simp] theorem telInc_poolUsed (s : State) (o : Nat) : (telInc s o).poolUsed = s.poolUsed := rfl
@[simp] theorem telInc_poolRes (s : State) (o : Nat) : (telInc s o).poolRes = s.poolRes := rfl
@[simp] theorem telInc_rotPtr (s : State) (o : Nat) : (telInc s o).rotPtr = s.rotPtr := rfl
@[simp] theorem telInc_weirs (s : State) (o : Nat) : (telInc s o).weirs = s.weirs := rfl
@[simp] theorem telInc_sluices (s : State) (o : Nat) : (telInc s o).sluices = s.sluices := rfl
@[simp] theorem telInc_outCtr (s : State) (o : Nat) : (telInc s o).outCtr = s.outCtr := rfl
@[simp] theorem telInc_inWin (s : State) (o : Nat) : (telInc s o).inWin = s.inWin := rfl
@[simp] theorem telInc_linkTags (s : State) (o : Nat) : (telInc s o).linkTags = s.linkTags := rfl
@[simp] theorem telInc_adms (s : State) (o : Nat) : (telInc s o).adms = s.adms := rfl
@[simp] theorem telInc_streams (s : State) (o : Nat) : (telInc s o).streams = s.streams := rfl
@[simp] theorem telInc_reqs (s : State) (o : Nat) : (telInc s o).reqs = s.reqs := rfl
@[simp] theorem telInc_buckets (s : State) (o : Nat) : (telInc s o).buckets = s.buckets := rfl
@[simp] theorem telInc_laneTurn (s : State) (o : Nat) : (telInc s o).laneTurn = s.laneTurn := rfl
@[simp] theorem telInc_tickAt (s : State) (o : Nat) : (telInc s o).tickAt = s.tickAt := rfl
@[simp] theorem telInc_passAt (s : State) (o : Nat) : (telInc s o).passAt = s.passAt := rfl
@[simp] theorem telInc_fen (s : State) (o : Nat) : (telInc s o).fen = s.fen := rfl
@[simp] theorem telInc_bankQ (s : State) (o : Nat) : (telInc s o).bankQ = s.bankQ := rfl
@[simp] theorem telInc_bankHeld (s : State) (o : Nat) : (telInc s o).bankHeld = s.bankHeld := rfl
@[simp] theorem telInc_bankDone (s : State) (o : Nat) : (telInc s o).bankDone = s.bankDone := rfl
@[simp] theorem telInc_suspect (s : State) (o : Nat) : (telInc s o).suspect = s.suspect := rfl
@[simp] theorem telInc_scrubPos (s : State) (o : Nat) : (telInc s o).scrubPos = s.scrubPos := rfl
@[simp] theorem telInc_scrubQ (s : State) (o : Nat) : (telInc s o).scrubQ = s.scrubQ := rfl
@[simp] theorem telInc_fenQ (s : State) (o : Nat) : (telInc s o).fenQ = s.fenQ := rfl
@[simp] theorem telInc_fenRes (s : State) (o : Nat) : (telInc s o).fenRes = s.fenRes := rfl
@[simp] theorem telInc_opLog (s : State) (o : Nat) : (telInc s o).opLog = s.opLog := rfl
@[simp] theorem telInc_objs (s : State) (o : Nat) : (telInc s o).objs = s.objs := rfl
@[simp] theorem telInc_tabA (s : State) (o : Nat) : (telInc s o).tabA = s.tabA := rfl
@[simp] theorem telInc_tabB (s : State) (o : Nat) : (telInc s o).tabB = s.tabB := rfl
@[simp] theorem telInc_actB (s : State) (o : Nat) : (telInc s o).actB = s.actB := rfl
@[simp] theorem telInc_setAct (s : State) (o : Nat) : (telInc s o).setAct = s.setAct := rfl
@[simp] theorem telInc_setEpoch (s : State) (o : Nat) : (telInc s o).setEpoch = s.setEpoch := rfl
@[simp] theorem telInc_load (s : State) (o : Nat) : (telInc s o).load = s.load := rfl
@[simp] theorem telInc_ests (s : State) (o : Nat) : (telInc s o).ests = s.ests := rfl
@[simp] theorem telInc_blocks (s : State) (o : Nat) : (telInc s o).blocks = s.blocks := rfl
@[simp] theorem telInc_slow (s : State) (o : Nat) : (telInc s o).slow = s.slow := rfl
@[simp] theorem telInc_far (s : State) (o : Nat) : (telInc s o).far = s.far := rfl
@[simp] theorem telInc_kv (s : State) (o : Nat) : (telInc s o).kv = s.kv := rfl
@[simp] theorem telInc_memTags (s : State) (o : Nat) : (telInc s o).memTags = s.memTags := rfl
@[simp] theorem telInc_conTags (s : State) (o : Nat) : (telInc s o).conTags = s.conTags := rfl
@[simp] theorem telInc_dmaQ (s : State) (o : Nat) : (telInc s o).dmaQ = s.dmaQ := rfl
@[simp] theorem telInc_dmaWait (s : State) (o : Nat) : (telInc s o).dmaWait = s.dmaWait := rfl
@[simp] theorem telInc_dmaTag (s : State) (o : Nat) : (telInc s o).dmaTag = s.dmaTag := rfl
@[simp] theorem telInc_memRest (s : State) (o : Nat) : (telInc s o).memRest = s.memRest := rfl
@[simp] theorem telInc_conRest (s : State) (o : Nat) : (telInc s o).conRest = s.conRest := rfl
@[simp] theorem telInc_flashAt (s : State) (o : Nat) : (telInc s o).flashAt = s.flashAt := rfl
@[simp] theorem telInc_opOrphans (s : State) (o : Nat) : (telInc s o).opOrphans = s.opOrphans := rfl
@[simp] theorem telInc_dmaDone (s : State) (o : Nat) : (telInc s o).dmaDone = s.dmaDone := rfl
@[simp] theorem telInc_progs (s : State) (o : Nat) : (telInc s o).progs = s.progs := rfl
@[simp] theorem telInc_progNo (s : State) (o : Nat) : (telInc s o).progNo = s.progNo := rfl
@[simp] theorem telInc_jobs (s : State) (o : Nat) : (telInc s o).jobs = s.jobs := rfl
@[simp] theorem telInc_disp (s : State) (o : Nat) : (telInc s o).disp = s.disp := rfl
@[simp] theorem telInc_sram (s : State) (o : Nat) : (telInc s o).sram = s.sram := rfl
@[simp] theorem telInc_flips (s : State) (o : Nat) : (telInc s o).flips = s.flips := rfl
@[simp] theorem telInc_counters (s : State) (o : Nat) : (telInc s o).counters = s.counters := rfl
@[simp] theorem telInc_mask (s : State) (o : Nat) : (telInc s o).mask = s.mask := rfl
@[simp] theorem telInc_draining (s : State) (o : Nat) : (telInc s o).draining = s.draining := rfl
@[simp] theorem telInc_locks (s : State) (o : Nat) : (telInc s o).locks = s.locks := rfl
@[simp] theorem telInc_plots (s : State) (o : Nat) : (telInc s o).plots = s.plots := rfl
@[simp] theorem telInc_hay (s : State) (o : Nat) : (telInc s o).hay = s.hay := rfl
@[simp] theorem telInc_flash (s : State) (o : Nat) : (telInc s o).flash = s.flash := rfl
@[simp] theorem telInc_flashCmd (s : State) (o : Nat) : (telInc s o).flashCmd = s.flashCmd := rfl
@[simp] theorem telInc_flashSusp (s : State) (o : Nat) : (telInc s o).flashSusp = s.flashSusp := rfl
@[simp] theorem telInc_spoilt (s : State) (o : Nat) : (telInc s o).spoilt = s.spoilt := rfl
@[simp] theorem telInc_bankWr (s : State) (o : Nat) : (telInc s o).bankWr = s.bankWr := rfl
@[simp] theorem telInc_bankSt (s : State) (o : Nat) : (telInc s o).bankSt = s.bankSt := rfl
@[simp] theorem telInc_bankErr (s : State) (o : Nat) : (telInc s o).bankErr = s.bankErr := rfl
@[simp] theorem telInc_bankTgt (s : State) (o : Nat) : (telInc s o).bankTgt = s.bankTgt := rfl
@[simp] theorem telInc_log (s : State) (o : Nat) : (telInc s o).log = s.log := rfl
@[simp] theorem telInc_mgmt (s : State) (o : Nat) : (telInc s o).mgmt = s.mgmt := rfl
@[simp] theorem telInc_gen (s : State) (o : Nat) : (telInc s o).gen = s.gen := rfl
@[simp] theorem telInc_mbx (s : State) (o : Nat) : (telInc s o).mbx = s.mbx := rfl
@[simp] theorem telInc_det (s : State) (o : Nat) : (telInc s o).det = s.det := rfl
@[simp] theorem telInc_logWin (s : State) (o : Nat) : (telInc s o).logWin = s.logWin := rfl
@[simp] theorem telInc_tally (s : State) (o : Nat) : (telInc s o).tally = s.tally := rfl

/-! ## raise -/

@[simp] theorem raise_pending (s : State) (b : BitVec 4) : (raise s b).pending = s.pending := rfl
@[simp] theorem raise_out (s : State) (b : BitVec 4) : (raise s b).out = s.out := rfl
@[simp] theorem raise_free (s : State) (b : BitVec 4) : (raise s b).free = s.free := rfl
@[simp] theorem raise_now (s : State) (b : BitVec 4) : (raise s b).now = s.now := rfl
@[simp] theorem raise_boot (s : State) (b : BitVec 4) : (raise s b).boot = s.boot := rfl
@[simp] theorem raise_fuses (s : State) (b : BitVec 4) : (raise s b).fuses = s.fuses := rfl
@[simp] theorem raise_fuseOp (s : State) (b : BitVec 4) : (raise s b).fuseOp = s.fuseOp := rfl
@[simp] theorem raise_fuseWait (s : State) (b : BitVec 4) : (raise s b).fuseWait = s.fuseWait := rfl
@[simp] theorem raise_chal (s : State) (b : BitVec 4) : (raise s b).chal = s.chal := rfl
@[simp] theorem raise_cfg (s : State) (b : BitVec 4) : (raise s b).cfg = s.cfg := rfl
@[simp] theorem raise_view (s : State) (b : BitVec 4) : (raise s b).view = s.view := rfl
@[simp] theorem raise_ports (s : State) (b : BitVec 4) : (raise s b).ports = s.ports := rfl
@[simp] theorem raise_c0wait (s : State) (b : BitVec 4) : (raise s b).c0wait = s.c0wait := rfl
@[simp] theorem raise_routeHold (s : State) (b : BitVec 4) : (raise s b).routeHold = s.routeHold := rfl
@[simp] theorem raise_discards (s : State) (b : BitVec 4) : (raise s b).discards = s.discards := rfl
@[simp] theorem raise_fbs (s : State) (b : BitVec 4) : (raise s b).fbs = s.fbs := rfl
@[simp] theorem raise_poolUsed (s : State) (b : BitVec 4) : (raise s b).poolUsed = s.poolUsed := rfl
@[simp] theorem raise_poolRes (s : State) (b : BitVec 4) : (raise s b).poolRes = s.poolRes := rfl
@[simp] theorem raise_rotPtr (s : State) (b : BitVec 4) : (raise s b).rotPtr = s.rotPtr := rfl
@[simp] theorem raise_weirs (s : State) (b : BitVec 4) : (raise s b).weirs = s.weirs := rfl
@[simp] theorem raise_sluices (s : State) (b : BitVec 4) : (raise s b).sluices = s.sluices := rfl
@[simp] theorem raise_outCtr (s : State) (b : BitVec 4) : (raise s b).outCtr = s.outCtr := rfl
@[simp] theorem raise_inWin (s : State) (b : BitVec 4) : (raise s b).inWin = s.inWin := rfl
@[simp] theorem raise_linkTags (s : State) (b : BitVec 4) : (raise s b).linkTags = s.linkTags := rfl
@[simp] theorem raise_adms (s : State) (b : BitVec 4) : (raise s b).adms = s.adms := rfl
@[simp] theorem raise_streams (s : State) (b : BitVec 4) : (raise s b).streams = s.streams := rfl
@[simp] theorem raise_reqs (s : State) (b : BitVec 4) : (raise s b).reqs = s.reqs := rfl
@[simp] theorem raise_buckets (s : State) (b : BitVec 4) : (raise s b).buckets = s.buckets := rfl
@[simp] theorem raise_laneTurn (s : State) (b : BitVec 4) : (raise s b).laneTurn = s.laneTurn := rfl
@[simp] theorem raise_tickAt (s : State) (b : BitVec 4) : (raise s b).tickAt = s.tickAt := rfl
@[simp] theorem raise_passAt (s : State) (b : BitVec 4) : (raise s b).passAt = s.passAt := rfl
@[simp] theorem raise_fen (s : State) (b : BitVec 4) : (raise s b).fen = s.fen := rfl
@[simp] theorem raise_bankQ (s : State) (b : BitVec 4) : (raise s b).bankQ = s.bankQ := rfl
@[simp] theorem raise_bankHeld (s : State) (b : BitVec 4) : (raise s b).bankHeld = s.bankHeld := rfl
@[simp] theorem raise_bankDone (s : State) (b : BitVec 4) : (raise s b).bankDone = s.bankDone := rfl
@[simp] theorem raise_suspect (s : State) (b : BitVec 4) : (raise s b).suspect = s.suspect := rfl
@[simp] theorem raise_scrubPos (s : State) (b : BitVec 4) : (raise s b).scrubPos = s.scrubPos := rfl
@[simp] theorem raise_scrubQ (s : State) (b : BitVec 4) : (raise s b).scrubQ = s.scrubQ := rfl
@[simp] theorem raise_fenQ (s : State) (b : BitVec 4) : (raise s b).fenQ = s.fenQ := rfl
@[simp] theorem raise_fenRes (s : State) (b : BitVec 4) : (raise s b).fenRes = s.fenRes := rfl
@[simp] theorem raise_opLog (s : State) (b : BitVec 4) : (raise s b).opLog = s.opLog := rfl
@[simp] theorem raise_objs (s : State) (b : BitVec 4) : (raise s b).objs = s.objs := rfl
@[simp] theorem raise_tabA (s : State) (b : BitVec 4) : (raise s b).tabA = s.tabA := rfl
@[simp] theorem raise_tabB (s : State) (b : BitVec 4) : (raise s b).tabB = s.tabB := rfl
@[simp] theorem raise_actB (s : State) (b : BitVec 4) : (raise s b).actB = s.actB := rfl
@[simp] theorem raise_setAct (s : State) (b : BitVec 4) : (raise s b).setAct = s.setAct := rfl
@[simp] theorem raise_setEpoch (s : State) (b : BitVec 4) : (raise s b).setEpoch = s.setEpoch := rfl
@[simp] theorem raise_load (s : State) (b : BitVec 4) : (raise s b).load = s.load := rfl
@[simp] theorem raise_ests (s : State) (b : BitVec 4) : (raise s b).ests = s.ests := rfl
@[simp] theorem raise_blocks (s : State) (b : BitVec 4) : (raise s b).blocks = s.blocks := rfl
@[simp] theorem raise_slow (s : State) (b : BitVec 4) : (raise s b).slow = s.slow := rfl
@[simp] theorem raise_far (s : State) (b : BitVec 4) : (raise s b).far = s.far := rfl
@[simp] theorem raise_kv (s : State) (b : BitVec 4) : (raise s b).kv = s.kv := rfl
@[simp] theorem raise_memTags (s : State) (b : BitVec 4) : (raise s b).memTags = s.memTags := rfl
@[simp] theorem raise_conTags (s : State) (b : BitVec 4) : (raise s b).conTags = s.conTags := rfl
@[simp] theorem raise_dmaQ (s : State) (b : BitVec 4) : (raise s b).dmaQ = s.dmaQ := rfl
@[simp] theorem raise_dmaWait (s : State) (b : BitVec 4) : (raise s b).dmaWait = s.dmaWait := rfl
@[simp] theorem raise_dmaTag (s : State) (b : BitVec 4) : (raise s b).dmaTag = s.dmaTag := rfl
@[simp] theorem raise_memRest (s : State) (b : BitVec 4) : (raise s b).memRest = s.memRest := rfl
@[simp] theorem raise_conRest (s : State) (b : BitVec 4) : (raise s b).conRest = s.conRest := rfl
@[simp] theorem raise_flashAt (s : State) (b : BitVec 4) : (raise s b).flashAt = s.flashAt := rfl
@[simp] theorem raise_opOrphans (s : State) (b : BitVec 4) : (raise s b).opOrphans = s.opOrphans := rfl
@[simp] theorem raise_dmaDone (s : State) (b : BitVec 4) : (raise s b).dmaDone = s.dmaDone := rfl
@[simp] theorem raise_progs (s : State) (b : BitVec 4) : (raise s b).progs = s.progs := rfl
@[simp] theorem raise_progNo (s : State) (b : BitVec 4) : (raise s b).progNo = s.progNo := rfl
@[simp] theorem raise_jobs (s : State) (b : BitVec 4) : (raise s b).jobs = s.jobs := rfl
@[simp] theorem raise_disp (s : State) (b : BitVec 4) : (raise s b).disp = s.disp := rfl
@[simp] theorem raise_sram (s : State) (b : BitVec 4) : (raise s b).sram = s.sram := rfl
@[simp] theorem raise_flips (s : State) (b : BitVec 4) : (raise s b).flips = s.flips := rfl
@[simp] theorem raise_counters (s : State) (b : BitVec 4) : (raise s b).counters = s.counters := rfl
@[simp] theorem raise_mask (s : State) (b : BitVec 4) : (raise s b).mask = s.mask := rfl
@[simp] theorem raise_draining (s : State) (b : BitVec 4) : (raise s b).draining = s.draining := rfl
@[simp] theorem raise_locks (s : State) (b : BitVec 4) : (raise s b).locks = s.locks := rfl
@[simp] theorem raise_plots (s : State) (b : BitVec 4) : (raise s b).plots = s.plots := rfl
@[simp] theorem raise_hay (s : State) (b : BitVec 4) : (raise s b).hay = s.hay := rfl
@[simp] theorem raise_flash (s : State) (b : BitVec 4) : (raise s b).flash = s.flash := rfl
@[simp] theorem raise_flashCmd (s : State) (b : BitVec 4) : (raise s b).flashCmd = s.flashCmd := rfl
@[simp] theorem raise_flashSusp (s : State) (b : BitVec 4) : (raise s b).flashSusp = s.flashSusp := rfl
@[simp] theorem raise_spoilt (s : State) (b : BitVec 4) : (raise s b).spoilt = s.spoilt := rfl
@[simp] theorem raise_bankWr (s : State) (b : BitVec 4) : (raise s b).bankWr = s.bankWr := rfl
@[simp] theorem raise_bankSt (s : State) (b : BitVec 4) : (raise s b).bankSt = s.bankSt := rfl
@[simp] theorem raise_bankErr (s : State) (b : BitVec 4) : (raise s b).bankErr = s.bankErr := rfl
@[simp] theorem raise_bankTgt (s : State) (b : BitVec 4) : (raise s b).bankTgt = s.bankTgt := rfl
@[simp] theorem raise_log (s : State) (b : BitVec 4) : (raise s b).log = s.log := rfl
@[simp] theorem raise_mgmt (s : State) (b : BitVec 4) : (raise s b).mgmt = s.mgmt := rfl
@[simp] theorem raise_mbx (s : State) (b : BitVec 4) : (raise s b).mbx = s.mbx := rfl
@[simp] theorem raise_det (s : State) (b : BitVec 4) : (raise s b).det = s.det := rfl
@[simp] theorem raise_logWin (s : State) (b : BitVec 4) : (raise s b).logWin = s.logWin := rfl
@[simp] theorem raise_tel (s : State) (b : BitVec 4) : (raise s b).tel = s.tel := rfl
@[simp] theorem raise_tally (s : State) (b : BitVec 4) : (raise s b).tally = s.tally := rfl

/-! ## emit -/

@[simp] theorem emit_pending (s : State) (o : Output) : (emit s o).pending = s.pending := rfl
@[simp] theorem emit_free (s : State) (o : Output) : (emit s o).free = s.free := rfl
@[simp] theorem emit_now (s : State) (o : Output) : (emit s o).now = s.now := rfl
@[simp] theorem emit_boot (s : State) (o : Output) : (emit s o).boot = s.boot := rfl
@[simp] theorem emit_fuses (s : State) (o : Output) : (emit s o).fuses = s.fuses := rfl
@[simp] theorem emit_fuseOp (s : State) (o : Output) : (emit s o).fuseOp = s.fuseOp := rfl
@[simp] theorem emit_fuseWait (s : State) (o : Output) : (emit s o).fuseWait = s.fuseWait := rfl
@[simp] theorem emit_chal (s : State) (o : Output) : (emit s o).chal = s.chal := rfl
@[simp] theorem emit_cfg (s : State) (o : Output) : (emit s o).cfg = s.cfg := rfl
@[simp] theorem emit_view (s : State) (o : Output) : (emit s o).view = s.view := rfl
@[simp] theorem emit_ports (s : State) (o : Output) : (emit s o).ports = s.ports := rfl
@[simp] theorem emit_c0wait (s : State) (o : Output) : (emit s o).c0wait = s.c0wait := rfl
@[simp] theorem emit_routeHold (s : State) (o : Output) : (emit s o).routeHold = s.routeHold := rfl
@[simp] theorem emit_discards (s : State) (o : Output) : (emit s o).discards = s.discards := rfl
@[simp] theorem emit_fbs (s : State) (o : Output) : (emit s o).fbs = s.fbs := rfl
@[simp] theorem emit_poolUsed (s : State) (o : Output) : (emit s o).poolUsed = s.poolUsed := rfl
@[simp] theorem emit_poolRes (s : State) (o : Output) : (emit s o).poolRes = s.poolRes := rfl
@[simp] theorem emit_rotPtr (s : State) (o : Output) : (emit s o).rotPtr = s.rotPtr := rfl
@[simp] theorem emit_weirs (s : State) (o : Output) : (emit s o).weirs = s.weirs := rfl
@[simp] theorem emit_sluices (s : State) (o : Output) : (emit s o).sluices = s.sluices := rfl
@[simp] theorem emit_outCtr (s : State) (o : Output) : (emit s o).outCtr = s.outCtr := rfl
@[simp] theorem emit_inWin (s : State) (o : Output) : (emit s o).inWin = s.inWin := rfl
@[simp] theorem emit_linkTags (s : State) (o : Output) : (emit s o).linkTags = s.linkTags := rfl
@[simp] theorem emit_adms (s : State) (o : Output) : (emit s o).adms = s.adms := rfl
@[simp] theorem emit_streams (s : State) (o : Output) : (emit s o).streams = s.streams := rfl
@[simp] theorem emit_reqs (s : State) (o : Output) : (emit s o).reqs = s.reqs := rfl
@[simp] theorem emit_buckets (s : State) (o : Output) : (emit s o).buckets = s.buckets := rfl
@[simp] theorem emit_laneTurn (s : State) (o : Output) : (emit s o).laneTurn = s.laneTurn := rfl
@[simp] theorem emit_tickAt (s : State) (o : Output) : (emit s o).tickAt = s.tickAt := rfl
@[simp] theorem emit_passAt (s : State) (o : Output) : (emit s o).passAt = s.passAt := rfl
@[simp] theorem emit_fen (s : State) (o : Output) : (emit s o).fen = s.fen := rfl
@[simp] theorem emit_bankQ (s : State) (o : Output) : (emit s o).bankQ = s.bankQ := rfl
@[simp] theorem emit_bankHeld (s : State) (o : Output) : (emit s o).bankHeld = s.bankHeld := rfl
@[simp] theorem emit_bankDone (s : State) (o : Output) : (emit s o).bankDone = s.bankDone := rfl
@[simp] theorem emit_suspect (s : State) (o : Output) : (emit s o).suspect = s.suspect := rfl
@[simp] theorem emit_scrubPos (s : State) (o : Output) : (emit s o).scrubPos = s.scrubPos := rfl
@[simp] theorem emit_scrubQ (s : State) (o : Output) : (emit s o).scrubQ = s.scrubQ := rfl
@[simp] theorem emit_fenQ (s : State) (o : Output) : (emit s o).fenQ = s.fenQ := rfl
@[simp] theorem emit_fenRes (s : State) (o : Output) : (emit s o).fenRes = s.fenRes := rfl
@[simp] theorem emit_opLog (s : State) (o : Output) : (emit s o).opLog = s.opLog := rfl
@[simp] theorem emit_objs (s : State) (o : Output) : (emit s o).objs = s.objs := rfl
@[simp] theorem emit_tabA (s : State) (o : Output) : (emit s o).tabA = s.tabA := rfl
@[simp] theorem emit_tabB (s : State) (o : Output) : (emit s o).tabB = s.tabB := rfl
@[simp] theorem emit_actB (s : State) (o : Output) : (emit s o).actB = s.actB := rfl
@[simp] theorem emit_setAct (s : State) (o : Output) : (emit s o).setAct = s.setAct := rfl
@[simp] theorem emit_setEpoch (s : State) (o : Output) : (emit s o).setEpoch = s.setEpoch := rfl
@[simp] theorem emit_load (s : State) (o : Output) : (emit s o).load = s.load := rfl
@[simp] theorem emit_ests (s : State) (o : Output) : (emit s o).ests = s.ests := rfl
@[simp] theorem emit_blocks (s : State) (o : Output) : (emit s o).blocks = s.blocks := rfl
@[simp] theorem emit_slow (s : State) (o : Output) : (emit s o).slow = s.slow := rfl
@[simp] theorem emit_far (s : State) (o : Output) : (emit s o).far = s.far := rfl
@[simp] theorem emit_kv (s : State) (o : Output) : (emit s o).kv = s.kv := rfl
@[simp] theorem emit_memTags (s : State) (o : Output) : (emit s o).memTags = s.memTags := rfl
@[simp] theorem emit_conTags (s : State) (o : Output) : (emit s o).conTags = s.conTags := rfl
@[simp] theorem emit_dmaQ (s : State) (o : Output) : (emit s o).dmaQ = s.dmaQ := rfl
@[simp] theorem emit_dmaWait (s : State) (o : Output) : (emit s o).dmaWait = s.dmaWait := rfl
@[simp] theorem emit_dmaTag (s : State) (o : Output) : (emit s o).dmaTag = s.dmaTag := rfl
@[simp] theorem emit_memRest (s : State) (o : Output) : (emit s o).memRest = s.memRest := rfl
@[simp] theorem emit_conRest (s : State) (o : Output) : (emit s o).conRest = s.conRest := rfl
@[simp] theorem emit_flashAt (s : State) (o : Output) : (emit s o).flashAt = s.flashAt := rfl
@[simp] theorem emit_opOrphans (s : State) (o : Output) : (emit s o).opOrphans = s.opOrphans := rfl
@[simp] theorem emit_dmaDone (s : State) (o : Output) : (emit s o).dmaDone = s.dmaDone := rfl
@[simp] theorem emit_progs (s : State) (o : Output) : (emit s o).progs = s.progs := rfl
@[simp] theorem emit_progNo (s : State) (o : Output) : (emit s o).progNo = s.progNo := rfl
@[simp] theorem emit_jobs (s : State) (o : Output) : (emit s o).jobs = s.jobs := rfl
@[simp] theorem emit_disp (s : State) (o : Output) : (emit s o).disp = s.disp := rfl
@[simp] theorem emit_sram (s : State) (o : Output) : (emit s o).sram = s.sram := rfl
@[simp] theorem emit_flips (s : State) (o : Output) : (emit s o).flips = s.flips := rfl
@[simp] theorem emit_counters (s : State) (o : Output) : (emit s o).counters = s.counters := rfl
@[simp] theorem emit_mask (s : State) (o : Output) : (emit s o).mask = s.mask := rfl
@[simp] theorem emit_draining (s : State) (o : Output) : (emit s o).draining = s.draining := rfl
@[simp] theorem emit_locks (s : State) (o : Output) : (emit s o).locks = s.locks := rfl
@[simp] theorem emit_plots (s : State) (o : Output) : (emit s o).plots = s.plots := rfl
@[simp] theorem emit_hay (s : State) (o : Output) : (emit s o).hay = s.hay := rfl
@[simp] theorem emit_flash (s : State) (o : Output) : (emit s o).flash = s.flash := rfl
@[simp] theorem emit_flashCmd (s : State) (o : Output) : (emit s o).flashCmd = s.flashCmd := rfl
@[simp] theorem emit_flashSusp (s : State) (o : Output) : (emit s o).flashSusp = s.flashSusp := rfl
@[simp] theorem emit_spoilt (s : State) (o : Output) : (emit s o).spoilt = s.spoilt := rfl
@[simp] theorem emit_bankWr (s : State) (o : Output) : (emit s o).bankWr = s.bankWr := rfl
@[simp] theorem emit_bankSt (s : State) (o : Output) : (emit s o).bankSt = s.bankSt := rfl
@[simp] theorem emit_bankErr (s : State) (o : Output) : (emit s o).bankErr = s.bankErr := rfl
@[simp] theorem emit_bankTgt (s : State) (o : Output) : (emit s o).bankTgt = s.bankTgt := rfl
@[simp] theorem emit_log (s : State) (o : Output) : (emit s o).log = s.log := rfl
@[simp] theorem emit_mgmt (s : State) (o : Output) : (emit s o).mgmt = s.mgmt := rfl
@[simp] theorem emit_gen (s : State) (o : Output) : (emit s o).gen = s.gen := rfl
@[simp] theorem emit_mbx (s : State) (o : Output) : (emit s o).mbx = s.mbx := rfl
@[simp] theorem emit_det (s : State) (o : Output) : (emit s o).det = s.det := rfl
@[simp] theorem emit_logWin (s : State) (o : Output) : (emit s o).logWin = s.logWin := rfl
@[simp] theorem emit_tel (s : State) (o : Output) : (emit s o).tel = s.tel := rfl
@[simp] theorem emit_tally (s : State) (o : Output) : (emit s o).tally = s.tally := rfl

/-! ## setLinkTag -/

@[simp] theorem setLinkTag_pending (s : State) (t : Nat) (x : LinkTag) : (setLinkTag s t x).pending = s.pending := rfl
@[simp] theorem setLinkTag_out (s : State) (t : Nat) (x : LinkTag) : (setLinkTag s t x).out = s.out := rfl
@[simp] theorem setLinkTag_free (s : State) (t : Nat) (x : LinkTag) : (setLinkTag s t x).free = s.free := rfl
@[simp] theorem setLinkTag_now (s : State) (t : Nat) (x : LinkTag) : (setLinkTag s t x).now = s.now := rfl
@[simp] theorem setLinkTag_boot (s : State) (t : Nat) (x : LinkTag) : (setLinkTag s t x).boot = s.boot := rfl
@[simp] theorem setLinkTag_fuses (s : State) (t : Nat) (x : LinkTag) : (setLinkTag s t x).fuses = s.fuses := rfl
@[simp] theorem setLinkTag_fuseOp (s : State) (t : Nat) (x : LinkTag) : (setLinkTag s t x).fuseOp = s.fuseOp := rfl
@[simp] theorem setLinkTag_fuseWait (s : State) (t : Nat) (x : LinkTag) : (setLinkTag s t x).fuseWait = s.fuseWait := rfl
@[simp] theorem setLinkTag_chal (s : State) (t : Nat) (x : LinkTag) : (setLinkTag s t x).chal = s.chal := rfl
@[simp] theorem setLinkTag_cfg (s : State) (t : Nat) (x : LinkTag) : (setLinkTag s t x).cfg = s.cfg := rfl
@[simp] theorem setLinkTag_view (s : State) (t : Nat) (x : LinkTag) : (setLinkTag s t x).view = s.view := rfl
@[simp] theorem setLinkTag_ports (s : State) (t : Nat) (x : LinkTag) : (setLinkTag s t x).ports = s.ports := rfl
@[simp] theorem setLinkTag_c0wait (s : State) (t : Nat) (x : LinkTag) : (setLinkTag s t x).c0wait = s.c0wait := rfl
@[simp] theorem setLinkTag_routeHold (s : State) (t : Nat) (x : LinkTag) : (setLinkTag s t x).routeHold = s.routeHold := rfl
@[simp] theorem setLinkTag_discards (s : State) (t : Nat) (x : LinkTag) : (setLinkTag s t x).discards = s.discards := rfl
@[simp] theorem setLinkTag_fbs (s : State) (t : Nat) (x : LinkTag) : (setLinkTag s t x).fbs = s.fbs := rfl
@[simp] theorem setLinkTag_poolUsed (s : State) (t : Nat) (x : LinkTag) : (setLinkTag s t x).poolUsed = s.poolUsed := rfl
@[simp] theorem setLinkTag_poolRes (s : State) (t : Nat) (x : LinkTag) : (setLinkTag s t x).poolRes = s.poolRes := rfl
@[simp] theorem setLinkTag_rotPtr (s : State) (t : Nat) (x : LinkTag) : (setLinkTag s t x).rotPtr = s.rotPtr := rfl
@[simp] theorem setLinkTag_weirs (s : State) (t : Nat) (x : LinkTag) : (setLinkTag s t x).weirs = s.weirs := rfl
@[simp] theorem setLinkTag_sluices (s : State) (t : Nat) (x : LinkTag) : (setLinkTag s t x).sluices = s.sluices := rfl
@[simp] theorem setLinkTag_outCtr (s : State) (t : Nat) (x : LinkTag) : (setLinkTag s t x).outCtr = s.outCtr := rfl
@[simp] theorem setLinkTag_inWin (s : State) (t : Nat) (x : LinkTag) : (setLinkTag s t x).inWin = s.inWin := rfl
@[simp] theorem setLinkTag_adms (s : State) (t : Nat) (x : LinkTag) : (setLinkTag s t x).adms = s.adms := rfl
@[simp] theorem setLinkTag_streams (s : State) (t : Nat) (x : LinkTag) : (setLinkTag s t x).streams = s.streams := rfl
@[simp] theorem setLinkTag_reqs (s : State) (t : Nat) (x : LinkTag) : (setLinkTag s t x).reqs = s.reqs := rfl
@[simp] theorem setLinkTag_buckets (s : State) (t : Nat) (x : LinkTag) : (setLinkTag s t x).buckets = s.buckets := rfl
@[simp] theorem setLinkTag_laneTurn (s : State) (t : Nat) (x : LinkTag) : (setLinkTag s t x).laneTurn = s.laneTurn := rfl
@[simp] theorem setLinkTag_tickAt (s : State) (t : Nat) (x : LinkTag) : (setLinkTag s t x).tickAt = s.tickAt := rfl
@[simp] theorem setLinkTag_passAt (s : State) (t : Nat) (x : LinkTag) : (setLinkTag s t x).passAt = s.passAt := rfl
@[simp] theorem setLinkTag_fen (s : State) (t : Nat) (x : LinkTag) : (setLinkTag s t x).fen = s.fen := rfl
@[simp] theorem setLinkTag_bankQ (s : State) (t : Nat) (x : LinkTag) : (setLinkTag s t x).bankQ = s.bankQ := rfl
@[simp] theorem setLinkTag_bankHeld (s : State) (t : Nat) (x : LinkTag) : (setLinkTag s t x).bankHeld = s.bankHeld := rfl
@[simp] theorem setLinkTag_bankDone (s : State) (t : Nat) (x : LinkTag) : (setLinkTag s t x).bankDone = s.bankDone := rfl
@[simp] theorem setLinkTag_suspect (s : State) (t : Nat) (x : LinkTag) : (setLinkTag s t x).suspect = s.suspect := rfl
@[simp] theorem setLinkTag_scrubPos (s : State) (t : Nat) (x : LinkTag) : (setLinkTag s t x).scrubPos = s.scrubPos := rfl
@[simp] theorem setLinkTag_scrubQ (s : State) (t : Nat) (x : LinkTag) : (setLinkTag s t x).scrubQ = s.scrubQ := rfl
@[simp] theorem setLinkTag_fenQ (s : State) (t : Nat) (x : LinkTag) : (setLinkTag s t x).fenQ = s.fenQ := rfl
@[simp] theorem setLinkTag_fenRes (s : State) (t : Nat) (x : LinkTag) : (setLinkTag s t x).fenRes = s.fenRes := rfl
@[simp] theorem setLinkTag_opLog (s : State) (t : Nat) (x : LinkTag) : (setLinkTag s t x).opLog = s.opLog := rfl
@[simp] theorem setLinkTag_objs (s : State) (t : Nat) (x : LinkTag) : (setLinkTag s t x).objs = s.objs := rfl
@[simp] theorem setLinkTag_tabA (s : State) (t : Nat) (x : LinkTag) : (setLinkTag s t x).tabA = s.tabA := rfl
@[simp] theorem setLinkTag_tabB (s : State) (t : Nat) (x : LinkTag) : (setLinkTag s t x).tabB = s.tabB := rfl
@[simp] theorem setLinkTag_actB (s : State) (t : Nat) (x : LinkTag) : (setLinkTag s t x).actB = s.actB := rfl
@[simp] theorem setLinkTag_setAct (s : State) (t : Nat) (x : LinkTag) : (setLinkTag s t x).setAct = s.setAct := rfl
@[simp] theorem setLinkTag_setEpoch (s : State) (t : Nat) (x : LinkTag) : (setLinkTag s t x).setEpoch = s.setEpoch := rfl
@[simp] theorem setLinkTag_load (s : State) (t : Nat) (x : LinkTag) : (setLinkTag s t x).load = s.load := rfl
@[simp] theorem setLinkTag_ests (s : State) (t : Nat) (x : LinkTag) : (setLinkTag s t x).ests = s.ests := rfl
@[simp] theorem setLinkTag_blocks (s : State) (t : Nat) (x : LinkTag) : (setLinkTag s t x).blocks = s.blocks := rfl
@[simp] theorem setLinkTag_slow (s : State) (t : Nat) (x : LinkTag) : (setLinkTag s t x).slow = s.slow := rfl
@[simp] theorem setLinkTag_far (s : State) (t : Nat) (x : LinkTag) : (setLinkTag s t x).far = s.far := rfl
@[simp] theorem setLinkTag_kv (s : State) (t : Nat) (x : LinkTag) : (setLinkTag s t x).kv = s.kv := rfl
@[simp] theorem setLinkTag_memTags (s : State) (t : Nat) (x : LinkTag) : (setLinkTag s t x).memTags = s.memTags := rfl
@[simp] theorem setLinkTag_conTags (s : State) (t : Nat) (x : LinkTag) : (setLinkTag s t x).conTags = s.conTags := rfl
@[simp] theorem setLinkTag_dmaQ (s : State) (t : Nat) (x : LinkTag) : (setLinkTag s t x).dmaQ = s.dmaQ := rfl
@[simp] theorem setLinkTag_dmaWait (s : State) (t : Nat) (x : LinkTag) : (setLinkTag s t x).dmaWait = s.dmaWait := rfl
@[simp] theorem setLinkTag_dmaTag (s : State) (t : Nat) (x : LinkTag) : (setLinkTag s t x).dmaTag = s.dmaTag := rfl
@[simp] theorem setLinkTag_memRest (s : State) (t : Nat) (x : LinkTag) : (setLinkTag s t x).memRest = s.memRest := rfl
@[simp] theorem setLinkTag_conRest (s : State) (t : Nat) (x : LinkTag) : (setLinkTag s t x).conRest = s.conRest := rfl
@[simp] theorem setLinkTag_flashAt (s : State) (t : Nat) (x : LinkTag) : (setLinkTag s t x).flashAt = s.flashAt := rfl
@[simp] theorem setLinkTag_opOrphans (s : State) (t : Nat) (x : LinkTag) : (setLinkTag s t x).opOrphans = s.opOrphans := rfl
@[simp] theorem setLinkTag_dmaDone (s : State) (t : Nat) (x : LinkTag) : (setLinkTag s t x).dmaDone = s.dmaDone := rfl
@[simp] theorem setLinkTag_progs (s : State) (t : Nat) (x : LinkTag) : (setLinkTag s t x).progs = s.progs := rfl
@[simp] theorem setLinkTag_progNo (s : State) (t : Nat) (x : LinkTag) : (setLinkTag s t x).progNo = s.progNo := rfl
@[simp] theorem setLinkTag_jobs (s : State) (t : Nat) (x : LinkTag) : (setLinkTag s t x).jobs = s.jobs := rfl
@[simp] theorem setLinkTag_disp (s : State) (t : Nat) (x : LinkTag) : (setLinkTag s t x).disp = s.disp := rfl
@[simp] theorem setLinkTag_sram (s : State) (t : Nat) (x : LinkTag) : (setLinkTag s t x).sram = s.sram := rfl
@[simp] theorem setLinkTag_flips (s : State) (t : Nat) (x : LinkTag) : (setLinkTag s t x).flips = s.flips := rfl
@[simp] theorem setLinkTag_counters (s : State) (t : Nat) (x : LinkTag) : (setLinkTag s t x).counters = s.counters := rfl
@[simp] theorem setLinkTag_mask (s : State) (t : Nat) (x : LinkTag) : (setLinkTag s t x).mask = s.mask := rfl
@[simp] theorem setLinkTag_draining (s : State) (t : Nat) (x : LinkTag) : (setLinkTag s t x).draining = s.draining := rfl
@[simp] theorem setLinkTag_locks (s : State) (t : Nat) (x : LinkTag) : (setLinkTag s t x).locks = s.locks := rfl
@[simp] theorem setLinkTag_plots (s : State) (t : Nat) (x : LinkTag) : (setLinkTag s t x).plots = s.plots := rfl
@[simp] theorem setLinkTag_hay (s : State) (t : Nat) (x : LinkTag) : (setLinkTag s t x).hay = s.hay := rfl
@[simp] theorem setLinkTag_flash (s : State) (t : Nat) (x : LinkTag) : (setLinkTag s t x).flash = s.flash := rfl
@[simp] theorem setLinkTag_flashCmd (s : State) (t : Nat) (x : LinkTag) : (setLinkTag s t x).flashCmd = s.flashCmd := rfl
@[simp] theorem setLinkTag_flashSusp (s : State) (t : Nat) (x : LinkTag) : (setLinkTag s t x).flashSusp = s.flashSusp := rfl
@[simp] theorem setLinkTag_spoilt (s : State) (t : Nat) (x : LinkTag) : (setLinkTag s t x).spoilt = s.spoilt := rfl
@[simp] theorem setLinkTag_bankWr (s : State) (t : Nat) (x : LinkTag) : (setLinkTag s t x).bankWr = s.bankWr := rfl
@[simp] theorem setLinkTag_bankSt (s : State) (t : Nat) (x : LinkTag) : (setLinkTag s t x).bankSt = s.bankSt := rfl
@[simp] theorem setLinkTag_bankErr (s : State) (t : Nat) (x : LinkTag) : (setLinkTag s t x).bankErr = s.bankErr := rfl
@[simp] theorem setLinkTag_bankTgt (s : State) (t : Nat) (x : LinkTag) : (setLinkTag s t x).bankTgt = s.bankTgt := rfl
@[simp] theorem setLinkTag_log (s : State) (t : Nat) (x : LinkTag) : (setLinkTag s t x).log = s.log := rfl
@[simp] theorem setLinkTag_mgmt (s : State) (t : Nat) (x : LinkTag) : (setLinkTag s t x).mgmt = s.mgmt := rfl
@[simp] theorem setLinkTag_gen (s : State) (t : Nat) (x : LinkTag) : (setLinkTag s t x).gen = s.gen := rfl
@[simp] theorem setLinkTag_mbx (s : State) (t : Nat) (x : LinkTag) : (setLinkTag s t x).mbx = s.mbx := rfl
@[simp] theorem setLinkTag_det (s : State) (t : Nat) (x : LinkTag) : (setLinkTag s t x).det = s.det := rfl
@[simp] theorem setLinkTag_logWin (s : State) (t : Nat) (x : LinkTag) : (setLinkTag s t x).logWin = s.logWin := rfl
@[simp] theorem setLinkTag_tel (s : State) (t : Nat) (x : LinkTag) : (setLinkTag s t x).tel = s.tel := rfl
@[simp] theorem setLinkTag_tally (s : State) (t : Nat) (x : LinkTag) : (setLinkTag s t x).tally = s.tally := rfl

/-! ## count -/

@[simp] theorem count_pending (s : State) (k : Tally) (p : Nat) : (count s k p).pending = s.pending := rfl
@[simp] theorem count_out (s : State) (k : Tally) (p : Nat) : (count s k p).out = s.out := rfl
@[simp] theorem count_free (s : State) (k : Tally) (p : Nat) : (count s k p).free = s.free := rfl
@[simp] theorem count_now (s : State) (k : Tally) (p : Nat) : (count s k p).now = s.now := rfl
@[simp] theorem count_boot (s : State) (k : Tally) (p : Nat) : (count s k p).boot = s.boot := rfl
@[simp] theorem count_fuses (s : State) (k : Tally) (p : Nat) : (count s k p).fuses = s.fuses := rfl
@[simp] theorem count_fuseOp (s : State) (k : Tally) (p : Nat) : (count s k p).fuseOp = s.fuseOp := rfl
@[simp] theorem count_fuseWait (s : State) (k : Tally) (p : Nat) : (count s k p).fuseWait = s.fuseWait := rfl
@[simp] theorem count_chal (s : State) (k : Tally) (p : Nat) : (count s k p).chal = s.chal := rfl
@[simp] theorem count_cfg (s : State) (k : Tally) (p : Nat) : (count s k p).cfg = s.cfg := rfl
@[simp] theorem count_view (s : State) (k : Tally) (p : Nat) : (count s k p).view = s.view := rfl
@[simp] theorem count_ports (s : State) (k : Tally) (p : Nat) : (count s k p).ports = s.ports := rfl
@[simp] theorem count_c0wait (s : State) (k : Tally) (p : Nat) : (count s k p).c0wait = s.c0wait := rfl
@[simp] theorem count_routeHold (s : State) (k : Tally) (p : Nat) : (count s k p).routeHold = s.routeHold := rfl
@[simp] theorem count_discards (s : State) (k : Tally) (p : Nat) : (count s k p).discards = s.discards := rfl
@[simp] theorem count_fbs (s : State) (k : Tally) (p : Nat) : (count s k p).fbs = s.fbs := rfl
@[simp] theorem count_poolUsed (s : State) (k : Tally) (p : Nat) : (count s k p).poolUsed = s.poolUsed := rfl
@[simp] theorem count_poolRes (s : State) (k : Tally) (p : Nat) : (count s k p).poolRes = s.poolRes := rfl
@[simp] theorem count_rotPtr (s : State) (k : Tally) (p : Nat) : (count s k p).rotPtr = s.rotPtr := rfl
@[simp] theorem count_weirs (s : State) (k : Tally) (p : Nat) : (count s k p).weirs = s.weirs := rfl
@[simp] theorem count_sluices (s : State) (k : Tally) (p : Nat) : (count s k p).sluices = s.sluices := rfl
@[simp] theorem count_outCtr (s : State) (k : Tally) (p : Nat) : (count s k p).outCtr = s.outCtr := rfl
@[simp] theorem count_inWin (s : State) (k : Tally) (p : Nat) : (count s k p).inWin = s.inWin := rfl
@[simp] theorem count_linkTags (s : State) (k : Tally) (p : Nat) : (count s k p).linkTags = s.linkTags := rfl
@[simp] theorem count_adms (s : State) (k : Tally) (p : Nat) : (count s k p).adms = s.adms := rfl
@[simp] theorem count_streams (s : State) (k : Tally) (p : Nat) : (count s k p).streams = s.streams := rfl
@[simp] theorem count_reqs (s : State) (k : Tally) (p : Nat) : (count s k p).reqs = s.reqs := rfl
@[simp] theorem count_buckets (s : State) (k : Tally) (p : Nat) : (count s k p).buckets = s.buckets := rfl
@[simp] theorem count_laneTurn (s : State) (k : Tally) (p : Nat) : (count s k p).laneTurn = s.laneTurn := rfl
@[simp] theorem count_tickAt (s : State) (k : Tally) (p : Nat) : (count s k p).tickAt = s.tickAt := rfl
@[simp] theorem count_passAt (s : State) (k : Tally) (p : Nat) : (count s k p).passAt = s.passAt := rfl
@[simp] theorem count_fen (s : State) (k : Tally) (p : Nat) : (count s k p).fen = s.fen := rfl
@[simp] theorem count_bankQ (s : State) (k : Tally) (p : Nat) : (count s k p).bankQ = s.bankQ := rfl
@[simp] theorem count_bankHeld (s : State) (k : Tally) (p : Nat) : (count s k p).bankHeld = s.bankHeld := rfl
@[simp] theorem count_bankDone (s : State) (k : Tally) (p : Nat) : (count s k p).bankDone = s.bankDone := rfl
@[simp] theorem count_suspect (s : State) (k : Tally) (p : Nat) : (count s k p).suspect = s.suspect := rfl
@[simp] theorem count_scrubPos (s : State) (k : Tally) (p : Nat) : (count s k p).scrubPos = s.scrubPos := rfl
@[simp] theorem count_scrubQ (s : State) (k : Tally) (p : Nat) : (count s k p).scrubQ = s.scrubQ := rfl
@[simp] theorem count_fenQ (s : State) (k : Tally) (p : Nat) : (count s k p).fenQ = s.fenQ := rfl
@[simp] theorem count_fenRes (s : State) (k : Tally) (p : Nat) : (count s k p).fenRes = s.fenRes := rfl
@[simp] theorem count_opLog (s : State) (k : Tally) (p : Nat) : (count s k p).opLog = s.opLog := rfl
@[simp] theorem count_objs (s : State) (k : Tally) (p : Nat) : (count s k p).objs = s.objs := rfl
@[simp] theorem count_tabA (s : State) (k : Tally) (p : Nat) : (count s k p).tabA = s.tabA := rfl
@[simp] theorem count_tabB (s : State) (k : Tally) (p : Nat) : (count s k p).tabB = s.tabB := rfl
@[simp] theorem count_actB (s : State) (k : Tally) (p : Nat) : (count s k p).actB = s.actB := rfl
@[simp] theorem count_setAct (s : State) (k : Tally) (p : Nat) : (count s k p).setAct = s.setAct := rfl
@[simp] theorem count_setEpoch (s : State) (k : Tally) (p : Nat) : (count s k p).setEpoch = s.setEpoch := rfl
@[simp] theorem count_load (s : State) (k : Tally) (p : Nat) : (count s k p).load = s.load := rfl
@[simp] theorem count_ests (s : State) (k : Tally) (p : Nat) : (count s k p).ests = s.ests := rfl
@[simp] theorem count_blocks (s : State) (k : Tally) (p : Nat) : (count s k p).blocks = s.blocks := rfl
@[simp] theorem count_slow (s : State) (k : Tally) (p : Nat) : (count s k p).slow = s.slow := rfl
@[simp] theorem count_far (s : State) (k : Tally) (p : Nat) : (count s k p).far = s.far := rfl
@[simp] theorem count_kv (s : State) (k : Tally) (p : Nat) : (count s k p).kv = s.kv := rfl
@[simp] theorem count_memTags (s : State) (k : Tally) (p : Nat) : (count s k p).memTags = s.memTags := rfl
@[simp] theorem count_conTags (s : State) (k : Tally) (p : Nat) : (count s k p).conTags = s.conTags := rfl
@[simp] theorem count_dmaQ (s : State) (k : Tally) (p : Nat) : (count s k p).dmaQ = s.dmaQ := rfl
@[simp] theorem count_dmaWait (s : State) (k : Tally) (p : Nat) : (count s k p).dmaWait = s.dmaWait := rfl
@[simp] theorem count_dmaTag (s : State) (k : Tally) (p : Nat) : (count s k p).dmaTag = s.dmaTag := rfl
@[simp] theorem count_memRest (s : State) (k : Tally) (p : Nat) : (count s k p).memRest = s.memRest := rfl
@[simp] theorem count_conRest (s : State) (k : Tally) (p : Nat) : (count s k p).conRest = s.conRest := rfl
@[simp] theorem count_flashAt (s : State) (k : Tally) (p : Nat) : (count s k p).flashAt = s.flashAt := rfl
@[simp] theorem count_opOrphans (s : State) (k : Tally) (p : Nat) : (count s k p).opOrphans = s.opOrphans := rfl
@[simp] theorem count_dmaDone (s : State) (k : Tally) (p : Nat) : (count s k p).dmaDone = s.dmaDone := rfl
@[simp] theorem count_progs (s : State) (k : Tally) (p : Nat) : (count s k p).progs = s.progs := rfl
@[simp] theorem count_progNo (s : State) (k : Tally) (p : Nat) : (count s k p).progNo = s.progNo := rfl
@[simp] theorem count_jobs (s : State) (k : Tally) (p : Nat) : (count s k p).jobs = s.jobs := rfl
@[simp] theorem count_disp (s : State) (k : Tally) (p : Nat) : (count s k p).disp = s.disp := rfl
@[simp] theorem count_sram (s : State) (k : Tally) (p : Nat) : (count s k p).sram = s.sram := rfl
@[simp] theorem count_flips (s : State) (k : Tally) (p : Nat) : (count s k p).flips = s.flips := rfl
@[simp] theorem count_counters (s : State) (k : Tally) (p : Nat) : (count s k p).counters = s.counters := rfl
@[simp] theorem count_mask (s : State) (k : Tally) (p : Nat) : (count s k p).mask = s.mask := rfl
@[simp] theorem count_draining (s : State) (k : Tally) (p : Nat) : (count s k p).draining = s.draining := rfl
@[simp] theorem count_locks (s : State) (k : Tally) (p : Nat) : (count s k p).locks = s.locks := rfl
@[simp] theorem count_plots (s : State) (k : Tally) (p : Nat) : (count s k p).plots = s.plots := rfl
@[simp] theorem count_hay (s : State) (k : Tally) (p : Nat) : (count s k p).hay = s.hay := rfl
@[simp] theorem count_flash (s : State) (k : Tally) (p : Nat) : (count s k p).flash = s.flash := rfl
@[simp] theorem count_flashCmd (s : State) (k : Tally) (p : Nat) : (count s k p).flashCmd = s.flashCmd := rfl
@[simp] theorem count_flashSusp (s : State) (k : Tally) (p : Nat) : (count s k p).flashSusp = s.flashSusp := rfl
@[simp] theorem count_spoilt (s : State) (k : Tally) (p : Nat) : (count s k p).spoilt = s.spoilt := rfl
@[simp] theorem count_bankWr (s : State) (k : Tally) (p : Nat) : (count s k p).bankWr = s.bankWr := rfl
@[simp] theorem count_bankSt (s : State) (k : Tally) (p : Nat) : (count s k p).bankSt = s.bankSt := rfl
@[simp] theorem count_bankErr (s : State) (k : Tally) (p : Nat) : (count s k p).bankErr = s.bankErr := rfl
@[simp] theorem count_bankTgt (s : State) (k : Tally) (p : Nat) : (count s k p).bankTgt = s.bankTgt := rfl
@[simp] theorem count_log (s : State) (k : Tally) (p : Nat) : (count s k p).log = s.log := rfl
@[simp] theorem count_mgmt (s : State) (k : Tally) (p : Nat) : (count s k p).mgmt = s.mgmt := rfl
@[simp] theorem count_gen (s : State) (k : Tally) (p : Nat) : (count s k p).gen = s.gen := rfl
@[simp] theorem count_mbx (s : State) (k : Tally) (p : Nat) : (count s k p).mbx = s.mbx := rfl
@[simp] theorem count_det (s : State) (k : Tally) (p : Nat) : (count s k p).det = s.det := rfl
@[simp] theorem count_logWin (s : State) (k : Tally) (p : Nat) : (count s k p).logWin = s.logWin := rfl
@[simp] theorem count_tel (s : State) (k : Tally) (p : Nat) : (count s k p).tel = s.tel := rfl

/-! ## What is set -/

theorem portOf_setPort (s : State) (p q : Nat) (x : Port) : portOf (setPort s p x) q = if q = p then x else portOf s q :=
  smGet_smSet ({} : Port) x p q s.ports
@[simp] theorem portOf_setPort_self (s : State) (p : Nat) (x : Port) : portOf (setPort s p x) p = x := by simp [portOf_setPort]
@[simp] theorem portOf_modPort_self (s : State) (p : Nat) (f : Port → Port) : portOf (modPort s p f) p = f (portOf s p) := by
  simp [modPort]
theorem fbOf_setFb (s : State) (f g : Nat) (x : FbPort) : fbOf (setFb s f x) g = if g = f then x else fbOf s g :=
  smGet_smSet ({} : FbPort) x f g s.fbs
@[simp] theorem fbOf_setFb_self (s : State) (f : Nat) (x : FbPort) : fbOf (setFb s f x) f = x := by simp [fbOf_setFb]
@[simp] theorem fbOf_modFb_self (s : State) (f : Nat) (g : FbPort → FbPort) : fbOf (modFb s f g) f = g (fbOf s f) := by
  simp [modFb]
theorem weirOf_setWeir (s : State) (w v : Nat) (x : Weir) : weirOf (setWeir s w x) v = if v = w then x else weirOf s v :=
  smGet_smSet ({} : Weir) x w v s.weirs
@[simp] theorem weirOf_setWeir_self (s : State) (w : Nat) (x : Weir) : weirOf (setWeir s w x) w = x := by simp [weirOf_setWeir]
theorem sluiceOf_setSluice (s : State) (i j : Nat) (x : Sluice) :
    sluiceOf (setSluice s i x) j = if j = i then x else sluiceOf s j := smGet_smSet ({} : Sluice) x i j s.sluices
@[simp] theorem sluiceOf_setSluice_self (s : State) (i : Nat) (x : Sluice) : sluiceOf (setSluice s i x) i = x := by
  simp [sluiceOf_setSluice]
theorem streamOf_setStream (s : State) (c e : Nat) (x : Stream) :
    streamOf (setStream s c x) e = if e = c then x else streamOf s e := smGet_smSet ({} : Stream) x c e s.streams
@[simp] theorem streamOf_setStream_self (s : State) (c : Nat) (x : Stream) : streamOf (setStream s c x) c = x := by
  simp [streamOf_setStream]
@[simp] theorem streamOf_modStream_self (s : State) (c : Nat) (f : Stream → Stream) :
    streamOf (modStream s c f) c = f (streamOf s c) := by simp [modStream]
theorem objOf_setObj (s : State) (i j : Nat) (x : Obj) : objOf (setObj s i x) j = if j = i then x else objOf s j :=
  smGet_smSet ({} : Obj) x i j s.objs
@[simp] theorem objOf_setObj_self (s : State) (i : Nat) (x : Obj) : objOf (setObj s i x) i = x := by simp [objOf_setObj]
theorem plotOf_setPlot (s : State) (n m : Nat) (x : Plot) : plotOf (setPlot s n x) m = if m = n then x else plotOf s m :=
  smGet_smSet ({} : Plot) x n m s.plots
@[simp] theorem plotOf_setPlot_self (s : State) (n : Nat) (x : Plot) : plotOf (setPlot s n x) n = x := by simp [plotOf_setPlot]
theorem heathAt_setHeath (s : State) (h g : Nat) (x : Heath) :
    heathAt (setHeath s h x) g = if g = h then x else heathAt s g := smGet_smSet ({} : Heath) x h g s.hay.heaths
@[simp] theorem heathAt_setHeath_self (s : State) (h : Nat) (x : Heath) : heathAt (setHeath s h x) h = x := by
  simp [heathAt_setHeath]
theorem linkTagOf_setLinkTag (s : State) (t u : Nat) (x : LinkTag) :
    linkTagOf (setLinkTag s t x) u = if u = t then x else linkTagOf s u := smGet_smSet LinkTag.free x t u s.linkTags
@[simp] theorem linkTagOf_setLinkTag_self (s : State) (t : Nat) (x : LinkTag) : linkTagOf (setLinkTag s t x) t = x := by
  simp [linkTagOf_setLinkTag]

/-- A TEL counter after some events: the sum, saturating (R379). -/
theorem tel_telAdd (s : State) (o n k : Nat) :
    smGet 0 (telAdd s o n).tel k = if k = o then sat32 (smGet 0 s.tel o) n else smGet 0 s.tel k :=
  smGet_smSet 0 _ o k s.tel

@[simp] theorem emit_out (s : State) (o : Output) : (emit s o).out = s.out ++ [o] := rfl
@[simp] theorem raise_intstat (s : State) (b : BitVec 4) : (raise s b).gen.intstat = s.gen.intstat ||| b := rfl
@[simp] theorem raise_inten (s : State) (b : BitVec 4) : (raise s b).gen.inten = s.gen.inten := rfl
@[simp] theorem drawn_free (s : State) : (drawn s).free = s.free + 1 := rfl

end Sys2Proof.Machine
end

