-- ==== Sys2Proof/Tests/Slice0.lean ====
section
/-! SUPPORT. Tests: for every set of hypotheses of a statement a small state and operands that meet it, with a result taken from the spec where one step shows it; and a term
that each check of WellFormed refuses. -/

set_option Elab.async false

namespace Sys2Proof.Tests

open Sys2Proof.Machine

/-- The state after a command; reset where there is none. -/
def nx (i : Instr) (s : State) : State := match exec i s with | .next t => t | _ => {}

/-- A running engine: member 5 of {5, 6}, tenant 3 with quotas, a peer port 0 and a client port 1 that are Up, every fabric port in use. -/
def up : State :=
  { locks := List.range 36, now := 2000000000000, fuses := { lcGroups := lcFuses 2 },
    boot := { phase := .running, porLow := false, hwrdy := true, wiping := false, farWiped := true, partSeen := true },
    cfg := { nten := 4, memberid := 5, managed := true, fben := 0xFFFF#16, role := [(0, .peer), (1, .client)], route := [(6, { pri := some 0 })],
             ten := [(3, { en := true, ctxq := 8, weirs := 64, sluices := 4, kvq := 1030, rate := 1, burst := 4 })] },
    view := { epoch := 7, members := 0x60, join := [(5, 1), (6, 1)] },
    ports := [(0, { state := .up, phyRst := false, lock := true, partner := 6, partnered := true,
                    txCred := { c0 := 16, c1 := 128, c2 := 512, c3 := 16 }, rxGrant := { c0 := 16, c1 := 128, c2 := 512, c3 := 16 } }),
              (1, { state := .up, phyRst := false, lock := true, partner := 9, partnered := true,
                    txCred := { c0 := 16, c1 := 128, c2 := 512, c3 := 16 }, rxGrant := { c0 := 16, c1 := 128, c2 := 512, c3 := 16 } })],
    fbs := (List.range 16).map fun f => (f, { active := true, inReset := false, txCred := { c0 := 32, c1 := 256, c2 := 2048 } }),
    hay := { grant := 75 }, mask := [0, 1, 3, 5, 7, 9, 127],
    plots := [0, 1, 3, 5, 7, 9, 127, 128, 129, 143, 144].map fun n => (n, { st := .on }) }

/-- `up` with one port replaced. -/
def withPort (p : Nat) (f : Port → Port) (s : State := up) : State := modPort s p f

/-- No mailbox words but CTAG 0x51. -/
def noArgs : MbxArgs := { ctag := 0x51, par := [] }
/-- Mailbox words. -/
def args (l : List W32) : MbxArgs := { ctag := 0x51, par := l }

/-! ## The block as a whole -/

theorem test_step_takes_the_front : step { up with pending := [.tripClear, .sagEntry] } = exec .tripClear { up with pending := [.sagEntry] } := by rw [step]
theorem test_idle_step_ticks : (match step up with | .next t => t.now | _ => 0) = 2000000000001 := by decide +kernel
theorem test_invariant_in_a_running_state : Inv up := by decide +kernel
theorem test_invariant_then_a_step : Inv up ∧ step { up with pending := [.sagEntry] } = .next (nx .sagEntry up) := ⟨by decide +kernel, rfl⟩
theorem test_log_slot_first : (if ({} : State).log.any then nextRingSlot ({} : State).log else some 0) = some 0 := by decide +kernel
theorem test_log_slot_after_one :
    (if (note up evTrip 1 1 []).log.any then nextRingSlot (note up evTrip 1 1 []).log else some 0) = some 1 := by decide +kernel
theorem test_serial_order_wraps : newer 0x0001#16 0xFFFF#16 = true ∧ older 0xFFFF#16 0x0001#16 = true ∧
    newer 0x8000#16 0x0000#16 = false ∧ older 0x8000#16 0x0000#16 = false ∧ newer 0x7FFF#16 0x0000#16 = true := by decide +kernel
theorem test_heath_of_boundary_plots : heathOf 0 = 0 ∧ heathOf 127 = 7 ∧ heathOf 128 = 0 ∧ heathOf 156 = 1 ∧ heathOf 159 = 5 := by decide +kernel
theorem test_frame_is_good : hcrcGood (encodeFrame { payload := [1, 2, 3] } 3 true 2 255 9 4095) = true := by decide +kernel
theorem test_frame_seq_reads_back : seqOf (encodeFrame { payload := [1, 2, 3] } 3 true 2 255 9 4095) = 4095#12 := by decide +kernel

/-! ## Power -/

theorem test_current_stretch_at_boundary : Alive up ∧ (plotOf up 0).st ≠ .gated ∧ rillFree up 0 = true ∧
    (plotOf (nx (.heathCurrentStretch 0 361) up) 0).stretch = true ∧ (plotOf (nx (.heathCurrentStretch 0 360) up) 0).stretch = false := by decide +kernel
theorem test_current_stretch_of_a_faulty_estimator :
    (plotOf (nx (.heathCurrentStretch 0 0) { up with hay := { up.hay with badCurr := [0] } }) 0).stretch = true := by decide +kernel
def stretched : State := setPlot up 3 { st := .stretched, stretch := true, div := 2, below := 1999999990001 }
theorem test_stretch_release_after_10us : (plotOf stretched 3).stretch = true ∧ (plotOf stretched 3).below ≠ 0 ∧
    (plotOf stretched 3).below - 1 + 10000 ≤ stretched.now ∧ (plotOf (nx (.stretchRelease 3) stretched) 3).stretch = false ∧
    (plotOf (nx (.stretchRelease 3) stretched) 3).st = .stretched := by decide +kernel
/-- Readings: Heath 0's core rail just below 92 % of 700 mV, the flash rail just below 95 % of 1.8 V. -/
def readings : PowerObs := { plotMA := [(0, 100), (1, 50)], railMV := [(0, 643)], sramMA := 10, sramMV := 800, flashMV := 1709 }
theorem test_power_estimate_sum : (readings.plotMA.map (·.1)).Nodup ∧ (nx (.powerEstimate readings) up).hay.power = 100 * 643 + 50 * 643 + 8000 ∧
    (nx (.powerEstimate readings) { up with hay := { up.hay with capOkAt := up.now - 99999 } }).hay.ack = true ∧
    (nx (.powerEstimate readings) { up with hay := { up.hay with capOkAt := up.now - 99998 } }).hay.ack = false := by decide +kernel
theorem test_power_estimate_watches_rails : smGet 0 (nx (.powerEstimate readings) up).hay.lowAt 0 = up.now + 1 ∧
    smGet 0 (nx (.powerEstimate readings) { up with hay := { up.hay with lowAt := [(0, 9)] } }).hay.lowAt 0 = 9 ∧
    smGet 0 (nx (.powerEstimate { readings with railMV := [(0, 644)] }) { up with hay := { up.hay with lowAt := [(0, 9)] } }).hay.lowAt 0 = 0 ∧
    (nx (.powerEstimate readings) { up with hay := { up.hay with okAt := 5 } }).hay.okAt = 0 := by decide +kernel
theorem test_throttle_evaluation_at_65C : Up up ∧ FirmUp up ∧ up.boot.fenced = false ∧
    (heathAt (nx (.throttleStepTick { temps := [(0, 420)], badCurr := [], up := true, down := false, fixed := 3 }) up) 0).step ≤ 1 ∧
    (∀ h, h < 8 → (heathAt (nx (.throttleStepTick { temps := [(0, 420)], badCurr := [], up := true, down := false, fixed := 3 }) up) h).step ≠ 7) := by
  decide +kernel
theorem test_even_rills_take_the_slowest : (plotOf stretched 5).st ≠ .gated ∧ (plotOf (evenRills stretched [3, 5]) 5).div = 2 ∧
    (plotOf (evenRills stretched [3, 5]) 5).stretch = false ∧ (plotOf (evenRills stretched [3, 5]) 5).follows = true ∧
    (plotOf (evenRills stretched [3, 5]) 5).st = .stretched := by decide +kernel
/-- Rills 3 and 5 run one program, and only Rill 3 is stretched by a current limit. -/
def paired : State := { evenRills stretched [3, 5] with progs := [(1, [{ job := .summary 0, rills := [3, 5], obj := 0, tenant := 3 }])] }
theorem test_stretch_release_evens_the_program : (plotOf paired 5).follows = true ∧ (plotOf (nx (.stretchRelease 3) paired) 5).follows = false ∧
    (plotOf (nx (.stretchRelease 3) paired) 5).div = 2 ∧ (plotOf (nx (.stretchRelease 3) paired) 3).stretch = false := by decide +kernel
def restarting : State := { up with hay := { up.hay with firmRun := false, tripLog := [9] } }
/-- Site 7 has been at 110 °C for 100 µs. -/
def hot7 (s : State := up) : State := { s with hay := { s.hay with hotAt := [(7, s.now - 99999)] } }
theorem test_thermal_trip_forces_step_6 : hotLong hot7 7 = true ∧ (heathAt (nx (.thermalTrip 7) hot7) 3).step = 6 ∧
    (nx (.thermalTrip 7) hot7).gen.intstat.getLsbD 2 = true ∧ (nx (.thermalTrip 7) (hot7 restarting)).hay.tripLog = [9, 7] ∧
    (nx (.thermalTrip 7) { hot7 with now := up.now - 1 }).hay.tripped = false := by decide +kernel
def tripped : State := { up with hay := { up.hay with tripped := true, hotAt := [(4, 1)], coolAt := up.now - 9999999 } }
theorem test_trip_clears_after_10ms : Alive tripped ∧ tripped.hay.tripped = true ∧ tripped.hay.coolAt ≠ 0 ∧
    (nx .tripClear tripped).hay.tripped = false ∧ (nx .tripClear { tripped with now := tripped.now - 1 }).hay.tripped = true := by decide +kernel
theorem test_grant_falls_to_29 : up.hay.grant ≠ 29 ∧ (29#7).toNat < 30 ∧ 30 ≤ up.hay.grant.toNat ∧
    (heathAt (nx (.powerGrantChange 29) up) 0).step = 6 := by decide +kernel
/-- Rills 5 and 9 wait; the Brook of Rill 9 has no lock. -/
def lowGrant : State :=
  { setPlot (setPlot up 5 { st := .gated }) 9 { st := .gated } with
    hay := { grant := 20, powerUps := [5, 9] }, mask := [0, 1, 3, 7, 127], locks := up.locks.erase 1 }
theorem test_grant_rises_to_30 : Alive lowGrant ∧ lowGrant.hay.grant ≠ 30 ∧ lowGrant.hay.sag = false ∧ (plotOf lowGrant 5).faulted = false ∧
    (plotOf lowGrant 128).faulted = false ∧ brookWaits lowGrant 5 = false ∧ brookWaits lowGrant 9 = true ∧
    (plotOf (nx (.powerGrantChange 30) lowGrant) 5).st ≠ .gated ∧ (nx (.powerGrantChange 30) lowGrant).hay.powerUps = [9] := by decide +kernel
/-- Heath 0's core rail has been below 92 % for 1 µs. -/
def railDown (s : State := up) : State := { s with hay := { s.hay with lowAt := [(0, s.now - 999)] } }
theorem test_sag_entry_suspends_an_erase : Alive railDown ∧ railDown.hay.sag = false ∧ (∃ x ∈ railDown.hay.lowAt, x.2 ≠ 0 ∧ x.2 - 1 + 1000 ≤ railDown.now) ∧
    (nx .sagEntry (railDown { up with flashCmd := some (.eraseBank 65536) })).flashSusp = some (.eraseBank 65536) ∧
    (nx .sagEntry (railDown { up with flashCmd := some (.pageBank 0 [1]) })).flashCmd = some (.pageBank 0 [1]) ∧
    (nx .sagEntry (railDown { up with flashCmd := some (.eraseLog 1) })).flashSusp = some (.eraseLog 1) := by decide +kernel
theorem test_sag_entry_needs_1us : (∀ x ∈ (railDown).hay.lowAt, x.2 = 0 ∨ up.now - 1 < x.2 - 1 + 1000) ∧
    (nx .sagEntry { railDown with now := up.now - 1 }).hay.sag = false := by decide +kernel
def sagging : State := { setPlot up 9 { st := .gated } with
  hay := { grant := 75, sag := true, powerUps := [9], okAt := up.now - 9999999 }, fuseWait := some (.revoke 1), mask := up.mask.erase 9 }
theorem test_sag_exit_carries_out_what_waited : Alive sagging ∧ sagging.hay.sag = true ∧ grantLow sagging = false ∧ sagging.fuseOp = none ∧
    sagging.hay.okAt ≠ 0 ∧ sagging.hay.okAt - 1 + 10000000 ≤ sagging.now ∧ brookWaits sagging 9 = false ∧
    (nx .sagExit sagging).fuseOp = some (.revoke 1) ∧ (plotOf (nx .sagExit sagging) 9).st ≠ .gated ∧
    (nx .sagExit { sagging with now := sagging.now - 1 }).hay.sag = true := by decide +kernel
theorem test_brook_lock_lost : lockedOn up 35 = true ∧ lockedOn (nx (.brookLockLost 35) up) 35 = false := by decide +kernel
/-- `up` without the lock of Brook `b`. -/
def unlocked (b : Nat) (s : State := up) : State := { s with locks := s.locks.erase b }
theorem test_brook_lock_regained : brookPowered (unlocked 15) 15 = true ∧ mayEnable (unlocked 15) 15 = true ∧ lockedOn (unlocked 15) 15 = false ∧
    lockedOn (nx (.brookLockRegained 15) (unlocked 15)) 15 = true ∧ brookPowered (unlocked 2) 2 = false ∧ mayEnable (unlocked 35) 15 = false ∧
    lockedOn (nx (.brookLockRegained 2) (unlocked 2)) 2 = false := by decide +kernel
theorem test_unlocked_brooks : lockedOn (unlocked 23) (16 + 63 / 8) = false ∧ lockedOn (unlocked 34) 34 = false ∧ lockedOn (unlocked 24) (24 + 3 / 4) = false ∧
    fabricClock (unlocked 24) 3 = false ∧ lockedOn (unlocked 32) (32 + memPortOf 0 / 4) = false := by decide +kernel
theorem test_rill_power_down : up.draining.contains 7 = false ∧ (plotOf up 7).st ≠ .gated ∧ spareRill up = true ∧ rillFree up 7 = true ∧
    rillHolds up 7 = false ∧ (plotOf up 7).resid = false ∧ (plotOf (nx (.rillPowerDown 7) up) 7).st = .gated ∧
    (nx (.rillPowerDown 7) up).mask.contains 7 = false := by decide +kernel
def busy7 : State := { up with progs := [(1, [{ job := .summary 0, rills := [7], obj := 0, tenant := 3 }])] }
theorem test_rill_power_down_waits_for_its_program : rillFree busy7 7 = false ∧ (nx (.rillPowerDown 7) busy7).draining = [7] := by decide +kernel
def flagged7 : State := setPlot up 7 { plotOf up 7 with resid := true }
theorem test_heath_refuses_a_flagged_plot : rillHolds flagged7 7 = false ∧ (plotOf flagged7 7).resid = true ∧
    (nx (.rillPowerDown 7) flagged7).hay.gateSt = stPlotResident ∧ (nx (.rillPowerDown 7) flagged7).draining = [7] := by decide +kernel
theorem test_heath_never_gates_144_to_159 : (nx (.rillPowerDown 144) up).hay.gateSt = stNotGateable ∧ (plotOf (nx (.rillPowerDown 144) up) 144).st = .on ∧
    (nx (.rillPowerDown 159) up).hay.gateSt = stNotGateable := by decide +kernel
/-- Every Rill of Brook 15 is gated. -/
def lone143 : State := { setPlot up 127 { st := .gated } with mask := up.mask.erase 127 }
theorem test_common_plot_is_gated_last : (∀ k ∈ brookRills 15, (plotOf lone143 k).st = .gated ∧ k ∉ lone143.mask) ∧ brookTraffic lone143 15 = false ∧
    (plotOf lone143 143).resid = false ∧ (plotOf (nx (.rillPowerDown 143) lone143) 143).st = .gated ∧
    lockedOn (nx (.rillPowerDown 143) lone143) 15 = false ∧ (∃ k ∈ brookRills 15, (plotOf up k).st ≠ .gated ∨ k ∈ up.mask) ∧
    brookTraffic busy7 0 = true ∧ (plotOf (nx (.rillPowerDown 143) up) 143).st = .on := by decide +kernel
def gated9 : State := { setPlot up 9 { st := .gated, resid := true } with mask := up.mask.erase 9 }
theorem test_rill_power_up : gated9.boot.fenced = false ∧ gated9.fuses.lc ≠ 4 ∧ gated9.hay.sag = false ∧ grantLow gated9 = false ∧
    brookWaits gated9 9 = false ∧ (plotOf gated9 9).st = .gated ∧ (plotOf gated9 9).faulted = false ∧ (plotOf gated9 129).faulted = false ∧
    (plotOf (nx (.rillPowerUp 9) gated9) 9).st = .on ∧ (plotOf (nx (.rillPowerUp 9) gated9) 9).resid = false ∧
    (nx (.rillPowerUp 9) gated9).mask.contains 9 = true := by decide +kernel
theorem test_rill_power_up_waits : (nx (.rillPowerUp 9) sagging).hay.powerUps = [9] ∧ brookWaits (unlocked 1 gated9) 9 = true ∧
    (nx (.rillPowerUp 9) (unlocked 1 gated9)).hay.powerUps = [9] ∧ grantLow lowGrant = true := by decide +kernel
theorem test_rill_supply_fault : (plotOf (nx (.plotSupplyFault 127) up) 127).faulted = true ∧ (nx (.plotSupplyFault 127) up).boot.phase = .running := by
  decide +kernel
theorem test_common_supply_fault_holds_the_engine : (nx (.plotSupplyFault 144) up).boot.phase = .held := by decide +kernel
def cutOff : State := { up with mbx := { busy := true, ctag := 9, running := some .plain } }
theorem test_watchdog_restarts : Up cutOff ∧ FirmUp cutOff ∧ cutOff.hay.dogAt + 100000000 ≤ cutOff.now ∧ (nx .watchdogExpiry cutOff).boot.hwrdy = false ∧
    (nx .watchdogExpiry cutOff).hay.firmRun = false ∧ (nx .haywardFirmwareStart (nx .watchdogExpiry cutOff)).mbx.err = stCommandAborted ∧
    Up restarting ∧ FirmUp (nx .haywardFirmwareStart restarting) ∧ (nx .haywardFirmwareStart restarting).log.any = true := by decide +kernel
theorem test_third_restart_fences : (up.now - 10000000000) + 10000000000 = up.now ∧
    (nx (.haywardSramError) { up with hay := { restarts := [up.now - 10000000000, up.now] } }).boot.fenced = true ∧
    (nx (.haywardSramError) { up with hay := { restarts := [up.now - 10000000001, up.now] } }).boot.fenced = false ∧
    smGet 0 (nx (.throttleStepTick { temps := [], badCurr := [], up := false, down := false, fixed := 3 }) up).tel (telEng 3) = 3 := by decide +kernel
theorem test_hayward_map_at_its_edges : hwAt 0xFFFF = some (.bootRom, 0xFFFF) ∧ hwAt 0x10000 = none ∧ hwAt 0x1007FFFF = some (.sram, 0x7FFFF) ∧
    hwAt 0x20007FFF = some (.heath 7, 0xFFF) ∧ hwAt 0x20008000 = none ∧ hwAt 0x201FFFFF = some (.stile, 0xFFFFF) ∧ hwAt 0x80000000 = none ∧
    hwAt 0x7FFFFFFF = some (.hub, 0x3FFFFFFF) := by decide +kernel

/-! ## Link ports -/

/-- A frame as its sender forms it (R45). -/
def wire (f : Frame) (kind : Nat) (ackv : Bool := false) (crcls crcnt : Nat := 0) (ackseq seq : BitVec 12 := 0) : WireFrame :=
  { bytes := encodeFrame f kind ackv crcls crcnt ackseq seq, inserted := false }
/-- A Hello of member 6 (R339). -/
def helloOf (hup : Bool) (ackseq : BitVec 12) : WireFrame :=
  wire { payload := encodeHello linkAdvertised 0 6 true hup 7 1 } kHello false 0 0 ackseq
/-- The header facts that a control frame needs. -/
def controlGood (f : WireFrame) (kind : Nat) : Bool :=
  hcrcGood f.bytes && fcrcGood f.bytes && decide ((parseHdr f.bytes).cls = 0) && decide ((parseHdr f.bytes).kind = kind) &&
  decide ((parseHdr f.bytes).res1 = 0) && decide ((parseHdr f.bytes).res2 = 0) && decide (fld (parseHdr f.bytes).csf 12 4 = 0) &&
  decide ((parseHdr f.bytes).len ≤ 40)

def downPort : State := withPort 0 fun _ => { phyRst := false }
theorem test_lock_rise_starts_training : linkClock up 0 = true ∧ downPort.fuses.lc ≠ 4 ∧ (portOf downPort 0).phyRst = false ∧ (portOf downPort 0).state = .down ∧
    roleOf downPort 0 ≠ .off ∧ (portOf (nx (.lnkLockRise 0) downPort) 0).state = .training := by decide +kernel
theorem test_lock_fall_in_training : (portOf (nx (.lnkLockFall 0) (withPort 0 fun x => { x with state := .training })) 0).state = .down ∧
    (portOf (nx (.lnkLockFall 0) (withPort 0 fun x => { x with state := .failed })) 0).state = .down := by decide +kernel
theorem test_lock_fall_when_up : (portOf up 0).state = .up ∧ (portOf (nx (.lnkLockFall 0) up) 0).state = .retrain := by decide +kernel
theorem test_training_timeout_at_1ms :
    (portOf (nx (.trainingTimeout 0) (withPort 0 fun x => { x with state := .training, since := up.now - 1000000 })) 0).state = .failed ∧
    (portOf (nx (.trainingTimeout 0) (withPort 0 fun x => { x with state := .training, since := up.now - 999999 })) 0).state = .training := by
  decide +kernel
theorem test_retrain_timeout_at_100us :
    (portOf (nx (.retrainTimeout 0) (withPort 0 fun x => { x with state := .retrain, since := up.now - 100000 })) 0).state = .failed := by
  decide +kernel
theorem test_failed_port_reset_at_100ms :
    (portOf (nx (.failedPortReset 0) (withPort 0 fun x => { x with state := .failed, since := up.now - 100000000 })) 0).state = .down := by
  decide +kernel
theorem test_hello_repeats_after_640ns :
    (portOf (nx (.helloRepeat 0) (withPort 0 fun x => { x with state := .training, lastHello := up.now - 640 })) 0).lastHello = up.now := by
  decide +kernel
theorem test_hello_meets_its_hypotheses : controlGood (helloOf false 0) kHello = true ∧
    ((parseHello (slice (helloOf false 0).bytes 16 (parseHdr (helloOf false 0).bytes).len)).any fun h =>
      peerHello up 0 h && !h.resv && !h.hup && creditsOffered (roleOf up 0) h.cred) = true := by decide +kernel
theorem test_hello_ends_training : (portOf (nx (.hello 0 (helloOf false 0)) (withPort 0 fun x => { x with state := .training })) 0).state = .up := by
  decide +kernel
/-- One frame sent and unacknowledged. -/
def sent1 : SentFrame := { seq := 4, frame := { cls := 2, payload := [1] }, sentAt := up.now - 500 }
theorem test_hello_ends_retrain_with_a_resend :
    (portOf (nx (.hello 0 (helloOf false 4)) (withPort 0 fun x => { x with state := .retrain, replay := [sent1, { sent1 with seq := 3 }] })) 0).replay.map
      (·.seq) = [4] := by decide +kernel
theorem test_hello_is_answered_when_up : (nx (.hello 0 (helloOf false 4)) up).out.length = 1 := by decide +kernel
theorem test_hello_with_hup_is_counted_when_up : controlGood (helloOf true 4) kHello = true ∧
    ((parseHello (slice (helloOf true 4).bytes 16 (parseHdr (helloOf true 4).bytes).len)).any fun h =>
      peerHello up 0 h && !h.resv && h.hup && h.long) = true ∧
    smGet 0 (nx (.hello 0 (helloOf true 4)) up).tally (tallyAt .hupHello 0) = 1 ∧ (nx (.hello 0 (helloOf true 4)) up).out = [] := by decide +kernel

/-- A Data frame for this engine: class 1 on port 0. -/
def dataIn (seq : BitVec 12) (cls : BitVec 2) (fence : Bool) : WireFrame :=
  wire { cls := cls, fence := fence, src := 6, dst := 5, tenant := 3, epoch := 7, csf := if cls = 0 then opcLinkSignal.setWidth 16 else 9,
         payload := List.replicate 40 0 } kData false 0 0 0 seq
theorem test_data_frame_meets_its_hypotheses : hcrcGood (dataIn 0 1 false).bytes = true ∧ fcrcGood (dataIn 0 1 false).bytes = true ∧
    (parseHdr (dataIn 0 1 false).bytes).kind = kData ∧ headerError up 0 (parseHdr (dataIn 0 1 false).bytes) = false ∧
    stompOf (dataIn 0 1 false).bytes = false ∧ seqOf (dataIn 0 1 false).bytes = 0 := by decide +kernel
theorem test_data_frame_accepted : (portOf (nx (.dataFrame 0 (dataIn 0 1 false)) up) 0).nextRx = 1 ∧
    (portOf (nx (.dataFrame 0 (dataIn 0 1 false)) up) 0).rxq.length = 1 := by decide +kernel
theorem test_data_frame_fenced_waits : headerError up 0 (parseHdr (dataIn 0 0 true).bytes) = false ∧
    (portOf (nx (.dataFrame 0 (dataIn 0 0 true)) up) 0).rxFenced.length = 1 := by decide +kernel
theorem test_data_frame_for_the_hub : linkCodes.contains ((parseHdr (dataIn 0 0 false).bytes).csf.setWidth 8) = true ∧
    c0LaneFree up 0 = true ∧ (portOf (nx (.dataFrame 0 (dataIn 0 0 false)) up) 0).hubOps.length = 1 := by decide +kernel
/-- A class-0 flit of port 0 waits in front of the others. -/
def laneTaken : State := { up with c0wait := [{ egress := 79, ingress := 0, frame := {}, flit := { fclass := 0, fkind := 1 } }] }
theorem test_data_frame_waits_behind_its_lane : c0LaneFree laneTaken 0 = false ∧
    (portOf (nx (.dataFrame 0 (dataIn 0 0 false)) laneTaken) 0).hubOps = [] ∧
    (nx (.dataFrame 0 (dataIn 0 0 false)) laneTaken).c0wait.length = 2 := by decide +kernel
theorem test_data_frame_without_credit : crGet ({} : Cr4) 1 < flitsFor 40 ∧
    (portOf (nx (.dataFrame 0 (dataIn 0 1 false)) (withPort 0 fun x => { x with rxGrant := {} })) 0).state = .retrain := by decide +kernel
theorem test_data_frame_with_a_header_error : headerError up 0 { parseHdr (dataIn 0 1 false).bytes with c1kind := 1 } = true ∧
    headerError up 1 (parseHdr (dataIn 0 2 false).bytes) = true := by decide +kernel
theorem test_data_frame_older_and_newer : older 4095#12 (0#12) = true ∧ newer 2047#12 0#12 = true ∧
    (portOf (nx (.dataFrame 0 (dataIn 4095 1 false)) up) 0).rxEp = false ∧ (portOf (nx (.dataFrame 0 (dataIn 2047 1 false)) up) 0).rxEp = true ∧
    smGet 0 (nx (.dataFrame 0 (dataIn 1 1 false)) (withPort 0 fun x => { x with rxEp := true })).tally (tallyAt .outOfSequence 0) = 1 := by
  decide +kernel

def replaying : State := withPort 0 fun x => { x with replay := [sent1, { sent1 with seq := 5, pend := false }] }
theorem test_ack_frees_up_to_its_seq : controlGood (wire {} kAck true 0 0 4) kAck = true ∧ (parseHdr (wire {} kAck true 0 0 4).bytes).ackv = true ∧
    (portOf (nx (.ack 0 (wire {} kAck true 0 0 4)) replaying) 0).replay.map (·.seq) = [5] := by decide +kernel
theorem test_credit_adds_to_its_class : controlGood (wire {} kCredit true 1 255 4) kCredit = true ∧
    (portOf (nx (.credit 0 (wire {} kCredit true 1 255 4)) replaying) 0).txCred.c1 = 383 := by decide +kernel
theorem test_nak_resends_the_rest : controlGood (wire {} kNak false 0 0 5) kNak = true ∧
    ((portOf replaying 0).replay.any fun g => newer g.seq (5#12 - 1)) = true ∧
    (portOf (nx (.nak 0 (wire {} kNak false 0 0 5)) replaying) 0).replay.map (·.seq) = [5] := by decide +kernel
theorem test_ninth_nak_retrains :
    (portOf (nx (.nak 0 (wire {} kNak false 0 0 4))
      (withPort 0 fun x => { x with replay := [sent1], txEp := some { oldest := 4, start := up.now, replays := 8 } })) 0).state = .retrain := by
  decide +kernel
theorem test_fec_uncorrectable_counts : smGet 0 (nx (.fecUncorrectable 63) up).tel (telLnk 63 12) = 1 := by decide +kernel
theorem test_stray_body_flit_starts_an_episode : (portOf (nx (.strayBodyFlit 0) up) 0).rxEp = true := by decide +kernel
theorem test_replay_timer_at_500ns : sent1.pend = false ∧ sent1.sentAt + 500 ≤ up.now ∧ (portOf replaying 0).txEp = none ∧
    ((portOf (nx (.replayTimer 0) replaying) 0).replay.all (·.pend)) = true := by decide +kernel
theorem test_episode_timeout_at_1500ns :
    (portOf (nx (.episodeTimeout 0) (withPort 0 fun x => { x with txEp := some { oldest := 4, start := up.now - 1500, replays := 1 } })) 0).state =
      .retrain := by decide +kernel

def queued : State := withPort 0 fun x => { x with txq := [{ cls := 2, src := 5, dst := 6, payload := [7] }, { cls := 1, src := 5, dst := 6 }] }
theorem test_link_frame_send : (portOf queued 0).replay.any (·.pend) = false ∧ pickFrame (portOf queued 0) 1 = some 1 ∧
    sendable (portOf queued 0) { cls := 1, src := 5, dst := 6 } = true ∧ fenceClear queued 0 { cls := 1, src := 5, dst := 6 } = true ∧ (portOf (nx (.linkFrameSend 0 1) queued) 0).nextTx = 1 ∧
    (portOf (nx (.linkFrameSend 0 1) queued) 0).txq.length = 1 := by decide +kernel
theorem test_resend_goes_first : ((portOf queued 0).txq.length = 2) ∧
    (portOf (nx (.linkFrameSend 0 1) (withPort 0 (fun x => { x with replay := [{ sent1 with pend := true }] }) queued)) 0).txq.length = 2 := by
  decide +kernel

/-- A fenced LINK_SIGNAL in port 0's buffer. -/
def fencedIn : State := withPort 0 fun x => { x with rxFenced := [(2, 0, frameOf (dataIn 0 0 true).bytes .none)], accNo := 2 }
theorem test_fenced_handover : earlierHanded fencedIn 0 2 = true ∧ c0LaneFree fencedIn 0 = true ∧ (portOf (nx (.fencedHandover 0) fencedIn) 0).hubOps.length = 1 := by
  decide +kernel
theorem test_fenced_handover_waits :
    earlierHanded (withPort 0 (fun x => { x with rxq := [{ frame := {}, no := 1, stored := false }] }) fencedIn) 0 2 = false ∧
    earlierHanded { fencedIn with c0wait := laneTaken.c0wait.map fun w => { w with no := 1 } } 0 2 = false ∧
    earlierHanded { fencedIn with c0wait := laneTaken.c0wait.map fun w => { w with no := 3 } } 0 2 = true ∧
    c0LaneFree { fencedIn with c0wait := laneTaken.c0wait.map fun w => { w with no := 3 } } 0 = false := by
  decide +kernel
def routeHeld : State := { up with routeHold := [(6, [{ cls := 0, fence := true, dst := 6 }])] }
theorem test_fenced_route_release : oldRouteClear routeHeld 6 = true ∧ smGet [] (nx (.fencedRouteRelease 6) routeHeld).routeHold 6 = [] ∧
    (portOf (nx (.fencedRouteRelease 6) routeHeld) 0).txq.length = 1 := by decide +kernel
theorem test_fenced_route_waits :
    oldRouteClear (withPort 1 (fun x => { x with state := .up, txq := [{ cls := 2, dst := 6 }] }) routeHeld) 6 = false := by decide +kernel
def reserved0 : State := { up with c0wait := [{ egress := 0, ingress := 1, frame := { dst := 6 }, flit := { fclass := 0, fkind := 1 }, buf := .reserve }],
                                   poolRes := 1 }
theorem test_reserve_release : (reserved0.c0wait.findIdx? (fun w => decide (w.egress = 0) && w.buffered)) = some 0 ∧ keepsRoute reserved0 0 = true ∧
    0 < (portOf reserved0 0).txCred.c0 ∧ (portOf reserved0 0).c0Out < 16 ∧ (nx (.class0ReserveRelease 0) reserved0).poolRes = 0 ∧
    (portOf (nx (.class0ReserveRelease 0) reserved0) 0).txq.length = 1 := by decide +kernel
def unreserved : State := { up with c0wait := [{ egress := 79, ingress := 1, frame := { dst := 6 }, flit := { fclass := 0, fkind := 1 }, inFord := true }] }
theorem test_pool_allocates_the_reserve : rotPick unreserved.rotPtr ((requesters unreserved).filter (96 ≤ ·)) = some (96 + 1) ∧ unreserved.poolRes < 256 ∧
    (nx .poolAllocate unreserved).poolRes = 1 := by decide +kernel
/-- A frame of five flits at the head of port 1's lane: it needs two buffers. -/
def laned (n : Nat) : State := withPort 1 fun x => { x with rxq := [{ frame := { cls := 1 }, no := 1, flits := n, ford := min n 16 }] }
theorem test_pool_allocates_a_shared_buffer : (requesters (laned 5)).filter (96 ≤ ·) = [] ∧
    rotPick (laned 5).rotPtr ((requesters (laned 5)).filter (· < 96)) = some 1 ∧
    ((laneHead (portOf (laned 5) 1).rxq).map fun i => (takeBuf i).stored) = some false ∧ (nx .poolAllocate (laned 5)).poolUsed = 1 ∧
    ((portOf (nx .poolAllocate (laned 5)) 1).rxq.map fun i => (i.bufs, i.ford, i.stored)) = [(1, 1, false)] := by decide +kernel
theorem test_pool_is_empty : requesters (laned 5) ≠ [] ∧ sharedBuffers up = 98048 ∧
    smGet 0 (nx .poolAllocate { laned 5 with poolUsed := 98048 }).tel (telEng 0) = 1 ∧
    (nx .poolAllocate { laned 5 with poolUsed := 98047 }).poolUsed = 98048 := by decide +kernel
theorem test_fords_hold_their_depth : ((fordFill 16 [{ frame := {}, flits := 9 }, { frame := {}, flits := 9 }]).map (·.ford)) = [9, 7] ∧
    fordOpen (unlocked 16) (inputBrook 7) = false ∧ fordOpen (unlocked 34) 0 = false ∧ fordDepth (brookKind 31) = 16 ∧ fordDepth (brookKind 32) = 32 ∧
    fordDepth (brookKind 35) = 8 ∧ class0Depth (brookKind 15) = 0 ∧ class0Depth (brookKind 27) = 4 ∧ class0Depth (brookKind 28) = 0 := by decide +kernel

/-! ## Fabric ports -/

def fbWith (g : FbPort → FbPort) (s : State := up) : State := modFb s 2 g
theorem test_fabric_pass_leaves_on_its_route : OpTaken up 2 ∧ routeTo up 6 = some 0 ∧ linkClass0Free up 0 = true ∧ c0LaneFree up (64 + 2) = true ∧
    (portOf (nx (.fabricPass 2 3 6 0x10 false [1]) up) 0).txq.length = 1 := by decide +kernel
theorem test_fabric_pass_waits_without_credit : linkClass0Free (withPort 0 fun x => { x with c0Out := 16 }) 0 = false ∧
    (nx (.fabricPass 2 3 6 0x10 false [1]) (withPort 0 fun x => { x with c0Out := 16 })).c0wait.length = 1 := by decide +kernel
theorem test_fabric_pass_fenced : (portOf (nx (.fabricPass 2 3 6 0x10 true [1]) up) 0).txq.length = 1 := by decide +kernel
theorem test_fabric_pass_without_route : routeTo up 9 = none ∧ (nx (.fabricPass 2 3 9 0x10 false [1]) up).log.any = true ∧
    smGet 0 (nx (.fabricPass 2 3 6 0x10 false (List.replicate 41 0)) up).tel (telFab 2 6) = 1 := by decide +kernel
theorem test_fabric_data_gathers : (fbOf (nx (.fabricData 2 { som := true, eom := false, poison := false, eng := 6, dfb := 1, body := [1] }) up) 2).open2 =
    some { eng := 6, dfb := 1, body := [1], sent := 1 } := by decide +kernel
def halfway : State := fbWith fun x => { x with open2 := some { eng := 6, dfb := 1, body := [1] } }
theorem test_fabric_data_leaves_whole : cannotCarry halfway { eng := 6, dfb := 1, body := [1, 2] } = false ∧
    messagePasses halfway 2 { eng := 6, dfb := 1, body := [1, 2] } = true ∧
    ((portOf (nx (.fabricData 2 { som := false, eom := true, poison := false, eng := 6, dfb := 1, body := [2] }) halfway) 0).txq.map (·.payload)) =
      [[1, 2]] := by decide +kernel
theorem test_fabric_data_poisoned :
    (portOf (nx (.fabricData 2 { som := false, eom := true, poison := true, eng := 6, dfb := 1, body := [2] }) halfway) 0).txq = [] := by decide +kernel
/-- The link port toward engine 6 has no credit for a class-2 frame. -/
def fullLink : State := withPort 0 (fun x => { x with txCred := { x.txCred with c2 := 0 } }) halfway
theorem test_fabric_data_waits_at_its_port : messagePasses fullLink 2 { eng := 6, dfb := 1, body := [1, 2] } = false ∧
    ((fbOf (nx (.fabricData 2 { som := false, eom := true, poison := false, eng := 6, dfb := 1, body := [2] }) fullLink) 2).rxw.map
      fun i => (i.flits, i.frame.payload)) = [(1, [1, 2])] ∧
    ((fbOf (nx (.fabricData 2 { som := false, eom := false, poison := false, eng := 6, dfb := 1, body := [2] }) fullLink) 2).open2.map (·.kept)) = some 1 ∧
    cannotCarry up { eng := 9, dfb := 1, body := [1] } = true := by decide +kernel
theorem test_fabric_reserved_flit_counts : (fbOf up 2).open2 = none ∧ smGet 0 (nx (.fabricReservedFlit 2 (.noSom 2)) up).tel (telFab 2 6) = 1 := by
  decide +kernel
theorem test_fabric_credit_return : (2#2 : BitVec 2) ≠ 3 ∧
    (fbOf (nx (.fabricCreditReturn 2 2 255) (fbWith fun x => { x with txCred := {} })) 2).txCred.c2 = 255 := by decide +kernel
theorem test_eighth_class0_credit_activates :
    (fbOf (nx (.fabricCreditReturn 2 0 8) (fbWith fun x => { x with active := false, relAt := up.now - 10000 })) 2).active = true ∧
    (fbOf (nx (.fabricCreditReturn 2 0 7) (fbWith fun x => { x with active := false, relAt := up.now - 10000 })) 2).active = false := by decide +kernel
theorem test_bad_fhcrc_holds_the_port : (fbOf (nx (.fabricFhcrcFail 2) up) 2).held = true := by decide +kernel
theorem test_fabric_credit_timeout : fbInUse up 2 = true ∧
    (fbOf (nx (.fabricCreditTimeout 2) (fbWith fun x => { x with active := false, relAt := up.now - 10000 })) 2).held = true := by decide +kernel
def heldPort : State := fbWith fun x => { x with held := true, heldAt := up.now - 10000000, txCred := {} }
theorem test_fabric_port_reset_at_10ms : (fbOf (nx (.fabricPortResetTimer 2) heldPort) 2).pulseAt = some up.now := by decide +kernel
theorem test_fabric_port_reset_at_100ms :
    (fbOf (nx (.fabricPortResetTimer 2) (fbWith (fun x => { x with lastRst := up.now - 100000000 }) heldPort)) 2).lastRst = up.now := by decide +kernel
theorem test_port_reset_of_a_fabric_port : MailboxFree up ∧ (argOf up (args [0x102]) 0).getLsbD 8 = true ∧ fbInUse up 2 = true ∧
    (nx (.portReset (args [0x102])) up).mbx.busy = true ∧ (fbOf (nx (.portReset (args [0x102])) up) 2).inReset = true := by decide +kernel
theorem test_port_reset_of_a_link_port : (portOf (nx (.portReset (args [0])) up) 0).state = .down := by decide +kernel
theorem test_port_reset_release : (fbOf (nx (.portResetRelease true 2) (fbWith fun x => { x with inReset := true, pulseAt := some (up.now - 1000) })) 2).inReset =
    false ∧ (portOf (nx (.portResetRelease false 0) (withPort 0 fun x => { x with phyRst := true, pulseAt := some (up.now - 1000) })) 0).phyRst = false := by
  decide +kernel

/-! ## Admission, prompts and Fen searches -/

/-- A small vocabulary: "a", "b", "ab" and EOSTOK. -/
def ab : Vocab :=
  { ntok := 4, eostok := 3, tokens := [⟨[0x61], true⟩, ⟨[0x62], true⟩, ⟨[0x61, 0x62], true⟩, ⟨[], false⟩],
    base := (List.range 256).map fun b => if b = 0x62 then 1 else 0, fallback := List.replicate 256 0,
    pairs := [{ left := 0, right := 1, result := 2, rank := 0 }] }
/-- A grammar over it that accepts "a" once, with a push and a pop on "b". -/
def gram : Grammar :=
  { vntok := 4, start := 0, cmap := [0, 1, 2, 0], masks := [[1], []],
    states := [{ maskid := 0, accept := false, trans := [⟨0, 1, [], []⟩, ⟨1, 0, [], [7]⟩], refs := [1] },
               { maskid := 1, accept := true, trans := [⟨1, 1, [7], []⟩], refs := [1] }] }
def nearObj (k : ObjKind) (c : Content) : Obj := { state := .home, kind := k, home := { tier := .near, pool := true }, owner := 3, size := 65536, content := c }
/-- The classifier set of tenant 3. -/
def set3 : SetRec := { tenant := 3, minRills := 1, thresh := 5, cap := 2, passstr := 100, win := 65538, sum := 65539, fst := 65540, deep := 65541,
                       seed := 65542, obj := 65543 }
def desc : ClassDesc := { manIdx := 0, tensors := [], points := [{ groups := 1, tensor := none, eIn := 0 }], kbases := [] }
/-- `up` with an active set: vocabulary slot 0, grammar slot 0, the classifiers of tenant 3. -/
def ready : State :=
  { up with
    setAct := true, setEpoch := 4,
    tabA := { vocabs := [(0, 65537)], grams := [(0, 65538)], recs := [(3, set3)], masks := [(13, 0x2000), (14, 0x2010)] },
    objs := [(65536, nearObj .vocabulary (.vocab ab)), (65537, nearObj .grammar (.grammar gram)), (65538, nearObj .classifier (.classifier 0 desc)),
             (65539, nearObj .classifier (.classifier 1 desc)), (65540, nearObj .classifier (.classifier 2 desc)),
             (65541, nearObj .classifier (.classifier 3 desc)), (65542, nearObj .seed (.seed {})), (65543, nearObj .setRecord .empty)] }
/-- An SOS frame of member 6, tenant 3: request 77, vocabulary 0, no grammar, text "ab". -/
def sos : Frame :=
  { cls := 1, sos := true, src := 6, dst := 5, tenant := 3, epoch := 7, csf := 0x21,
    payload := leBytes 8 77 ++ zeros 8 ++ [0x61, 0x62] }
def sosIn (f : Frame) (s : State := ready) : State := modPort s 0 fun x => { x with rxq := [{ frame := f, no := 1, stored := true, bufs := 1 }] }

theorem test_early_checks_pass : earlyChecks ready 0 sos = none ∧ check1 ready 0 sos = none ∧ check2 ready sos = none := by decide +kernel
theorem test_check_1_refuses_an_old_epoch : roleOf ready 0 = .peer ∧ current ready 6 0 = false ∧
    earlyChecks ready 0 { sos with epoch := 0 } = some (stNotAdmitted, true) := by decide +kernel
theorem test_check_2_refuses_in_blank : earlyChecks { ready with fuses := {} } 0 sos = some (stLifecycle, true) := by decide +kernel
theorem test_check_2_refuses_without_a_set : advancing ready = false ∧ earlyChecks { ready with setAct := false } 0 sos = some (stCannotScreen, true) := by
  decide +kernel
theorem test_check_3_refuses_a_stag_in_use : stagOpen { ready with streams := [(0, { inUse := true, tenant := 3, stag := 0x21 })] } 0 3 0x21 = true ∧
    stagOpen { ready with streams := [(0, { inUse := true, tenant := 3, stag := 8, dups := [{ port := 0, stag := 0x21, src := 6 }] })] } 0 3 0x21 = true ∧
    earlyChecks { ready with streams := [(0, { inUse := true, tenant := 3, stag := 0x21 })] } 0 sos = some (stStagInUse, false) := by decide +kernel
theorem test_admission_searches_its_header : (portOf (sosIn sos) 0).rxq.length = 1 ∧ bmEn (maskOfTenant (sosIn sos) 3 ktHeader) = true ∧
    pipeRoom (sosIn sos) (maskOfTenant (sosIn sos) 3 ktHeader) = true ∧
    ((nx (.admission 0) (sosIn sos)).adms.map fun a => (a.vocabObj, a.gramObj)) = [(65536, none)] ∧
    (pipeQ (nx (.admission 0) (sosIn sos)) 0).length = 1 := by decide +kernel
theorem test_admission_refuses : (nx (.admission 0) (sosIn { sos with epoch := 0 })).adms.length = 0 ∧ keepsRoute ready 0 = true ∧
    (portOf (nx (.admission 0) (sosIn { sos with epoch := 0 })) 0).txq =
      [recordFrame ready { sos with epoch := 0 } (refuseRec { sos with epoch := 0 } stNotAdmitted 0 0)] := by decide +kernel

/-- The admission waits for check 4; a first-match result is at the Hub. -/
def deciding (r : FirstResult) : State :=
  { ready with adms := [{ frame := sos, port := 0, bufs := 1 }], fenRes := [(4, .count 0 0 [] false), (0, .first 0 r)] }
/-- Route to fabric port 2, lanes 1 and 6, POLICY 0x123. -/
def routeAct : W32 := 0x10048F12#32
theorem test_first_match_routes : actType routeAct ≠ 2 ∧ fbUsable ready (actFbport routeAct) = true ∧
    ((nx .fenFirstMatchResult (deciding (.hit routeAct 3 9))).adms.map fun a => (a.routed, a.fbport, a.policy)) = [(true, 2, 0x123)] := by decide +kernel
theorem test_first_match_denies : actType 0x20000042#32 = 2 ∧ (nx .fenFirstMatchResult (deciding (.hit 0x20000042 3 9))).adms = [] ∧
    (portOf (nx .fenFirstMatchResult (deciding (.hit 0x20000042 3 9))) 0).txq = [recordFrame ready sos (refuseRec sos stDenied 0x42 0)] := by decide +kernel
theorem test_first_match_misses : (portOf (nx .fenFirstMatchResult (deciding .miss)) 0).txq = [recordFrame ready sos (refuseRec sos stSNoRoute 0 0)] ∧
    (portOf (nx .fenFirstMatchResult (deciding .error)) 0).txq = [recordFrame ready sos (refuseRec sos stFenError 0 0)] ∧
    fbUsable { ready with cfg := { ready.cfg with fben := 0 } } (actFbport routeAct) = false := by decide +kernel

/-- The admission is routed. -/
def routed (s : State := ready) : State := { s with adms := [{ frame := sos, port := 0, bufs := 1, vocabObj := 65536, routed := true, fbport := 2, policy := 0x123 }] }
def entry77 (ended : Option Nat) : ReqEntry := { tenant := 3, reqid := 77, port := 1, stag := 8, ctx := 4, ended := ended }
theorem test_admission_opens_the_lowest_context : fbUsable routed 2 = true ∧ usable routed 65536 = true ∧ cacheHit routed 3 77 = none ∧ quotaRoom routed 3 = true ∧
    0 < cacheShare routed 3 ∧ (freshReqs routed).length = 0 ∧ freeContext routed = some 0 ∧ (streamOf (nx (.admission 0) routed) 0).inUse = true ∧
    (streamOf (nx (.admission 0) routed) 0).stag = 0x21 ∧ (objOf (nx (.admission 0) routed) 0).kind = .kvCache := by decide +kernel
theorem test_admission_repeats_an_ended_verdict :
    cacheHit { routed with reqs := [entry77 (some (ready.now - 999999999))] } 3 77 = some (entry77 (some (ready.now - 999999999))) ∧
    cacheHit { routed with reqs := [entry77 (some (ready.now - 1000000000))] } 3 77 = none ∧
    (nx (.admission 0) { routed with reqs := [entry77 (some ready.now)] }).adms = [] := by decide +kernel
theorem test_admission_joins_an_open_original :
    (streamOf (nx (.admission 0) { routed with reqs := [entry77 none], streams := [(4, { inUse := true, tenant := 3, port := 1, stag := 8 })] }) 4).dups =
      [{ port := 0, stag := 0x21, src := 6 }] := by decide +kernel
theorem test_admission_busy_without_quota : quotaRoom { routed with cfg := { ready.cfg with ten := [(3, { en := true, ctxq := 0 })] } } 3 = false ∧
    retryUnits 50000 = 5 := by decide +kernel
theorem test_admission_refuses_a_lost_vocabulary : usable (routed (setObj ready 65536 {})) 65536 = false ∧
    (nx (.admission 0) (routed (setObj ready 65536 {}))).adms = [] := by decide +kernel

/-- A stream in context 0 on port 1 and fabric port 2, with prompt text. -/
def str : Stream :=
  { inUse := true, port := 1, stag := 0x21, tenant := 3, src := 9, vocabObj := 65536, fbport := 2, buf := [0x61, 0x62, 0x61, 0xC3], textLen := 4,
    segs := [{ len := 4, within := true, bufs := 1 }], promptBufs := 1, setEpoch := 4 }
def withStr (x : Stream) (s : State := ready) : State := { s with streams := [(0, x)] }
theorem test_units_of_a_partial_sequence : (decodeUnits false 4 [0x61, 0xC3, 0xA9, 0xE2]).2 = [0xE2] ∧
    ((decodeUnits true 4 [0x61, 0xC3, 0xA9, 0xE2]).1.map (·.valid)) = [true, true, false] := by decide +kernel
theorem test_chunk_stops_at_64_bytes : unitsLen (List.replicate 64 ⟨[0x61], true⟩) ≤ 64 ∧
    ((addUnits ab 0 (List.replicate 64 ⟨[0x61], true⟩) [⟨[0x62], true⟩]).1.map fun k => unitsLen k.units) = [64] := by decide +kernel
theorem test_intake_reads_a_prompt : lockedOn (withStr str) (streamBrook (withStr str) 0) = true ∧ laneStalled (withStr str) 0 = false ∧
    laneNext (withStr str) 0 = some 0 ∧ (streamOf (nx (.intakeLaneRead 0) (withStr str)) 0).buf = [0xC3] ∧ (streamOf (nx (.intakeLaneRead 0) (withStr str)) 0).promptBufs = 0 := by
  decide +kernel
theorem test_intake_ends_a_prompt : (streamOf (nx (.intakeLaneRead 0) (withStr { str with promptEnd := true })) 0).intakeDone = true ∧
    (streamOf (nx (.intakeLaneRead 0) (withStr { str with promptEnd := true })) 0).chunks.length = 1 := by decide +kernel
/-- Contexts 0 and 1 share lane 0: the bytes of context 0 came beyond their contract. -/
def twoStreams : State := { ready with streams := [(0, { str with segs := [{ len := 4, within := false, bufs := 1 }] }), (1, { str with stag := 8 })] }
theorem test_lane_serves_its_contract_first : laneNext twoStreams 0 = some 1 ∧ (nx (.intakeLaneRead 0) twoStreams) = twoStreams ∧
    laneNext { twoStreams with laneTurn := [(turnOf 0 true, 1)], streams := [(0, str), (1, str)] } 0 = some 1 ∧
    laneNext { twoStreams with laneTurn := [(turnOf 0 false, 1), (turnOf 0 true, 2)], streams := [(0, str), (1, str)] } 0 = some 0 := by decide +kernel
theorem test_merge_prefers_the_pair : (mergeChunk ab [⟨[0x61], true⟩, ⟨[0x61], true⟩, ⟨[0x62], true⟩]).map (·.id) = [0, 2] := by decide +kernel
def chunked : Stream := { str with buf := [], segs := [], chunks := [{ off := 0, units := [⟨[0x61], true⟩, ⟨[0x62], true⟩] }], intakeDone := true }
theorem test_lane_stalls_while_tokens_wait : laneStalled (withStr { chunked with tokens := [{ id := 0, fb := false, off := 0 }] }) 0 = true := by decide +kernel
theorem test_merge_wave_gives_tokens : chunked.chunks.length = 1 ∧ laneStalled (withStr chunked) chunked.inlane = false ∧
    (streamOf (nx (.mergeWave 0) (withStr chunked)) 0).tokens = [{ id := 2, fb := false, off := 0 }] := by decide +kernel
/-- A header entry of tenant 3 that matches every key of its type: priority 9 at index 5, priority 9 at index 3, priority 7 at index 1. -/
def hdrEntry (prio : Nat) : FenEntry :=
  setValid (BitVec.ofNat 448 (1 + 16 * 3 + 0x3FF * 2 ^ 192 + prio * 2 ^ 384 + 0x10000402 * 2 ^ 400)) true
def searching (m : W16) : State :=
  putEntry (putEntry (putEntry { ready with fenQ := [(0, [.header 0 3 (headerKey 3 0 6 (parsePreamble sos.payload) 0x21) m])] } 0 5 (hdrEntry 9))
    0 3 (hdrEntry 9)) 0 1 (hdrEntry 7)
theorem test_search_answers_the_winner : (fenHits (searching 0x2000) 0x2000 (headerKey 3 0 6 (parsePreamble sos.payload) 0x21)).length = 3 ∧
    (fenWinner (fenHits (searching 0x2000) 0x2000 (headerKey 3 0 6 (parsePreamble sos.payload) 0x21))).map (·.1) = some 3 ∧
    (nx (.fenSearch 0) (searching 0x2000)).fenRes = [(0, .first 0 (.hit 0x10000402 3 9))] := by decide +kernel
theorem test_search_of_no_bank_misses : (nx (.fenSearch 0) (searching 0x0000)).fenRes = [(0, .first 0 .miss)] := by decide +kernel
theorem test_search_of_a_suspect_bank_fails : (nx (.fenSearch 0) { searching 0x2000 with suspect := [0] }).fenRes = [(0, .first 0 .error)] := by decide +kernel
theorem test_count_search_answers_every_match : (nx (.fenSearch 4) { ready with fenQ := [(4, [.count 0 0 false 0 0x2010])] }).fenRes = [(4, .count 0 0 [] false)] := by
  decide +kernel
def counted (hits : List (Nat × W32)) (err : Bool) : State :=
  { withStr { chunked with tokens := [{ id := 2, fb := false, off := 0 }], issued := 1, weights := [4], chunks := [], sketch := [(5, 32767)] } with
    fenRes := [(0, .first 0 .miss), (4, .count 0 0 hits err)] }
theorem test_count_result_adds_its_weights : actVreq 0x30030005#32 ≠ 1 ∧ actVreq 0x30030005#32 ≠ 2 ∧
    (streamOf (nx .fenCountResult (counted [(1, 0x30030005)] false)) 0).weights = [7] ∧
    smGet 0 (streamOf (nx .fenCountResult (counted [(1, 0x30030005)] false)) 0).sketch 5 = 32767 := by decide +kernel
theorem test_count_result_takes_part_in_the_verdict : actVreq 0x34000001#32 = 1 ∧ actVreq 0x38000002#32 = 2 ∧
    (streamOf (nx .fenCountResult (counted [(1, 0x34000001), (1, 0x38000002)] false)) 0).worst = .refuse ∧
    (streamOf (nx .fenCountResult (counted [(1, 0x34000001), (1, 0x38000002)] false)) 0).spans.length = 1 := by decide +kernel
theorem test_some_marker_is_a_marker : someMarker { set3 with markers := [⟨8, 0, [0x2A], []⟩, ⟨9, 0, [0x2B], []⟩] } 0 3 = 9 := by decide +kernel
theorem test_count_result_error_ends_the_stream : (streamOf (nx .fenCountResult (counted [] true)) 0).inUse = false := by decide +kernel

/-! ## Rill programs, answers and the deep stage -/

def passOut : ProgOut := { verdicts := [⟨.pass, 0, []⟩, ⟨.pass, 0, []⟩], ops := [], flips := [], sramErr := none }
def outOf (sev : Sev) : ProgOut := { passOut with verdicts := [⟨sev, 0x77, []⟩] }
def jobbed (j : List Job) (s : State := withStr str) : State := { s with jobs := j }
def prog (j : Job) (rills : List Nat) (o : Nat := 65539) : Prog :=
  { job := j, rills := rills, obj := o, tenant := 3, kvCtx := stepCtx j }
theorem test_dispatch_starts_the_first_job : jobObj (jobbed [.summary 0]) (.summary 0) = some (65539, 3) ∧
    (objOf (jobbed [.summary 0]) 65539).home.tier = .near ∧ (∀ n ∈ [127, 0], rillFree ready n = true ∧ lockedOn ready (n / 8) = true) ∧
    smGet [] (nx (.rillDispatch [127, 0]) (jobbed [.summary 0])).progs 0 = [prog (.summary 0) [127, 0]] ∧
    (plotOf (nx (.rillDispatch [127, 0]) (jobbed [.summary 0])) 127).usedAt = up.now + 1 := by decide +kernel
theorem test_dispatch_waits_in_its_brook : rillFree { jobbed [.summary 0] with progs := [(8, [prog (.summary 1) [127]])] } 127 = false ∧
    smGet [] (nx (.rillDispatch [127]) { jobbed [.summary 0] with progs := [(8, [prog (.summary 1) [127]])] }).disp 15 = [prog (.summary 0) [127]] ∧
    rillsReady (unlocked 15 (jobbed [.summary 0])) [127] = false ∧ (nx (.rillDispatch [127]) (unlocked 15 (jobbed [.summary 0]))).jobs = [.summary 0] := by decide +kernel
theorem test_dispatch_needs_rills_of_the_mask : ready.mask.contains 2 = false ∧ (nx (.rillDispatch [2]) (jobbed [.summary 0])).jobs = [.summary 0] ∧
    (nx (.rillDispatch []) (jobbed [.summary 0])).jobs = [.summary 0] := by decide +kernel
/-- A job whose classifier moves out of the slow tier stands in front of another. -/
def behind : State :=
  setObj (jobbed [.summary 0, .window 0 0 false]) 65539 { nearObj .classifier (.classifier 1 desc) with home := { tier := .slow }, state := .moving }
theorem test_dispatch_passes_a_job_that_moves : (objOf behind 65539).home.tier = .slow ∧ (objOf behind 65539).state ≠ .home ∧
    (objOf behind 65538).home.tier = .near ∧ (nx (.rillDispatch [127]) behind).jobs = [.summary 0] := by decide +kernel
/-- The summary classifier lies in the slow tier and its manifest names the far tier. -/
def slowSet : State := setObj (jobbed [.summary 0]) 65539 { nearObj .classifier (.classifier 1 desc) with home := { tier := .slow } }
theorem test_dispatch_moves_a_slow_classifier : moveAllowed slowSet 65539 { tier := .far } = false ∨
    (roomIn slowSet { tier := .far } 65536 = true ∧ (objOf (nx (.rillDispatch [127]) slowSet) 65539).state = .moving) := by decide +kernel
theorem test_slow_classifier_may_move : moveAllowed slowSet 65539 { tier := .far } = true := by decide +kernel
def inFlight (j : Job) (s : State) (o : Nat := 65539) : State := { s with progs := [(8, [prog j [0] o])] }
theorem test_window_verdict_joins : (∀ n ∈ (prog (.window 0 0 false) [0]).rills, lockedOn ready (n / 8) = true) ∧ ownError (prog (.window 0 0 false) [0]) (outOf .redact) = none ∧
    stepStalls ready 8 (prog (.window 0 0 false) [0]) {} = false ∧
    (streamOf (nx (.rillProgramComplete 8 (outOf .redact)) (inFlight (.window 0 0 false) (withStr { str with outstanding := 2 }))) 0).worst = .redact ∧
    (streamOf (nx (.rillProgramComplete 8 (outOf .redact)) (inFlight (.window 0 0 false) (withStr { str with outstanding := 2 }))) 0).outstanding = 1 := by
  decide +kernel
def lastPart : Stream := { str with outstanding := 1, finalQueued := true, endAt := up.now, tokens := [{ id := 2, fb := false, off := 0 }] }
theorem test_last_verdict_forwards_the_prompt :
    (streamOf (nx (.rillProgramComplete 8 passOut) (inFlight (.summary 0) (withStr lastPart))) 0).verdictDone = true ∧
    (streamOf (nx (.rillProgramComplete 8 passOut) (inFlight (.summary 0) (withStr lastPart))) 0).fwdIds = 1 := by decide +kernel
theorem test_last_verdict_refuses : (streamOf (nx (.rillProgramComplete 8 (outOf .refuse)) (inFlight (.summary 0) (withStr lastPart))) 0).inUse = false := by
  decide +kernel
/-- An answer stream: one byte of token 0 released, one of token 1 written. -/
def answering : Stream :=
  { str with verdictDone := true, tokens := [], buf := [], outToks := 2, stepped := 1, stepping := some 1, ansAt := [up.now], eddyBufs := 1,
             ansLen := 2, eddy := [⟨0x61, 0, .released, 0, 1⟩, ⟨0x62, 1, .written, 1, 2⟩] }
/-- What a whole step does: it writes its slot in every plane, and runs the calibrated point of `desc`. -/
def wholeOps : List (Nat × RillOp) :=
  (0, .kvWrite 0 0) :: (0, .scores 0 0 64 (.point 0 1 160 192) 128) :: (List.range' 1 95).map fun n => (0, .kvWrite n 0)
def stepOf (sev : Sev) : ProgOut := { outOf sev with ops := wholeOps }
def stepJob : Job := .firstStage 0 1 (some {})
def stepping : State := inFlight stepJob (withStr answering)
theorem test_whole_step : wholeStep desc wholeOps = true ∧ progFits stepping (prog stepJob [0]) (stepOf .pass) = true ∧
    progFits stepping (prog stepJob [0]) passOut = false ∧ nx (.rillProgramComplete 8 passOut) stepping = stepping := by decide +kernel
theorem test_first_stage_pass_releases : stepStalls stepping 8 (prog stepJob [0]) (runProg stepping (prog stepJob [0]) (stepOf .pass)).1 = false ∧
    ((streamOf (nx (.rillProgramComplete 8 (stepOf .pass)) stepping) 0).eddy.map (·.st)) = [.released, .released] ∧
    (streamOf (nx (.rillProgramComplete 8 (stepOf .pass)) stepping) 0).stepped = 2 := by decide +kernel
theorem test_first_stage_hold_holds :
    ((streamOf (nx (.rillProgramComplete 8 (stepOf .hold)) stepping) 0).eddy.map (·.st)) = [.released, .held] := by decide +kernel
theorem test_first_stage_refuse_ends : (streamOf (nx (.rillProgramComplete 8 (stepOf .refuse)) stepping) 0).inUse = false := by decide +kernel
def deepJob : Job := .deep 3 0 [(0, 1)] up.now false
theorem test_deep_pass_clears_its_snapshot : (streamOf (nx (.rillProgramComplete 8 passOut) (inFlight deepJob (withStr answering))) 0).eddyOff = 1 ∧
    ((streamOf (nx (.rillProgramComplete 8 passOut) (inFlight deepJob (withStr answering))) 0).eddy.map (·.st)) = [.written] := by decide +kernel
theorem test_deep_pass_ends_a_finished_text :
    (streamOf (nx (.rillProgramComplete 8 passOut) (inFlight (.deep 3 0 [(0, 2)] up.now false)
      (withStr { answering with textEnded := true, stepped := 2, eddy := [⟨0x61, 0, .released, 0, 1⟩, ⟨0x62, 1, .released, 1, 2⟩] }))) 0).inUse = false := by decide +kernel
theorem test_deep_hold_refuses : (streamOf (nx (.rillProgramComplete 8 (outOf .hold)) (inFlight deepJob (withStr answering))) 0).inUse = false := by
  decide +kernel
def sramOut : ProgOut := { passOut with sramErr := some { rill := 0, bank := 1, word := 2 } }
def inRill0 : State := setObj (withStr str) 65539 { nearObj .classifier (.classifier 1 desc) with home := { tier := .near, rill := 0 } }
theorem test_sram_error_loses_the_object : objAt inRill0 0 2 = some 65539 ∧ objAt inRill0 0 (8192 + 2) = none ∧
    (objOf (nx (.rillProgramComplete 8 sramOut) (inFlight (.summary 0) inRill0)) 65539).state = .lost ∧
    (nx (.rillProgramComplete 8 sramOut) (inFlight (.summary 0) inRill0)).mask.contains 0 = false := by decide +kernel

/-- Rill 0 writes int8 7 to its own SRAM; a single bit of it flips while the program runs. -/
def storing : ProgOut := { passOut with ops := [(0, .input 64 [7])], flips := [(0, 3)] }
theorem test_program_changes_its_own_sram : smGet [] (nx (.rillProgramComplete 8 storing) (inFlight (.summary 0) (withStr { str with outstanding := 2 }))).sram 0 = [(64, 7)] ∧
    (prog (.summary 0) [0]).rills.Nodup ∧ (runOn ready (prog (.summary 0) [0]) 0).rills ≠ [] := by decide +kernel

theorem test_units_at_their_bounds : (firstPassRow [100, 0, 3] 10).clamp = false ∧ ((firstPassRow [100, 0, 3] 10).groups.map fun w => decide (w.omul = 0)) = [false, true, false] ∧
    kvGroupWords 32768 = (16256, 22, 1032, 0) ∧ kvGroupWords 1 = (16256, 7, 1032, 15) ∧ combined 4095 4095 = 65504 ∧
    (requantise 127 { omul := 32768, oshift := 15, wide := false, tbl := true } 0 ((List.range 256).map Int.ofNat)).1 = 255 ∧
    requantise 128 { omul := 32768, oshift := 15, wide := false, tbl := false } 0 [] = (127, true) ∧
    requantise 32768 { omul := 32768, oshift := 15, wide := true, tbl := true } 0 [] = (32767, true) ∧
    (weighReq 0xF005 60).oshift = 63 ∧ (window 2048).length = 2048 := by decide +kernel
theorem test_kv_slot : (List.replicate 64 (-5 : Int)).length = 64 ∧ kvGroupWords (maxOf ((List.replicate 64 (-5 : Int)).map Int.natAbs)) = (13004, 9, 1290, 13) ∧
    (kvCodes (kvPut [] 2050 95 (List.replicate 64 (-5))) 95 2).take 2 = [0xF, 0xF] ∧ kvScale (kvPut [] 2050 95 (List.replicate 64 (-5))) 95 2 = 0xD50A ∧
    kvScale (kvPut [] 2050 95 (List.replicate 64 (-5))) 95 3 = 0 := by decide +kernel
/-- A carried block with AEXP 0 and AMANT 1, and a product row of 127 × 127 × 256. -/
def breaching : RillRun × Option (Nat × Breach) :=
  (runStep { rills := [0], desc := { desc with tensors := [{ outputs := 1, reduction := 32, gsize := 32, codes := 0x07 :: zeros 511, scales := [0x0100], chans := [0] }] },
             homeAt := none, pos := 1, carried := none } (some { points := [(0, [1])] })
    [(0, .input 0 (0x7F :: zeros 31)), (0, .input 64 [0x00, 0x01]), (0, .product 0 0 64 96 (.point 0 1 160 192) 128)] {})
theorem test_a_step_is_recomputed_once : breaching.2.isSome = true ∧ breaching.1.breach = none := by decide +kernel

def oneBlock : CounterBlock := { rill := 127, obj := 65540, points := [{ nout := 2 ^ 48 - 1, nclamp := 65535 }], words := [(20, [2048])] }
def estimated : State := { ready with ests := [(65540, [{ nout := 7, nclamp := 1, est := [estEmpty] }])], counters := [oneBlock] }
theorem test_flush_saturates : ((smGet [] (nx .calibFlush estimated).ests 65540).map fun p => (p.nout, p.nclamp, p.nref)) = [(2 ^ 48 - 1, 65535, 1)] ∧
    (nx .calibFlush estimated).counters = [] := by decide +kernel
theorem test_calib_clear_waits_and_clears : MailboxFree estimated ∧ calibObj estimated 3 2 = some 65540 ∧
    (nx (.calibClear (args [0x203])) estimated).mbx.running = some (.calibClear 3 2) ∧
    ((smGet [] (nx .calibFlush (nx (.calibClear (args [0x203])) estimated)).ests 65540).map fun p => p.nout) = [0] := by decide +kernel
theorem test_calib_read_gives_the_table : bufferGood estimated 0 128 = true ∧ (encodeTable (smGet [] estimated.ests 65540)).length = 128 ∧
    resultReg (nx (.calibRead (args [0x203, 0, 0])) estimated) 0 = 128 ∧ calibObj up 3 2 = none ∧
    bufferGood estimated 1 128 = false := by decide +kernel

theorem test_tokens_from_the_fabric : findStream (withStr answering) 1 3 0x21 = some (0, answering) ∧ answering.verdictDone = true ∧
    answering.ansIds.contains 3 = false ∧ (streamOf (nx (.fabricTokens 2 3 1 0x21 [0, 3, 1]) (withStr answering)) 0).ansIds = [0, 3] ∧
    smGet 0 (nx (.fabricTokens 2 3 1 0x21 [0, 3, 1]) (withStr answering)).tel (telFab 2 6) = 1 := by decide +kernel
theorem test_tokens_after_the_end : answerEnded (vocabOf (withStr answering) answering) answering = false ∧
    (streamOf (nx (.fabricTokens 2 3 1 0x21 [3, 4]) (withStr answering)) 0).inUse = false ∧
    answerEnded (vocabOf (withStr answering) { answering with ansIds := [3] }) { answering with ansIds := [3] } = true ∧
    (streamOf (nx (.fabricTokens 2 3 1 0x21 [1]) (withStr { answering with ansIds := [3] })) 0).ansIds = [3] := by decide +kernel
theorem test_tokens_keep_their_credit : portWants (withStr { answering with wantBuf := 1 }) 2 = true ∧
    (fbOf (nx (.fabricTokens 2 3 1 0x21 [0]) (withStr { answering with wantBuf := 1 })) 2).owe1 = 1 ∧
    outlaneBusy (withStr { answering with ansIds := [1] }) 0 = true ∧
    (streamOf (nx (.fabricTokens 2 3 1 0x21 [0]) (withStr { answering with ansIds := [1] })) 0).backWant = 1 := by decide +kernel
theorem test_tokens_for_no_stream : findStream (withStr answering) 1 3 0x22 = none ∧
    smGet 0 (nx (.fabricTokens 2 3 1 0x22 [0]) (withStr answering)).tel (telFab 2 6) = 1 := by decide +kernel
theorem test_outflow_writes_text : (streamOf (nx (.outflowToken 0) (withStr { answering with ansIds := [2, 1] })) 0).eddy.length = 4 ∧
    (streamOf (nx (.outflowToken 0) (withStr { answering with ansIds := [2, 1] })) 0).outToks = 3 := by decide +kernel
theorem test_outflow_waits_for_a_buffer : (streamOf (nx (.outflowToken 0) (withStr { answering with ansIds := [2], eddyBufs := 0 })) 0).wantBuf = 1 := by
  decide +kernel
/-- Context 1 of the same lane waits for a buffer. -/
def laneWaits : State := { ready with streams := [(0, { answering with ansIds := [0] }), (1, { answering with wantBuf := 1 })] }
theorem test_outflow_lane_stops : outlaneStopped laneWaits 0 0 = true ∧ nx (.outflowToken 0) laneWaits = laneWaits ∧
    outlaneStopped (withStr { answering with ansIds := [2], eddyBufs := 0 }) 0 0 = false := by decide +kernel
theorem test_outflow_fills_the_text : ((streamOf (nx (.outflowToken 0) (withStr { answering with ansIds := [2, 1], ansLen := answerLimit - 1 })) 0).eddy.length = 3) ∧
    (streamOf (nx (.outflowToken 0) (withStr { answering with ansIds := [2, 1], ansLen := answerLimit - 1 })) 0).ansTrunc = true := by decide +kernel
theorem test_outflow_ends_on_an_id_out_of_range : (streamOf (nx (.outflowToken 0) (withStr { answering with ansIds := [4] })) 0).inUse = false ∧
    (streamOf (nx (.outflowToken 0) (withStr { answering with ansIds := [3] })) 0).textEnded = true := by decide +kernel
def hedged (q : Nat) (st : List Byte) (tk : Nat) : State :=
  withStr { answering with gen := true, gramObj := some 65537, ansIds := [tk], hedge := { state := q, stack := st } }
theorem test_hedge_steps : (streamOf (nx (.hedgeStep 0) (hedged 0 [] 1)) 0).hedge = { state := 0, stack := [7], pos := 1 } ∧
    makeMask gram 3 { state := 0, stack := [7], pos := 1 } = [0, 1] ∧
    (streamOf (nx (.hedgeStep 0) (hedged 1 [7] 1)) 0).hedge = { state := 1, stack := [], pos := 1 } := by decide +kernel
theorem test_hedge_violation_and_end : (streamOf (nx (.hedgeStep 0) (hedged 0 [] 2)) 0).inUse = false ∧
    (streamOf (nx (.hedgeStep 0) (hedged 0 [] 3)) 0).inUse = false ∧ accepting gram { state := 1 } = true ∧
    (streamOf (nx (.hedgeStep 0) (hedged 1 [] 3)) 0).hedged = 1 ∧ (streamOf (nx (.hedgeStep 0) (hedged 0 [] 4)) 0).hedged = 1 := by decide +kernel
theorem test_hedge_overflow_and_empty_mask : (streamOf (nx (.hedgeStep 0) (hedged 0 (List.replicate 64 7) 1)) 0).inUse = false ∧
    makeMask gram 3 { state := 1, stack := [5], pos := 1 } = [] ∧ (streamOf (nx (.hedgeStep 0) (hedged 0 [5] 0)) 0).inUse = false := by decide +kernel
/-- The grammar lies in the far tier. -/
def farGram : State := setObj (hedged 0 [] 1) 65537 { nearObj .grammar (.grammar gram) with home := { tier := .far, loc := 0x400000 } }
theorem test_hedge_reads_the_far_tier : farGrammar farGram (streamOf farGram 0) = some 65537 ∧ gramAsked farGram 0 = false ∧
    (memIssue farGram (objOf farGram 65537).home.loc.toNat 65536 false (.gram 0)).isSome = true ∧ gramAsked (nx (.hedgeStep 0) farGram) 0 = true ∧
    (streamOf (nx (.hedgeStep 0) farGram) 0).hedged = 0 := by decide +kernel
/-- A stream between steps whose carried block exists. -/
def waiting : State :=
  let b : Obj := { state := .home, kind := .pinned, owner := 3, size := 65536, home := { tier := .far, loc := 0 } }
  setObj (setObj (withStr { answering with stepping := none }) 0 b) 1 b
theorem test_first_stage_step : (0 : Nat) < 1 ∧ stepRequest waiting 0 = false ∧ lockedOn waiting 32 = true ∧ lockedOn waiting 33 = true ∧
    (recOfStream waiting (streamOf waiting 0)).seed ≠ 2 * 0 + 1 ∧
    (streamOf (nx (.firstStageStep 0) waiting) 0).stepping = some 1 ∧ (nx (.firstStageStep 0) waiting).jobs = [stepJob] := by decide +kernel

theorem test_deep_tick_gives_a_pass : ((answerStreams (withStr answering) 3).filter fun x => decide (x.2.passNo = 0)).length = 1 ∧
    (streamOf (nx (.deepTick 3) (withStr answering)) 0).passNo = 1 ∧
    (streamOf (nx (.deepTick 3) { withStr answering with tickAt := [(3, up.now + 1 - 500000)] }) 0).passNo = 1 ∧
    (streamOf (nx (.deepTick 3) { withStr answering with tickAt := [(3, up.now + 2 - 500000)] }) 0).passNo = 0 := by decide +kernel
def ticked : State := { withStr { answering with passNo := 5 } with tickAt := [(3, up.now + 1 - 352000)] }
theorem test_deep_pass_starts_at_its_offset : smGet 0 ticked.passAt 19 ≠ smGet 0 ticked.tickAt 3 ∧
    (nx (.deepPassStart 3 4) ticked).jobs = [.deep 3 4 [(0, 1)] up.now false] ∧
    (nx (.deepPassStart 3 4) { ticked with now := up.now - 1 }).jobs = [] := by decide +kernel
def overran : State := { ticked with jobs := [.deep 3 4 [(0, 1)] (up.now - 88000) false] }
theorem test_deep_pass_overrun : overdue overran 3 4 (.deep 3 4 [(0, 1)] (up.now - 88000) false) = true ∧
    (streamOf (nx (.deepPassOverrun 3 4) overran) 0).deepHold = true ∧ smGet 0 (nx (.deepPassOverrun 3 4) overran).tel (telTen 3 12) = 1 := by
  decide +kernel
theorem test_stream_deadline : (streamOf (nx (.streamDeadline 0) (withStr { answering with deadline := some up.now })) 0).inUse = false ∧
    (streamOf (nx (.streamDeadline 0) (withStr { answering with deadline := some (up.now + 1) })) 0).inUse = true ∧
    releasedPart { answering with eddy := [] } = [] ∧ keepsRoute ready 1 = true := by decide +kernel

/-! ## Fen maintenance -/

/-- An n-gram entry of tenant 3 for one token: token 2 of vocabulary 0 (R147). -/
def gramEntry : FenEntry := BitVec.ofNat 448 (2 + 16 * 3 + 2 ^ 14 + 2 * 2 ^ 30 + (0x3FF + 2 ^ 14 + (2 ^ 19 - 1) * 2 ^ 30) * 2 ^ 192 + 5 * 2 ^ 384 + 0x30010000 * 2 ^ 400)
def banked : State := { ready with cfg := { ready.cfg with bank := [(63, { owner := 3, used := true, ktype := 2 })] } }
theorem test_fen_write_is_queued : legalInBank banked 63 (entryBits gramEntry) = true ∧ uniqueInBanks banked 63 none (entryBits gramEntry) = true ∧
    (opsOf (nx (.fenWrite (args (0x3F1FFF#32 :: words32 14 gramEntry.toNat))) banked) 63).length = 1 := by decide +kernel
theorem test_fen_write_of_an_illegal_entry : legalInBank banked 63 0 = false ∧ (nx (.fenInsert (args [0x3F1FFF])) banked).mbx.err = stIllegalEntry := by
  decide +kernel
theorem test_fen_commands_wait_for_a_load : (nx (.fenRead (args [0x3F0000])) { banked with load := { banks := [63] } }).mbx.err = stBankLoading ∧
    (nx (.fenRead (args [0x3F0000])) banked).mbx.running = some (.fenOp 63) ∧
    opsOf (nx (.fenInvalidate (args [0x3F0001])) banked) 63 = [(.invalidate 1, true)] := by decide +kernel
/-- Sixteen operations wait at bank 63. -/
def fullBank : State := { banked with bankQ := [(63, List.replicate 16 (.read 9, true))] }
theorem test_fen_queue_holds_its_issuer : (opsOf fullBank 63).length = 16 ∧ heldOps (nx (.fenRead (args [0x3F0000])) fullBank) 63 = [(.read 0, true)] ∧
    (opsOf (nx (.fenBankOp 63) (nx (.fenRead (args [0x3F0000])) fullBank)) 63).length = 16 := by decide +kernel
def opAt (o : BankOp) (s : State := banked) : State := { s with bankQ := [(63, [(o, true)])] }
set_option maxRecDepth 100000 in
theorem test_bank_write_has_its_shadow : opsOf (opAt (.write 8191 gramEntry)) 63 = [(.write 8191 gramEntry, true)] ∧
    (shadowWrites 63 (distinct ((touched (opAt (.write 8191 gramEntry)) 63 (.write 8191 gramEntry)).map fun e => shadowAt 63 e / 256))
      (opAt (.write 8191 gramEntry))).isSome = true ∧
    fenValid (cellAt (nx (.fenBankOp 63) (opAt (.write 8191 gramEntry))) 63 8191).bits = true ∧
    shadowGood (shadowRec (nx (.fenBankOp 63) (opAt (.write 8191 gramEntry))) 63 8191) = true := by decide +kernel
theorem test_bank_write_waits_for_its_port : shadowWrites 63 [2047 * 16 + 2047] (unlocked 33 (unlocked 32 banked)) = none ∧
    (nx (.fenBankOp 63) (opAt (.write 8191 gramEntry) (unlocked 32 (unlocked 33 banked)))).bankDone = [] := by decide +kernel
theorem test_empty_entry_has_its_shadow : shadowGood emptyShadow = true ∧ shadowEntry emptyShadow = 0 ∧ shadowBytes 0 = emptyShadow ∧
    shadowRec ready 63 8191 = emptyShadow := by decide +kernel
theorem test_bank_read_and_invalidate : ((doneOf (nx (.fenBankOp 63) (opAt (.read 0))) 63).map (·.waits)) = [0] ∧
    ((doneOf (nx (.fenBankOp 63) (opAt (.invalidate 4))) 63).map (·.waits)) = [1] := by decide +kernel
/-- Entries 8189 and 8190 are valid. -/
def twoValid : State := putEntry (putEntry banked 63 8189 (setValid gramEntry true)) 63 8190 (setValid 77#448 true)
theorem test_bank_insert_moves_the_run : firstInvalid twoValid 63 8189 = some 8191 ∧
    (cellAt (nx (.fenBankOp 63) (opAt (.insert 8189 5#448) twoValid)) 63 8191).bits = setValid 77#448 true ∧
    (cellAt (nx (.fenBankOp 63) (opAt (.insert 8189 5#448) twoValid)) 63 8189).bits = setValid 5#448 true := by decide +kernel
theorem test_bank_insert_without_room :
    ((doneOf (nx (.fenBankOp 63) (opAt (.insert 8191 5#448) (putEntry banked 63 8191 (setValid gramEntry true)))) 63).map (·.status)) = [stFenBankFull] := by
  decide +kernel
def doneOp (w : Nat) : State :=
  { banked with bankDone := [(63, [{ op := .read 0, status := 0, data := 5, waits := w, fromHost := true }])], suspect := [63],
                mbx := { busy := true, ctag := 0x51, running := some (.fenOp 63) } }
theorem test_fen_op_completes : Finished (doneOp 0) (nx (.fenOpComplete 63) (doneOp 0)) 0 ∧ resultReg (nx (.fenOpComplete 63) (doneOp 0)) 0 = 5 ∧
    (nx (.fenOpComplete 63) (doneOp 0)).suspect = [63] ∧
    (nx (.fenOpComplete 63) { doneOp 0 with bankDone := [(63, [{ op := .write 0 0, status := 0, data := 0, waits := 0, fromHost := false }])] }).suspect = [] ∧
    (nx (.fenOpComplete 63) { doneOp 0 with bankDone := [(63, [{ op := .write 0 0, status := 0, data := 0, waits := 0, fromHost := false }])],
                                            bankQ := [(63, [(.write 1 0, false)])] }).suspect = [63] ∧ (doneOf (nx (.fenOpComplete 63) (doneOp 1)) 63).length = 1 := by decide +kernel
theorem test_fen_mask : (∀ k ∈ bmBanks 0x203F#16, k / 4 = bmA 0x203F#16 / 4 ∧ (bankCfgOf banked k).used = true ∧ (bankCfgOf banked k).ktype = 2 ∧
      (bankCfgOf banked k).owner = 3) ∧ smGet 0 (actTab (nx (.fenMask (args [0x203, 0x203F])) banked)).masks 14 = 0x203F ∧
    (nx (.fenMask (args [0x203, 0x203E])) banked).mbx.err = stMaskRefused ∧
    smGet 0 (actTab (nx (.fenMask (args [0x203, 0x003E])) banked)).masks 14 = 0x003E := by decide +kernel
def goodPair : State := putShadow (putEntry ready 5 0 (setValid gramEntry true)) 5 0
set_option maxRecDepth 100000 in
theorem test_scrub_leaves_a_good_pair : shadowGood (shadowRec goodPair 5 0) = true ∧ parityGood (cellAt goodPair 5 0) = true ∧
    (scrubEntry goodPair 5 0).fen = goodPair.fen ∧ (scrubEntry goodPair 5 0).suspect = [] := by decide +kernel
set_option maxRecDepth 100000 in
theorem test_scrub_repairs_the_entry : parityGood (cellAt { goodPair with fen := [(40960, { bits := 1, par := 0 })] } 5 0) = false ∧
    (cellAt (scrubEntry { goodPair with fen := [(40960, { bits := 1, par := 0 })] } 5 0) 5 0).bits = setValid gramEntry true := by decide +kernel
set_option maxRecDepth 100000 in
theorem test_scrub_repairs_the_shadow : shadowGood (shadowRec { goodPair with far := [(64 * 40960, 1)] } 5 0) = false ∧
    shadowGood (shadowRec (scrubEntry { goodPair with far := [(64 * 40960, 1)] } 5 0) 5 0) = true := by decide +kernel
theorem test_scrub_marks_a_bank_suspect :
    (scrubEntry { goodPair with far := [(64 * 40960, 1)], fen := [(40960, { bits := 1, par := 0 })] } 5 0).suspect = [5] := by decide +kernel
theorem test_scrub_moves_on : Up ready ∧ ready.boot.farBad = false ∧ bankBusy ready 0 = false ∧ lockedOn ready 28 = true ∧
    smGet 0 (nx .fenScrub { ready with scrubPos := [(0, 8191), (1, 7)] }).scrubPos 0 = 0 ∧
    smGet 0 (nx .fenScrub { ready with scrubPos := [(0, 8191), (1, 7)] }).scrubPos 1 = 8 := by decide +kernel
theorem test_scrub_of_an_asked_entry : (nx .fenScrub { ready with scrubPos := [(1, 7)], scrubQ := [(1, 100)] }).scrubQ = [] ∧
    smGet 0 (nx .fenScrub { ready with scrubPos := [(1, 7)], scrubQ := [(1, 100)] }).scrubPos 1 = 7 ∧ bankBusy (opAt (.read 0)) 63 = true ∧
    lockedOn (unlocked 31 ready) (28 + 63 / 16) = false := by decide +kernel

/-! ## Weirs and Sluices -/

/-- An operation body (R234): object, N, GEN, MASK; destination 6, deadline 20 µs, agent 0x0A, tag 0x0B, SIGSEQ 5. -/
def ob (o : Nat) (n : W32 := 0) (gen : W16 := 0) (mask : W64 := 0) : OpBody :=
  bodyOf (encodeBody { obj := BitVec.ofNat 14 o, tag := 0x0B, agent := 0x0A, gen := gen, n := n, sigseq := 5, mask := mask }) |||
    BitVec.ofNat 320 (6 * 2 ^ 64 + 20 * 2 ^ 128)
/-- A waiter of tenant 3 for `n`, due at `d`. -/
def waiterFor (n : W32) (d : Nat := 3000000000000) : Waiter :=
  { agent := 1, tag := 2, fb := 2, tenant := 3, n := n, opc := opcWait, deadline := d }
/-- Weir 0 of tenant 3 with a value and a queue. -/
def weir (v : W32) (q : List Waiter := []) : State := setWeir up 0 { val := v, queue := q }

theorem test_wake_rule_passes_no_waiter : wakeQueue 5 [waiterFor 2, waiterFor 4, waiterFor 1] = ([(waiterFor 2, 3)], [waiterFor 4, waiterFor 1], 3) := by
  decide +kernel
theorem test_signal_wakes : OpTaken (weir 1 [waiterFor 4]) 2 ∧ ownsWeir (weir 1 [waiterFor 4]) 3 0 = true ∧ ownsWeir up 3 63 = true ∧
    opN (ob 0 3) ≠ 0 ∧ (weirOf (weir 1 [waiterFor 4]) 0).val.toNat + (opN (ob 0 3)).toNat ≤ 0xFFFFFFFF ∧
    (weirOf (nx (.signal 2 3 (ob 0 3)) (weir 1 [waiterFor 4])) 0).val = 0 ∧
    (nx (.signal 2 3 (ob 0 3)) (weir 1 [waiterFor 4])).out.contains (.fabric 2 (opDone 3 (ob 0 3) opcSignal 0 4 0)) = true ∧
    (nx (.signal 2 3 (ob 0 3)) (weir 1 [waiterFor 4])).out.contains (.fabric 2 (waiterDone 0 (waiterFor 4) 0 false 0 0)) = true := by decide +kernel
theorem test_signal_overflow_at_the_top : 0xFFFFFFFF < (weirOf (weir 0xFFFFFFFE) 0).val.toNat + (opN (ob 0 2)).toNat ∧
    (nx (.signal 2 3 (ob 0 2)) (weir 0xFFFFFFFE)).out.contains (.fabric 2 (opDone 3 (ob 0 2) opcSignal stWeirOverflow 0xFFFFFFFE 0)) = true ∧
    (weirOf (nx (.signal 2 3 (ob 0 1)) (weir 0xFFFFFFFE)) 0).val = 0xFFFFFFFF ∧ (weirOf (nx (.signal 2 3 (ob 0 0)) (weir 9)) 0).val = 9 := by
  decide +kernel
theorem test_set_and_read : (weirOf (nx (.set 2 3 (ob 0 7)) (weir 1)) 0).val = 7 ∧
    (nx (.read 2 3 (ob 0 7)) (weir 1)).out.contains (.fabric 2 (opDone 3 (ob 0 7) opcRead 0 1 0)) = true := by decide +kernel
theorem test_decrement_and_underflow : (weirOf (nx (.decrement 2 3 (ob 0 7)) (weir 7 [waiterFor 9])) 0).val = 0 ∧
    (weirOf (weir 6) 0).val.toNat < (opN (ob 0 7)).toNat ∧ (weirOf (nx (.decrement 2 3 (ob 0 7)) (weir 6)) 0).val = 6 := by decide +kernel
theorem test_wait_takes_or_joins : waiterRoom (weir 7 [waiterFor 9]) 3 = true ∧ (weirOf (nx (.wait 2 3 (ob 0 7)) (weir 7)) 0).val = 0 ∧
    (weirOf (nx (.wait 2 3 (ob 0 7)) (weir 7 [waiterFor 9])) 0).queue =
      [waiterFor 9, { agent := 0x0A, tag := 0x0B, fb := 2, tenant := 3, n := 7, opc := opcWait, deadline := up.now + 20000 }] := by decide +kernel
/-- The 33 places of a tenant with 64 Weirs and 4 Sluices are taken (R231). -/
def crowded : State := weir 1 (List.replicate 33 (waiterFor 9))
theorem test_wait_without_a_place : waiterRoom crowded 3 = false ∧ waiterRoom (weir 1 (List.replicate 32 (waiterFor 9))) 3 = true ∧
    (nx (.wait 2 3 (ob 0 2)) crowded).out.contains (.fabric 2 (opDone 3 (ob 0 2) opcWait stWBusy 1 0)) = true := by decide +kernel
theorem test_bind_to_the_open_stream : (opN (ob 0 0x10021)).getLsbD 31 = false ∧
    (findStream (withStr answering) (fld (opN (ob 0 0x10021)) 16 6) 3 ((opN (ob 0 0x10021)).setWidth 16)).isSome = true ∧
    (weirOf (nx (.bind 2 3 (ob 0 0x10021)) (withStr answering)) 0).bound = some 0 ∧
    (nx (.bind 2 3 (ob 0 0x10022)) (withStr answering)).out.contains (.fabric 2 (opDone 3 (ob 0 0x10022) opcBind stNoStream 0 0)) = true := by
  decide +kernel
theorem test_operations_of_another_tenant : ownsWeir up 3 64 = false ∧ ownsSluice up 3 (opSluice (ob 4)) = false ∧ ownsSluice up 3 (opSluice (ob 3)) = true ∧
    fabricCodes.contains 0x7F = false ∧
    (nx (.set 2 3 (ob 64 7)) up).out.contains (.fabric 2 (opDone 3 (ob 64 7) opcSet stNotOwner 0 0)) = true ∧
    (nx (.fabricUnknownOperation 2 3 0x7F (ob 0)) up).out.contains (.fabric 2 (opDone 3 (ob 0) 0x7F stBadOperation 0 0)) = true := by decide +kernel

/-- The arrival of `up`'s own agent in Sluice 1. -/
def me : Waiter := { agent := 0x0A, tag := 0x0B, fb := 2, tenant := 3, n := 0, opc := opcSluiceArrive, deadline := up.now + 20000 }
theorem test_sluice_arrives_and_announces : opSluice (ob 1 0 0 0x60) = 1 ∧ ownsSluice up 3 1 = true ∧ opGen (ob 1 0 0 0x60) = (sluiceOf up 1).gen ∧
    (sluiceOf up 1).arrival = none ∧ notMembers up 0x60 ||| (oneBit 5 &&& ~~~(0x60#64)) = 0 ∧ noRoutes up 0x60 = 0 ∧ sluicesInProgress up < 64 ∧
    waiterRoom up 3 = true ∧ (sluiceOf (nx (.sluiceArrive 2 3 (ob 1 0 0 0x60)) up) 1).arrival = some me ∧
    (portOf (nx (.sluiceArrive 2 3 (ob 1 0 0 0x60)) up) 0).txq.map (·.dst) = [6] := by decide +kernel
/-- Member 7 is here too, and no route leads to it. -/
def allHere : State := { up with view := { up.view with members := 0xE0 } }
theorem test_sluice_names_every_unreachable_member : noRoutes { allHere with cfg := { allHere.cfg with route := [] } } 0xE0 = 0xC0 := by decide +kernel
theorem test_sluice_refusals : (opGen (ob 1 0 1 0x60) ≠ (sluiceOf up 1).gen) ∧ notMembers up 0xE0 = 0x80 ∧
    (nx (.sluiceArrive 2 3 (ob 1 0 0 0xE0)) allHere).out.contains (.fabric 2 (opDone 3 (ob 1 0 0 0xE0) opcSluiceArrive stNoRoute 0 0x80)) = true ∧
    (nx (.sluiceArrive 2 3 (ob 1 0 1 0x60)) up).out.contains (.fabric 2 (opDone 3 (ob 1 0 1 0x60) opcSluiceArrive stBadGeneration 0 0)) = true ∧
    (nx (.sluiceArrive 2 3 (ob 1 0 0 0xE0)) up).out.contains (.fabric 2 (opDone 3 (ob 1 0 0 0xE0) opcSluiceArrive stMemberLeft 0 0x80)) = true ∧
    (nx (.sluiceArrive 2 3 (ob 1 0 0 0x40)) up).out.contains (.fabric 2 (opDone 3 (ob 1 0 0 0x40) opcSluiceArrive stMemberLeft 0 0x20)) = true := by
  decide +kernel
/-- Member 6 has arrived in generation 0 of Sluice 1. -/
def half : State := setSluice up 1 { cur := { mask := some 0x60, arrived := 0x40 } }
theorem test_sluice_fills : (sluiceOf half 1).cur.arrived ||| oneBit 5 = opMask (ob 1 0 0 0x60) ∧
    (sluiceOf (nx (.sluiceArrive 2 3 (ob 1 0 0 0x60)) half) 1).gen = 1 ∧
    (nx (.sluiceArrive 2 3 (ob 1 0 0 0x60)) half).out.contains (.fabric 2 (waiterDone 1 me 0 false 0 0x60)) = true := by decide +kernel
theorem test_sluice_mask_mismatch : (sluiceOf half 1).cur.mask = some 0x60 ∧ (0x60#64) ≠ opMask (ob 1 0 0 0x20) ∧
    (nx (.sluiceArrive 2 3 (ob 1 0 0 0x20)) half).out.contains (.fabric 2 (opDone 3 (ob 1 0 0 0x20) opcSluiceArrive stMaskMismatch 0 0x40)) = true := by
  decide +kernel
/-- The arrival of member 5 joins behind a SLUICE_WAIT that came before it (R254). -/
def early : State := setSluice up 1 { waiters := [{ me with opc := opcSluiceWait }] }
theorem test_sluice_keeps_its_queue_order :
    (sluiceOf (nx (.sluiceArrive 2 3 (ob 1 0 0 0x60)) early) 1).before = [{ me with opc := opcSluiceWait }] ∧
    (sluiceWaiters (sluiceOf (nx (.sluiceArrive 2 3 (ob 1 0 0 0x60)) early) 1)).map (·.opc) = [opcSluiceWait, opcSluiceArrive] := by decide +kernel
theorem test_sluice_wait : (sluiceOf (nx (.sluiceWait 2 3 (ob 1)) half) 1).waiters = [{ me with opc := opcSluiceWait }] ∧
    (nx (.sluiceWait 2 3 (ob 1 0 9)) half).out.contains (.fabric 2 (opDone 3 (ob 1 0 9) opcSluiceWait stBadGeneration 0 0)) = true := by decide +kernel

theorem test_remote_signal_takes_tag_0 : OpTaken up 2 ∧ (opDst (ob 9 4)).toNat = 6 ∧ isMember up 6 = true ∧ isSusp up 6 = false ∧ routeTo up 6 = some 0 ∧
    linkTagOf up 0 = .free ∧
    linkTagOf (nx (.remoteSignal 2 3 (ob 9 4)) up) 0 = .used 0x0A 0x0B 2 3 opcRemoteSignal 9 6 1 (up.now + 20000) ∧
    smGet 0 (nx (.remoteSignal 2 3 (ob 9 4)) up).outCtr 6 = 1 := by decide +kernel
theorem test_resignal_keeps_its_sigseq : linkTagOf (nx (.resignal 2 3 (ob 9 4)) up) 0 = .used 0x0A 0x0B 2 3 opcResignal 9 6 5 (up.now + 20000) ∧
    smGet 0 (nx (.resignal 2 3 (ob 9 4)) up).outCtr 6 = 0 := by decide +kernel
def toSelf : State := { up with cfg := { up.cfg with memberid := 6 } }
def gone : State := { up with view := { up.view with susp := 0x40 } }
def noRoute : State := { up with cfg := { up.cfg with route := [] } }
def noTags : State := { up with linkTags := (List.range 1024).map fun t => (t, .quarantined 0 6) }
theorem test_remote_signal_refusals : remoteRefusal toSelf 6 = some stBadOperation ∧ remoteRefusal gone 6 = some stMemberLeft ∧
    routeTo noRoute 6 = none ∧ remoteRefusal noRoute 6 = some stNoRoute ∧
    (nx (.resignal 2 3 (ob 9 4)) gone).out.contains (.fabric 2 (opDone 3 (ob 9 4) opcResignal stMemberLeft 0 0)) = true := by decide +kernel
theorem range_map_get {α : Type} (d x : α) (n t : Nat) (h : t < n) : smGet d ((List.range n).map fun i => (i, x)) t = x := by
  have e : ∀ l : List Nat, t ∈ l → smGet d (l.map fun i => (i, x)) t = x := by
    intro l
    induction l with
    | nil => simp
    | cons a r ih => grind [smGet]
  exact e _ (List.mem_range.2 h)
theorem test_remote_signal_without_a_tag : isMember noTags 6 = true ∧ isSusp noTags 6 = false ∧ routeTo noTags 6 = some 0 ∧
    (∀ t, t < 1024 → linkTagOf noTags t ≠ .free) :=
  ⟨by decide +kernel, by decide +kernel, by decide +kernel, fun t h => by rw [linkTagOf, noTags, range_map_get _ _ _ _ h]; decide⟩
/-- A Weir-layer frame from member 6 in port 0's part of the Hub. -/
def fromSix (code : W16) (b : BodyF) : Frame := { csf := code, src := 6, dst := 5, tenant := 3, epoch := 7, payload := encodeBody b }
def hub (f : Frame) (s : State := up) : State := withPort 0 (fun x => { x with hubOps := [(4, f)] }) s
def tagged (t : LinkTag) : State := { up with linkTags := [(1023, t)] }
theorem test_link_ack_answers_the_agent :
    HubHas (hub (fromSix 0x21 { tag := 1023, status := 0 }) (tagged (.used 0x0A 0x0B 2 3 opcRemoteSignal 9 6 1 9))) 0 opcLinkAck 4 (fromSix 0x21 { tag := 1023, status := 0 }) ∧
    linkTagOf (nx (.linkAck 0) (hub (fromSix 0x21 { tag := 1023 }) (tagged (.used 0x0A 0x0B 2 3 opcRemoteSignal 9 6 1 9)))) 1023 = .free ∧
    (nx (.linkAck 0) (hub (fromSix 0x21 { tag := 1023 }) (tagged (.used 0x0A 0x0B 2 3 opcRemoteSignal 9 6 1 9)))).out.contains
      (.fabric 2 (completeFlit 3 { obj := 9, tag := 0x0B, agent := 0x0A, opc := opcRemoteSignal, sigseq := 1 })) = true := by decide +kernel
theorem test_link_ack_of_another_engine :
    linkTagOf (nx (.linkAck 0) (hub (fromSix 0x21 { tag := 1023 }) (tagged (.quarantined 5 7)))) 1023 = .quarantined 5 7 ∧
    smGet 0 (nx (.linkAck 0) (hub (fromSix 0x21 { tag := 1023 }) (tagged (.quarantined 5 7)))).tel (telEng 7) = 1 ∧
    linkTagOf (nx (.linkAck 0) (hub (fromSix 0x21 { tag := 1023 }) (tagged (.used 0x0A 0x0B 2 3 opcRemoteSignal 9 7 1 9)))) 1023 =
      .used 0x0A 0x0B 2 3 opcRemoteSignal 9 7 1 9 := by decide +kernel
theorem test_late_link_ack : linkTagOf (nx (.linkAck 0) (hub (fromSix 0x21 { tag := 1023 }) (tagged (.quarantined 5 6)))) 1023 = .free ∧
    smGet 0 (nx (.linkAck 0) (hub (fromSix 0x21 { tag := 1023 }) (tagged (.quarantined 5 6)))).tel (telEng 7) = 1 := by decide +kernel
def signalled (n : W32) (seq : W32) (s : State := up) : State := hub (fromSix 0x20 { obj := 0, n := n, sigseq := seq }) s
def windowed : State := { up with inWin := [(6, { high := 2000, rec' := 1#1024 <<< 1023 })] }
def ackOf (s : State) : W16 := match (portOf s 0).txq.getLast? with | some f => opStatus (bodyOf f.payload) | none => 0xFFFF
theorem test_link_signal_is_applied_once : HubHas (signalled 3 1) 0 opcLinkSignal 4 (fromSix 0x20 { obj := 0, n := 3, sigseq := 1 }) ∧
    current (signalled 3 1) 6 7 = true ∧ newer 1 (smGet {} up.inWin 6).high = true ∧
    (weirOf (nx (.linkSignal 0) (signalled 3 1)) 0).val = 3 ∧ ackOf (nx (.linkSignal 0) (signalled 3 1)) = 0 ∧
    smGet {} (nx (.linkSignal 0) (signalled 3 1)).inWin 6 = { high := 1, rec' := 1 } := by decide +kernel
theorem test_link_signal_at_the_window_edge : (2000#32 - 977#32).toNat = 1023 ∧ ackOf (nx (.linkSignal 0) (signalled 3 977 windowed)) = stWDuplicate ∧
    ackOf (nx (.linkSignal 0) (signalled 3 976 windowed)) = stStale ∧ ackOf (nx (.linkSignal 0) (signalled 3 978 windowed)) = 0 ∧
    (smGet {} (nx (.linkSignal 0) (signalled 3 978 windowed)).inWin 6).rec'.getLsbD 1022 = true := by decide +kernel
theorem test_link_signal_not_applied : ackOf (nx (.linkSignal 0) (signalled 3 1 (setWeir up 0 { val := 0xFFFFFFFD }))) = stWeirOverflow ∧
    ackOf (nx (.linkSignal 0) (hub (fromSix 0x20 { obj := 64, n := 3, sigseq := 1 }))) = stNotOwner := by decide +kernel
theorem test_link_signal_not_current : current gone 6 7 = false ∧ (nx (.linkSignal 0) (signalled 3 1 gone)).log.any = true ∧
    (nx (.linkSignal 0) (signalled 3 1 gone)).tally.length = 1 ∧ (portOf (nx (.linkSignal 0) (signalled 3 1 gone)) 0).txq = [] ∧
    (weirOf (nx (.linkSignal 0) (signalled 3 1 gone)) 0).val = 0 := by decide +kernel

def arrival (gen : W16) (mask : W64) (s : State := up) : State := hub (fromSix 0x22 { obj := 1, gen := gen, mask := mask }) s
theorem test_link_arrive_sets_its_bit : HubHas (arrival 0 0x60) 0 opcLinkArrive 4 (fromSix 0x22 { obj := 1, gen := 0, mask := 0x60 }) ∧
    (sluiceOf (nx (.linkArrive 0) (arrival 0 0x60)) 1).cur = { mask := some 0x60, arrived := 0x40 } ∧
    (sluiceOf (nx (.linkArrive 0) (arrival 1 0x60)) 1).nxt = { mask := some 0x60, arrived := 0x40 } ∧
    (0x60#64).getLsbD 6 = true := by decide +kernel
theorem test_second_link_arrive_changes_nothing : current half 6 7 = true ∧ (sluiceOf half 1).cur.arrived.getLsbD 6 = true ∧
    (nx (.linkArrive 0) (arrival 0 0x60 half)).sluices = half.sluices := by decide +kernel
theorem test_link_arrive_refused : arriveRefusal (arrival 2 0x60) (fromSix 0x22 { obj := 1, gen := 2, mask := 0x60 }) (bodyOf (encodeBody { obj := 1, gen := 2, mask := 0x60 })) =
      some stBadGeneration ∧ ackOf (nx (.linkArrive 0) (arrival 2 0x60)) = stBadGeneration ∧ ackOf (nx (.linkArrive 0) (arrival 0 0x20)) = stMaskMismatch ∧
    ackOf (nx (.linkArrive 0) (arrival 0 0xE0 half)) = stMaskMismatch := by decide +kernel
/-- This engine's agent waits in Sluice 1. -/
def inSluice : State := setSluice up 1 { cur := { mask := some 0x60, arrived := 0x20 }, arrival := some { me with deadline := up.now } }
theorem test_link_arrive_completes : (sluiceOf (nx (.linkArrive 0) (arrival 0 0x60 inSluice)) 1).gen = 1 ∧ (sluiceOf inSluice 1).arrival ≠ none := by decide +kernel
theorem test_link_reject_completes :
    HubHas (hub (fromSix 0x23 { obj := 1, status := stMaskMismatch }) inSluice) 0 opcLinkReject 4 (fromSix 0x23 { obj := 1, status := stMaskMismatch }) ∧
    (nx (.linkReject 0) (hub (fromSix 0x23 { obj := 1, status := stMaskMismatch }) inSluice)).out.contains
      (.fabric 2 (waiterDone 1 me stMaskMismatch false 0 0x20)) = true := by decide +kernel
theorem test_link_reject_not_expected :
    (nx (.linkReject 0) (hub (fromSix 0x23 { obj := 1, gen := 1, status := stMaskMismatch }) inSluice)).tally.length = 1 ∧
    (nx (.linkReject 0) (hub (fromSix 0x23 { obj := 1, status := stMaskMismatch }) half)).tally.length = 1 ∧
    (nx (.linkReject 0) (hub (fromSix 0x23 { obj := 1, gen := 1, status := stMaskMismatch }) inSluice)).sluices = inSluice.sluices := by decide +kernel
theorem test_sluice_deadline : (nx (.sluiceArrivalDeadline 1) inSluice).out.contains (.fabric 2 (waiterDone 1 me stWTimeout false 0 0x40)) = true ∧
    (sluiceOf (nx (.sluiceArrivalDeadline 1) inSluice) 1).gen = 1 := by decide +kernel

theorem test_waiter_deadline : (weirOf (nx .waiterDeadline (weir 3 [waiterFor 9 up.now, waiterFor 2])) 0).queue = [] ∧
    (weirOf (nx .waiterDeadline (weir 3 [waiterFor 9, waiterFor 2 up.now])) 0).queue = [waiterFor 9] ∧
    linkTagOf (nx .waiterDeadline (tagged (.used 1 2 2 3 opcResignal 9 6 1 up.now))) 1023 = .quarantined up.now 6 := by decide +kernel
theorem test_tag_quarantine : linkTagOf (nx .tagQuarantineExpiry (tagged (.quarantined (up.now - 10000000) 6))) 1023 = .free ∧
    linkTagOf (nx .tagQuarantineExpiry (tagged (.quarantined (up.now - 9999999) 6))) 1023 = .quarantined (up.now - 9999999) 6 ∧
    (nx .tagQuarantineExpiry { up with memTags := [(5, .quarantined (up.now - 10000000))], conTags := [(6, .quarantined (up.now - 9999999))] }).memTags = [] ∧
    (nx .tagQuarantineExpiry { up with memTags := [(5, .quarantined (up.now - 10000000))], conTags := [(6, .quarantined (up.now - 9999999))] }).conTags =
      [(6, .quarantined (up.now - 9999999))] := by decide +kernel
def heldComplete : State := setFb up 2 { fbOf up 2 with heldC := [{ holds := [(0, 4)], flit := opDone 3 (ob 0) opcRead 0 1 0 }] }
theorem test_visibility_hold_ends : fbLive (fbOf heldComplete 2) = true ∧
    (nx (.visibilityHoldRelease 2) heldComplete).out = [.fabric 2 (opDone 3 (ob 0) opcRead 0 1 0)] := by decide +kernel

/-! ## Memory, content, objects and Bales -/

/-- `s` with a request outstanding on memory port 0. -/
def asked (t : Nat) (who : Issuer) (d : Nat := up.now) (s : State := ready) : State := { s with memTags := [(t, .used who d)] }
theorem test_read_response_frees_its_tag : memTag (asked 5 (.weights 0 65541)) 0 5 = .used (.weights 0 65541) up.now ∧
    (asked 5 (.weights 0 65541)).locks.contains 32 = true ∧ memTag (nx (.memoryReadResponse 0 5 true false) (asked 5 (.weights 0 65541))) 0 5 = .free ∧
    memTag (nx (.memoryReadResponse 0 5 false false) (asked 5 (.weights 0 65541))) 0 5 = .used (.weights 0 65541) up.now ∧
    smGet 0 (nx (.memoryReadResponse 0 5 true true) (asked 5 (.weights 0 65541))).tel (telEng 5) = 1 := by decide +kernel
theorem test_read_error_ends_a_stream : (streamOf (asked 1023 (.kv 0) 0 (withStr answering)) 0).inUse = true ∧
    (streamOf (nx (.memoryReadResponse 0 1023 true true) (asked 1023 (.kv 0) 0 (withStr answering))) 0).inUse = false ∧
    (nx (.memoryReadResponse 0 5 true true) (asked 5 (.block 0) 0 (jobbed [stepJob] (withStr answering)))).jobs = [.firstStage 0 1 none] ∧
    (streamOf (nx (.memoryReadResponse 0 5 true false) (asked 5 (.gram 0) 0 (withStr answering))) 0).gramRead = true := by decide +kernel
/-- The stream's grammar, object 65538, is being read. -/
def gramAsked : State := asked 1023 (.gram 0) 0 (withStr { answering with gramObj := some 65538 } ready)
theorem test_object_read_error_loses_the_object : (streamOf gramAsked 0).gramObj = some 65538 ∧
    (objOf (nx (.memoryReadResponse 0 1023 true true) gramAsked) 65538).state = .lost ∧
    (streamOf (nx (.memoryReadResponse 0 1023 true true) gramAsked) 0).inUse = false ∧
    (objOf (nx (.memoryReadResponse 0 5 true true) (asked 5 (.weights 0 65541))) 65541).state = .lost := by decide +kernel
def shadowWait : State := { asked 1024 (.shadow 63) with bankDone := [(63, [{ op := .read 0, status := 0, data := 5, waits := 1, fromHost := true }])] }
theorem test_write_response_of_a_shadow : (doneOf shadowWait 63).length = 1 ∧
    (doneOf (nx (.memoryWriteResponse 0 1024 false) shadowWait) 63).map (·.waits) = [0] ∧
    (doneOf (nx (.memoryWriteResponse 0 1024 true) shadowWait) 63).map (·.status) = [stWriteFailed] ∧
    (streamOf (nx (.memoryWriteResponse 0 1024 true) (asked 1024 (.block 0) 0 (withStr answering))) 0).inUse = false := by decide +kernel
theorem test_stray_response_is_counted : memTag up 0 5 = .free ∧ smGet 0 (nx (.memoryReadResponse 0 5 true false) up).tel (telEng 7) = 1 ∧
    smGet 0 (nx (.contentWriteAck 300) up).tel (telEng 7) = 1 ∧
    memTag (nx (.memoryWriteResponse 0 1024 false) { up with memTags := [(1024, .quarantined 3)] }) 0 1024 = .free := by decide +kernel
def conAsked : State := { up with conTags := [(7, .used (.shard 1) up.now), (300, .used .nobody up.now)] }
theorem test_content_completions : (conAsked.locks.contains 33) = true ∧ conTag (nx (.contentCompletion 7 true 0) conAsked) 7 = .free ∧
    (nx (.contentCompletion 7 true 1) conAsked).load.missing = [1] ∧ (nx (.contentCompletion 7 true 0) conAsked).load = conAsked.load ∧ conTag (nx (.contentWriteAck 300) conAsked) 300 = .free := by decide +kernel
/-- A transfer of channel 15 waits for its requests. -/
def reading : State := 
  let d : Dma := { obj := none, srcsp := 0, dstsp := 0, tenant := 3, sigen := false, weir := 0, count := 0, len := 64, dtag := 0, fromHost := false }
  { ready with dmaQ := [(15, [{ d with started := true }])] }
theorem test_completion_timeout : memTag (nx (.completionTimeout (.memory 0 5)) (asked 5 (.weights 0 65541))) 0 5 = .quarantined up.now ∧
    (objOf (nx (.completionTimeout (.memory 0 5)) (asked 5 (.weights 0 65541))) 65541).state = .home ∧
    (streamOf (nx (.completionTimeout (.memory 0 5)) (asked 5 (.weights 8 65539) up.now (inFlight (.window 0 0 false) (withStr str)))) 0).inUse = false ∧
    liveStreams (inFlight (.window 0 0 false) (withStr str)) (.window 0 0 false) = [0] ∧
    (streamOf (nx (.completionTimeout (.memory 0 1023)) { gramAsked with memTags := [(1023, .used (.gram 0) up.now)] }) 0).inUse = false ∧
    (smGet [] (nx (.completionTimeout (.memory 0 1029)) { reading with memTags := [(1029, .used (.dma 15) up.now)] }).dmaQ 15).map (·.status) = [stMTimeout] ∧
    (smGet [] (nx (.memoryWriteResponse 0 1029 true) { reading with memTags := [(1029, .used (.dma 15) up.now)] }).dmaQ 15).map (·.status) = [stWriteFailed] ∧
    memTag (nx (.completionTimeout (.memory 0 5)) (asked 5 (.weights 0 65541) (up.now + 1))) 0 5 = .used (.weights 0 65541) (up.now + 1) ∧
    (nx (.completionTimeout (.content 7)) conAsked).load.missing = [1] ∧
    (nx (.completionTimeout (.memory 0 5)) (asked 5 .stage up.now { ready with load := { state := .loading } })).load.status = stMTimeout := by decide +kernel

/-- Object 65541 moves to the far tier for the mailbox, on channel 15; its requests have been issued. -/
def dmaOf (sig : Bool) (weir : Nat := 0) : Dma :=
  { obj := some 65541, srcsp := 0, dstsp := 0, tenant := 3, sigen := sig, weir := weir, count := 2, len := 65536, dtag := 0x77, fromHost := true,
    started := true }
def movingBy (d : Dma) (s : State := ready) : State :=
  { setObj s 65541 { objOf s 65541 with state := .moving, move := some { dest := { tier := .far, loc := 9 }, fromHost := true } } with
    dmaQ := [(15, [d])], mbx := { busy := true, ctag := 0x51, running := some (.move 65541) } }
def moving (sig : Bool := false) (weir : Nat := 0) (s : State := ready) : State := movingBy (dmaOf sig weir) s
theorem test_transfer_waits_for_its_requests : dmaAsked moving 15 = false ∧
    dmaAsked { moving with memTags := [(1029, .used (.dma 15) 0)] } 15 = true ∧ dmaPossible (dmaOf false) (.good []) = true ∧
    dmaPossible (dmaOf false) .contentFailed = false ∧ dmaPossible { dmaOf false with dstsp := 1 } .contentFailed = true ∧
    dmaPossible { dmaOf false with srcsp := 1 } .readFailed = false := by decide +kernel
theorem test_stalled_transfer_starts :
    (smGet [] (startDma (movingBy { dmaOf false with started := false, len := 64 }) 15).dmaQ 15).map (·.started) = [true] ∧
    (startDma (movingBy { dmaOf false with started := false, len := 64 }) 15).memTags ≠ [] ∧
    (smGet [] (startDma (movingBy { dmaOf false with started := false, srcsp := 3, src := 2 ^ 62 }) 15).dmaQ 15).map (·.status) = [stOutOfRange] := by decide +kernel
theorem test_transfer_completes : moving.locks.contains (32 + 15 / 8) = true ∧ smGet [] moving.dmaQ 15 = [dmaOf false] ∧ moving.draining = [] ∧
    (objOf (nx (.dmaTransferComplete 15 (.good [])) moving) 65541).home = { tier := .far, loc := 9 } ∧
    (objOf (nx (.dmaTransferComplete 15 (.good [])) moving) 65541).oldHomes = [(objOf ready 65541).home] ∧
    smGet (0, 0) (nx (.dmaTransferComplete 15 (.good [])) moving).dmaDone 15 = (0x77, 0) ∧
    Finished moving (nx (.dmaTransferComplete 15 (.good [])) moving) 0 ∧
    (objOf (nx (.dmaTransferComplete 15 .writeFailed) moving) 65541).home = (objOf ready 65541).home ∧
    (nx (.dmaTransferComplete 15 .writeFailed) moving).log.any = true ∧
    (objOf (nx (.dmaTransferComplete 15 .readFailed) moving) 65541).state = .lost := by decide +kernel
/-- Object 65541 on its way out of the slow tier, where its CRC-64 was kept. -/
def slowMove (c : W64) : State := setObj moving 65541 { objOf moving 65541 with crc := some c }
theorem test_slow_object_is_checked : (objOf (nx (.dmaTransferComplete 15 (.good [1, 2])) (slowMove (crc64 [1, 2]))) 65541).state = .home ∧
    (objOf (nx (.dmaTransferComplete 15 (.good [1, 3])) (slowMove (crc64 [1, 2]))) 65541).state = .lost := by decide +kernel
theorem test_transfer_fails_by_its_status :
    (objOf (nx (.dmaTransferComplete 15 (.good [])) (movingBy { dmaOf false with status := stOutOfRange })) 65541).home = (objOf ready 65541).home ∧
    Finished moving (nx (.dmaTransferComplete 15 (.good [])) (movingBy { dmaOf false with status := stMTimeout })) stMTimeout ∧
    (objOf (nx (.dmaTransferComplete 15 (.good [])) (movingBy { dmaOf false with status := stUncorrectable })) 65541).state = .lost ∧
    (nx (.dmaTransferComplete 15 .contentFailed) (movingBy { dmaOf false with dstsp := 1, flushed := true })).log.any = true := by decide +kernel
theorem test_transfer_signals : ownsWeir (moving true) 3 0 = true ∧ (weirOf (nx (.dmaTransferComplete 15 (.good [])) (moving true)) 0).val = 2 ∧
    Finished (moving true 64) (nx (.dmaTransferComplete 15 (.good [])) (moving true 64)) stNotOwner ∧
    overflows (moving true 0 (setWeir ready 0 { val := 0xFFFFFFFE })) 0 2 = true ∧
    Finished (moving true 0 (setWeir ready 0 { val := 0xFFFFFFFE }))
      (nx (.dmaTransferComplete 15 (.good [])) (moving true 0 (setWeir ready 0 { val := 0xFFFFFFFE }))) stWeirOverflow ∧
    (weirOf (nx (.dmaTransferComplete 0 (.good [])) { ready with dmaQ := [(0, [{ dmaOf true with obj := none }])] }) 0).val = 2 := by decide +kernel
theorem test_source_is_freed : (objOf (nx (.moveSourceFree 65541) (setObj ready 65541 { objOf ready 65541 with oldHomes := [{}, { rill := 3 }] })) 65541).oldHomes =
    [{ rill := 3 }] := by decide +kernel
def lost : State := setObj ready 65541 { objOf ready 65541 with state := .lost, pref := { tier := .far }, bale := (0x100000002, 3) }
theorem test_object_reload_without_its_bale : (match reread lost (objOf lost 65541) { hdrA := [], hdrB := [], shards := [], classes := [], fens := [] } [] with | .error f => f | .ok _ => [0]) = [] ∧
    (nx (.objectReload 65541 { hdrA := [], hdrB := [], shards := [], classes := [], fens := [] } []) lost).log.any = true := by decide +kernel

theorem test_obj_query_of_the_manual_fields : MailboxFree ready ∧ Answered (nx (.objQuery (args [65541])) ready) 0x51 0 ∧
    resultReg (nx (.objQuery (args [65541])) ready) 0 = BitVec.ofNat 32 (objRecord 65541 (objOf ready 65541) (setsOf ready 65541) (usersShown ready 65541)) := by
  decide +kernel
theorem test_obj_move_refusals : (objOf ready 65999).state = .free ∧ Answered (nx (.objMove (args [65999, 0])) ready) 0x51 stOutOfRange ∧
    Answered (nx (.objMove (args [65541, 0])) (moving false 0 ready |> fun s => { s with mbx := {} })) 0x51 stObjectMoving ∧
    (objOf lost 65541).state = .lost ∧ Answered (nx (.objMove (args [65541, 0])) lost) 0x51 stMoveForbidden ∧
    ready.mask.contains 2 = false ∧ Answered (nx (.objMove (args [65541, 0x0202])) ready) 0x51 stRillNotInMask := by decide +kernel
theorem test_obj_move_starts : moveAllowed ready 65541 { tier := .far } = true ∧ (placeIn ready { tier := .far } 65536).isSome = true ∧
    (objOf (nx (.objMove (args [65541, 0])) ready) 65541).state = .moving ∧
    (smGet [] (nx (.objMove (args [65541, 0])) ready).dmaQ 0).length = 1 ∧
    (nx (.objMove (args [65541, 0])) ready).mbx.running = some (.move 65541) := by decide +kernel
/-- Every channel holds 64 descriptors: the next one waits (R275). -/
theorem test_obj_move_behind_full_channels :
    (nx (.objMove (args [65541, 0])) { ready with dmaQ := (List.range 16).map fun c => (c, List.replicate 64 { dmaOf false with obj := none }) }).dmaWait.length = 1 := by
  decide +kernel
theorem test_obj_move_without_room : placeIn ready (slowHome ready 65536) 65536 = none ∧ moveAllowed ready 65541 (slowHome ready 65536) = true ∧
    Answered (nx (.objMove (args [65541, 3])) ready) 0x51 stNoSpace ∧ (objOf ready 65541).state = .home := by decide +kernel
theorem test_slow_grant_takes_the_lowest : Answered (nx (.slowGrant (args [0x200000, 0, 0x400000, 0])) ready) 0x51 0 ∧
    smGet (0, 0) (nx (.slowGrant (args [0x200000, 0, 0x400000, 0])) ready).slow 0 = (0x200000, 0x400001) ∧
    inSlow { ready with slow := [(0, (0x200000, 0x400001))] } 0x400000 0x200000 = true ∧
    Answered (nx (.slowGrant (args [0x400000, 0, 0, 0])) { ready with slow := [(0, (0x200000, 0x400001))] }) 0x51 stRegionConflict ∧
    Answered (nx (.slowGrant (args [0, 0x400, 0, 0])) ready) 0x51 stOutOfRange := by decide +kernel
def allGranted : State := { ready with slow := (List.range 16).map fun r => (r, (r * 2 ^ 21, 2 ^ 21 + 1)) }
theorem test_slow_grant_of_a_17th : (∀ r, r < 16 → (smGet (0, 0) allGranted.slow r).2 ≠ 0) ∧ Answered (nx (.slowGrant (args [0, 1])) allGranted) 0x51 stMBusy := by
  decide +kernel
theorem test_slow_release : Answered (nx (.slowRelease (args [15])) allGranted) 0x51 0 ∧ Answered (nx (.slowRelease (args [15])) ready) 0x51 stOutOfRange ∧
    Answered (nx (.slowRelease (args [3])) (setObj allGranted 65541 { objOf ready 65541 with home := { tier := .slow, rill := 3 } })) 0x51 stRegionConflict := by
  decide +kernel

/-- R283's own example: three data shards whose byte 0 is 35, A2 and 0F. -/
theorem test_parity_example : paritySum false 1 [[0x35], [0xA2], [0x0F]] [] = [0x98] ∧ paritySum true 1 [[0x35], [0xA2], [0x0F]] [] = [0x50] ∧
    rebuildPQ 1 [[0], [0], [0x0F]] 0 1 [0x98] [0x50] = ([0x35], [0xA2]) ∧ rebuildP 1 [[0], [0xA2], [0x0F]] 0 [0x98] = [0x35] ∧
    rebuildQ 1 [[0x35], [0xA2], [0]] 2 [0x50] = [0x0F] := by decide +kernel

/-- An image without a good header. -/
def noHeader : BaleImage := { hdrA := [], hdrB := [], shards := [], classes := [], fens := [] }
theorem test_bale_load_is_accepted : usedHdr ready noHeader = none ∧ advancing ready = false ∧ ready.load.image = none ∧
    (∀ x ∈ openStreams ready, x.2.tab = ready.actB) ∧ ready.boot.farBad = false ∧
    Answered (nx (.baleLoad (args [0, 0, 0xF]) noHeader) ready) 0x51 0 ∧ (nx (.baleLoad (args [0, 0, 0xF]) noHeader) ready).load.present = 15 := by decide +kernel
def loading : State := nx (.baleLoad (args [0, 0, 0xF]) noHeader) ready
theorem test_bale_load_refusals : Answered (nx (.baleLoad (args []) noHeader) { ready with fuses := {} }) 0x51 stNotAvailable ∧
    Answered (nx (.baleLoad (args []) noHeader) loading) 0x51 stBBusy ∧
    Answered (nx (.baleLoad (args [0xFFFFFFFF, 0x3FF]) noHeader) ready) 0x51 stOutOfRange := by decide +kernel
theorem test_bale_load_ends_without_a_header : loading.load.state = .loading ∧ (nx .baleLoadEnd loading).load = { state := .failed, status := stNoGoodHeader } := by
  decide +kernel
/-- A load whose build stands and whose one object moves to its home. -/
def landing (st : ObjState) (arrived : List Nat := [65541]) : State :=
  { setObj ready 65541 { objOf ready 65541 with state := st, pref := (objOf ready 65541).home } with
    load := { state := .loading, image := some noHeader, moving := [65541], arrived := arrived } }
theorem test_load_waits_for_its_moves : nx .baleLoadEnd (landing .moving) = landing .moving ∧
    (nx .baleLoadEnd (landing .home)).load.state = .loaded ∧ (nx .baleLoadEnd (landing .home)).load.moving = [] ∧
    (nx .baleLoadEnd (landing .home [])).load.state = .failed ∧
    (nx .baleLoadEnd (landing .lost)).load = { state := .failed, status := stUncorrectable } ∧ otherTab (nx .baleLoadEnd (landing .lost)) = {} := by
  decide +kernel
def loaded : State := { ready with load := { state := .loaded, image := some noHeader } }
theorem test_bale_commit : Answered (nx (.baleCommit (args [])) loaded) 0x51 0 ∧ (nx (.baleCommit (args [])) loaded).load.commit = true ∧
    Answered (nx (.baleCommit (args [])) ready) 0x51 stNothingToCommit := by decide +kernel
theorem test_bale_abort_and_status : (nx (.baleAbort (args [])) loaded).load = { state := .failed, status := stAborted } ∧
    resultReg (nx (.baleStatus (args [])) { ready with load := { state := .failed, status := stShardsLost, failed := [0, 65] } }) 4 = 2 := by decide +kernel
theorem test_epoch_switch : (nx .setEpochSwitch { loaded with load := { loaded.load with commit := true } }).setEpoch = 5 ∧
    (nx .setEpochSwitch { loaded with load := { loaded.load with commit := true } }).actB = true ∧
    (nx .setEpochSwitch loaded).setEpoch = 4 := by decide +kernel

/-! ## Flash, management, boot and the Stile -/

/-- `up` with a flash device of 256 MiB that holds nothing. -/
def flashed : State := { up with boot := { up.boot with sfdp := { sizeBytes := 0x10000000, erase64k := true, eraseSuspend := true, programMax := 3000000, eraseMax := 2000000000 } },
                                 slow := [(0, (0, 2 ^ 21 + 1))] }
def bankJob (st : BankStage) (len : Nat := 512) : BankWrite :=
  { pair := false, body := List.replicate len 7, trailer := zeros 12 ++ [1], len := len, target := false, seq := 1, stage := st, pldm := false }
theorem test_bank_write_with_a_bad_trailer : flashOk flashed = true ∧ withinSlow flashed 0 4096 = true ∧ targetBank flashed false = false ∧
    imageCheck flashed false (zeros 4096) [] [] = stImageCheck ∧
    Answered (nx (.bankWrite (args [0, 0, 0, 4096]) (zeros 4096)) flashed) 0x51 0 ∧
    (nx (.bankWrite (args [0, 0, 0, 4096]) (zeros 4096)) flashed).bankErr = stImageCheck := by decide +kernel
theorem test_bank_write_while_one_runs :
    Answered (nx (.bankWrite (args [0, 0, 0, 4096]) (zeros 4096)) { flashed with bankWr := some (bankJob .verify) }) 0x51 stHBusy ∧
    resultReg (nx (.bankStatus noArgs) { flashed with bankWr := some (bankJob .verify) }) 0 = 1 := by decide +kernel
/-- A bank write whose flash command runs. -/
def writing (c : FlashCmd) (st : BankStage) : State := { flashed with flashCmd := some c, bankWr := some (bankJob st) }
theorem test_erase_finishes : (nx (.flashCommandComplete .good) (writing (.eraseBank 0x1F0000) (.erase 15))).bankWr = some (bankJob (.page 0)) ∧
    memGet 0xFF (nx (.flashCommandComplete .good) { writing (.eraseBank 0x1F0000) (.erase 15) with flash := [(0x1FFFFF, 1), (0x200000, 2)] }).flash 0x1FFFFF = 0xFF ∧
    memGet 0xFF (nx (.flashCommandComplete .good) { writing (.eraseBank 0x1F0000) (.erase 15) with flash := [(0x1FFFFF, 1), (0x200000, 2)] }).flash 0x200000 = 2 := by
  decide +kernel
theorem test_page_finishes : flashRead (nx (.flashCommandComplete .good) (writing (.pageBank 0x100000 [1, 2]) (.page 0))) 0x100000 2 = [1, 2] ∧
    (nx (.flashCommandComplete .good) (writing (.pageBank 0x100000 [1, 2]) (.page 0))).bankWr = some (bankJob (.page 1)) ∧
    (nx (.flashCommandComplete .railLow) (writing (.pageBank 0x100000 [1, 2]) (.page 1))).bankWr = some (bankJob (.erase 0)) := by decide +kernel
theorem test_verify_fails_on_an_empty_bank : bodyVerifies (writing .verifyBank .verify) (bankJob .verify) = false ∧
    (nx (.flashCommandComplete .good) (writing .verifyBank .verify)).bankErr = stImageCheck := by decide +kernel
theorem test_flash_timeout_ends_the_write : (writing (.eraseBank 0x100000) (.erase 0)).flashCmd = some (.eraseBank 0x100000) ∧
    (writing (.eraseBank 0x100000) (.erase 0)).bankWr = some (bankJob (.erase 0)) ∧
    (nx .flashTimeout (writing (.pageBank 0x100000 [1, 2]) (.page 0))).bankWr = none ∧
    (nx .flashTimeout (writing (.pageBank 0x100000 [1, 2]) (.page 0))).bankErr = stFlashTimeout ∧
    (nx .flashTimeout (writing (.pageBank 0x100000 [1, 2]) (.page 0))).log.any = true := by decide +kernel
/-- 110 % of the page program's 3 ms is 3.3 ms; a check of the device's content has no time. -/
theorem test_flash_timeout_needs_its_time : flashLate { writing (.pageBank 0x100000 [1, 2]) (.page 0) with flashAt := up.now - 3299999 } (.pageBank 0x100000 [1, 2]) = false ∧
    flashLate { writing (.pageBank 0x100000 [1, 2]) (.page 0) with flashAt := up.now - 3300000 } (.pageBank 0x100000 [1, 2]) = true ∧
    nx .flashTimeout { writing (.pageBank 0x100000 [1, 2]) (.page 0) with flashAt := up.now - 3299999 } =
      { writing (.pageBank 0x100000 [1, 2]) (.page 0) with flashAt := up.now - 3299999 } ∧
    nx .flashTimeout (writing .verifyBank .verify) = writing .verifyBank .verify := by decide +kernel
/-- A target whose first erase has begun is no valid bank until its trailer is written (R306). -/
theorem test_trailer_ends_the_write :
    (nx (.flashCommandComplete .good) { writing (.trailer 0x100000 [1, 2]) .trailer with spoilt := [(false, false)] }).spoilt = [] ∧
    (nx (.flashCommandComplete .good) (writing (.trailer 0x100000 [1, 2]) .trailer)).bankWr = none ∧
    bankValid { flashed with spoilt := [(false, false)] } false false = false := by decide +kernel
/-- `flashed` with one log record that waits. -/
def noted : State := { flashed with log := { (note flashed evTrip 1 1 []).log with starting := false, nextSlot := 1 } }
theorem test_log_program_suspends_an_erase : noted.log.starting = false ∧ (oldestUnwritten noted.log).isSome = true ∧ noted.logWin.fetching = false ∧
    (match (nx .logProgram noted).flashCmd with | some (.slotLog a d) => (a, d.length) | _ => (0, 0)) = (0x04000040, 64) ∧
    (nx .logProgram { noted with flashCmd := some (.eraseBank 65536) }).flashSusp = some (.eraseBank 65536) := by decide +kernel
theorem test_log_slot_and_header_finish :
    (nx (.flashCommandComplete .good) { noted with flashCmd := some (.slotLog 0x04000040 (leBytes 64 1)) }).log.nextSlot = 2 ∧
    (smGet {} (nx (.flashCommandComplete .good) { noted with flashCmd := some (.slotLog 0x04000040 (leBytes 64 1)) }).log.ring 0).written = true ∧
    (nx (.flashCommandComplete .good) { noted with flashCmd := some (.headerLog 1 (zeros 64)) }).log.actHalf = 1 := by decide +kernel
theorem test_log_window : (nx (.logFselWrite 0x103) flashed).logWin = { block := 3, half := true, ready := false, fetching := true } ∧
    (nx .logFetchComplete (nx (.logFselWrite 0x103) flashed)).logWin.ready = true ∧ (nx (.logFselWrite 0x103) flashed).flashCmd = some .window := by decide +kernel

theorem test_endpoint_id : (nx (.setEndpointId 8) up).mgmt.eid = 8 ∧ (nx (.setEndpointId 0xFE) up).mgmt.eid = 0xFE ∧
    (nx .getEndpointId up).out = [.mgmt busUnit (.control 0x02 0 [up.mgmt.eid])] := by decide +kernel
theorem test_sensor_thresholds : (nx (.pldmSensorRead 0x0001) { up with hay := { up.hay with temps := [(0, 379)] } }).out = [.mgmt busUnit (.pldm 2 0 (int32 379 ++ [1]))] ∧
    (nx (.pldmSensorRead 0x00A0) { up with hay := { up.hay with temps := [(159, 380)] } }).out = [.mgmt busUnit (.pldm 2 0 (int32 380 ++ [2]))] ∧
    (nx (.pldmSensorRead 0x0001) { up with hay := { up.hay with temps := [(0, 440)] } }).out = [.mgmt busUnit (.pldm 2 0 (int32 440 ++ [3]))] := by decide +kernel
theorem test_pldm_base : FirmUp up ∧ up.fuses.lc ≠ 4 ∧ fld (((0x00 : Byte)).setWidth 16) 0 6 = 0 ∧ (0x80 : Byte).getLsbD 7 = true ∧
    (nx (.mctpMessage [0x01, 0x80, 0x00, 0x01, 9]) up).mgmt.tid = 9 ∧
    (nx (.mctpMessage [0x01, 0x80, 0x00, 0x02]) up).out = [.mgmt busUnit (.pldm 0 0 [0])] ∧
    (nx (.mctpMessage [0x01, 0x80, 0x00, 0x06]) up).out = [.mgmt busUnit (.pldm 0 5 [])] ∧ (nx (.mctpMessage [0x7E, 0x80, 0x00, 0x02]) up).out = [] ∧
    (nx (.mctpMessage [0x01, 0x00, 0x00, 0x02]) up).out = [] ∧ (nx (.mctpMessage [0x01, 0x80, 0x03, 0x02]) up).out = [] ∧
    (nx (.mctpMessage [0x01, 0x80, 0x00]) up).out = [] := by
  decide +kernel
/-- The core restarts: nothing is answered (R292). -/
theorem test_no_answer_during_a_restart : (nx (.pldmSensorRead 1) { up with hay := { up.hay with firmRun := false } }).out = [] := by decide +kernel
/-- A packet that came in a class-3 frame leaves the inbox even where nothing answers. -/
theorem test_packet_of_a_frame_is_taken : keepsRoute up 0 = true ∧
    (nx (.pldmSensorRead 1) { up with hay := { up.hay with firmRun := false }, mgmt := { inbox := [{ port := 0, src := 6, tenant := 0, packet := [] }] } }).mgmt.inbox = [] := by decide +kernel
theorem test_sensor_reads : (nx (.pldmSensorRead 0x0201) { up with hay := { up.hay with power := 12345678 } }).out = [.mgmt busUnit (.pldm 2 0 [123, 0, 0, 0])] ∧
    (nx (.pldmSensorRead 0x0001) up).out = [.mgmt busUnit (.pldm 2 0 (int32 (-160) ++ [1]))] ∧ (nx (.pldmSensorRead 0x00A1) up).out = [.mgmt busUnit (.pldm 2 0x80 [])] := by decide +kernel
/-- `up` after the negotiation, with a certificate chain. -/
def spdm : State := { up with mgmt := { verDone := true, capDone := true, algDone := true }, cfg := { up.cfg with idlen := 3, idchain := [1, 2, 3] } }
theorem test_spdm_order : (nx .getVersion up).mgmt.verDone = true ∧ (nx .getCapabilities spdm).mgmt.algDone = false ∧ spdm.mgmt.capDone = true ∧
    (nx (.negotiateAlgorithms true true) { spdm with mgmt := { spdm.mgmt with algDone := false } }).mgmt.algDone = true := by decide +kernel
theorem test_spdm_chain : hasIdentity spdm = true ∧ (nx (.getCertificate 0 2 9) spdm).out = [.mgmt busUnit (.spdm 0x02 [3] none)] ∧ (2 : Nat) < (idChain spdm).length ∧
    (nx (.challenge 0 7) spdm).free ≠ spdm.free ∧ (nx .getDigests { spdm with fuses := {} }).out = [.mgmt busUnit (.spdm 0x01 [0] none)] := by decide +kernel
theorem test_measurement_6 : (nx (.getMeasurements 6 false 0) spdm).out = [.mgmt busUnit (.spdm 0x60 [2, 0, 0, 0] none)] ∧
    (nx (.getMeasurements 2 false 0) { spdm with boot := { spdm.boot with fenced := true } }).out = [.mgmt busUnit (.spdm 0x7F [1] none)] := by decide +kernel
def evented : State := { up with mgmt := { events := [(1, up.now - 100000000, false), (2, up.now - 100000000, true), (3, up.now - 99999999, false)] } }
theorem test_event_retry : (nx .platformEventRetry evented).mgmt.events = [(1, up.now, true), (3, up.now - 99999999, false)] ∧
    (nx .platformEventRetry evented).out = [.mgmt busUnit (.event 1)] ∧ (nx (.setEventReceiver true 9) up).mgmt.receiver = some 9 := by decide +kernel
/-- The answer with instance ID 3 acknowledges event 3, and event 35 with it; one of another command acknowledges nothing. -/
theorem test_event_acknowledged : (0x03 : Byte).getLsbD 7 = false ∧ fld (((0x02 : Byte)).setWidth 16) 0 6 = 2 ∧
    ((nx (.mctpMessage [0x01, 0x03, 0x02, 0x0A, 0]) evented).mgmt.events.map fun e => e.1) = [1, 2] ∧
    (nx (.mctpMessage [0x01, 0x03, 0x02, 0x0B, 0]) evented).mgmt.events = evented.mgmt.events ∧
    (nx (.mctpMessage [0x01, 0x83, 0x02, 0x0A, 0]) evented).mgmt.events = evented.mgmt.events ∧
    (nx (.mctpMessage [0x01, 0x03, 0x02, 0x0A, 0]) { evented with mgmt := { events := [(35, up.now, false)] } }).mgmt.events = [] := by decide +kernel
theorem test_firmware_update_while_a_write_runs :
    (nx (.pldmFirmwareUpdate 1 [] [] 0) { flashed with bankWr := some (bankJob .verify) }).out = [.mgmt busUnit (.pldm 5 stHBusy [])] := by decide +kernel
def pieces : BankWrite := { bankJob (.erase 0) with pldm := true, body := [], len := 100 }
theorem test_firmware_pieces : ((nx (.requestFirmwareData 0 (List.replicate 64 5)) { flashed with bankWr := some pieces }).bankWr.map fun w => w.body.length) = some 64 ∧
    (nx (.activateFirmware true) up).out = [.mgmt busUnit (.pldm 5 0x8C [])] := by decide +kernel

theorem test_por_keeps_the_grant : (nx .porNAssert up).hay = { grant := 75 } ∧ (nx .porNAssert up).boot.phase = .held ∧ (nx .porNAssert up).now = 0 := by decide +kernel
def off : State := nx .porNAssert { up with fuses := { keyset := 1 } }
def chosen : State := nx (.porNRelease flashed.boot.sfdp) off
theorem test_por_release : off.boot.porLow = true ∧ off.fuseOp = none ∧ chosen.boot.phase = .recordChosen ∧ chosen.mask.length = 128 ∧
    (plotOf chosen 159).st = .on ∧ (nx (.porNRelease flashed.boot.sfdp) { off with hay := { grant := 29 } }).hay.powerUps.length = 128 := by decide +kernel
theorem test_warm_reset_keeps_the_timer : up.boot.porLow = false ∧ (nx (.warmNReset flashed.boot.sfdp) up).now = up.now ∧
    (nx (.warmNReset flashed.boot.sfdp) up).boot.warm = true ∧ (nx (.warmNReset flashed.boot.sfdp) (note up evTrip 1 1 [])).log.ring.length ≥ 1 := by decide +kernel
theorem test_partition : chosen.boot.partSeen = false ∧ chosen.now ≤ chosen.boot.recordAt + 1000000000 ∧
    (nx (.partitionReady [2, 3, 4, 5, 6, 7, 8, 9]) chosen).boot.partGib = 16 ∧ (nx (.partitionReady [1, 3, 4, 5, 6, 7, 8, 9]) chosen).boot.farBad = true ∧
    (nx .partitionTimeout { chosen with now := 1000000000 }).boot.farBad = true ∧ (nx .partitionTimeout { chosen with now := 999999999 }).boot.farBad = false := by
  decide +kernel
def wiped : State := nx .farWipeComplete (nx (.partitionReady [2, 3, 4, 5, 6, 7, 8, 9]) chosen)
theorem test_wipe_opens_the_tap : wiped.boot.farWiped = true ∧ wiped.boot.tapFull = true ∧ (nx .farWipeComplete (nx (.partitionReady (List.replicate 8 2))
    { chosen with fuses := { lcGroups := lcFuses 2 } })).boot.tapFull = false ∧ Up (nx .haywardFirmwareStart wiped) ∧
    FirmUp (nx .haywardFirmwareStart wiped) ∧ (objOf (nx .haywardFirmwareStart wiped) 65537).home.loc = 0x02000000 ∧ lockedOn wiped 35 = true := by decide +kernel
theorem test_counts_are_reduced_in_order :
    (smGet {} (applyCfg { nten := 2, ten := [(0, { en := true, weirs := 16000 }), (1, { en := true, weirs := 500 })] } (some 256)).ten 1).weirs = 384 := by decide +kernel
theorem test_tenant_reset : (nx (.tenantReset (args [3])) (setWeir (withStr answering) 0 { val := 5 })).streams.all (fun x => !x.2.inUse) = true ∧
    weirOf (nx (.tenantReset (args [3])) (setWeir up 0 { val := 5 })) 0 = {} ∧
    weirOf (nx (.tenantReset (args [3])) (setWeir up 64 { val := 5 })) 64 = { val := 5 } := by decide +kernel
theorem test_delta_set : newer 8 up.view.epoch = true ∧ (nx (.deltaSet (args [8, 0xA0, 0, 0, 0])) up).view.members = 0xA0 ∧
    smGet 0 (nx (.deltaSet (args [8, 0xA0, 0, 0, 0])) up).view.join 7 = 8 ∧ (nx (.deltaSet (args [8, 0xA0, 0, 0, 0])) windowed).inWin = [] ∧
    (sluiceOf (nx (.deltaSet (args [8, 0xA0, 0, 0, 0])) inSluice) 1).gen = 1 ∧
    Answered (nx (.deltaSet (args [7, 0xA0, 0, 0, 0])) up) 0x51 stDeltaRefused ∧ Answered (nx (.deltaSet (args [8, 0xC0, 0, 0, 0])) up) 0x51 stDeltaRefused := by
  decide +kernel
theorem test_cfg_read : bufferGood flashed 0x400000 32832 = true ∧ resultReg (nx (.cfgRead (args [0x400000, 0])) flashed) 0 = 32832 := by decide +kernel

/-- A request of this engine in Blank to advance to Provisioned. -/
def request : List Byte := leBytes 4 0x5145524C ++ leBytes 2 1 ++ [1, 0] ++ zeros 248
def blank : State := { flashed with fuses := { keyset := 1 } }
theorem test_unsigned_advance : bufferGood blank 0x400000 256 = true ∧ requestAccepted blank request = some (.advance 1) ∧
    (nx (.lcRequest (args [0x400000, 0]) request) blank).fuseOp = some (.advance 1) ∧
    (nx (.lcRequest (args [0x400000, 0]) request) { blank with hay := { blank.hay with sag := true } }).fuseWait = some (.advance 1) ∧
    requestAccepted flashed request = none ∧ Answered (nx (.lcRequest (args [0x400000, 0]) request) flashed) 0x51 stRequestRefused := by decide +kernel
theorem test_key_program : (nx (.keyProgram (args [7, 0x400000, 0]) (zeros 95 ++ [9])) blank).fuseOp = some (.key 7 9) ∧
    Answered (nx (.keyProgram (args [0, 0x400000, 0]) (zeros 96)) blank) 0x51 stSlotWritten ∧ Answered (nx (.keyProgram (args [0, 0x400000, 0]) (zeros 96)) flashed) 0x51 stNotAvailable := by
  decide +kernel
theorem test_fuse_programs : (nx .fuseProgramComplete { flashed with fuseOp := some (.floors 5 0) }).fuses.floor1 = 5 ∧
    (nx .fuseProgramComplete { flashed with fuseOp := some (.revoke 7) }).fuses.keyrev = 0x80 ∧
    (nx .fuseProgramComplete { blank with fuseOp := some (.key 7 9) }).fuses.keyset = 0x81 ∧
    (nx .fuseProgramComplete { blank with fuseOp := some (.advance 1) }).fuses.lc = 1 ∧
    (nx .fuseProgramComplete { blank with fuseOp := some (.advance 1) }).boot.phase = .recordChosen := by decide +kernel
def tap : State := { blank with boot := { blank.boot with tapFull := true } }
theorem test_jtag : (nx (.jtagAccess .idcode) { up with fuses := { step := 2 } }).out = [.jtag 0x2A2C40B7] ∧
    (nx (.jtagAccess (.keyWrite 7 3)) tap).fuseOp = some (.key 7 3) ∧ (nx (.jtagAccess .advanceProvisioned) tap).fuseOp = some (.advance 1) := by decide +kernel
theorem test_jtag_instruction_without_effect : tap.boot.tapFull = true ∧ exec (.jtagAccess (.other 5)) tap = .refused .jtagInstructionNotGiven := ⟨rfl, rfl⟩

theorem test_parameters_read_back_clamped : fld (smGet 0 (nx (.objMove (args [0, 0xBE00])) up).mbx.param 1) 8 8 = 127 ∧
    fld (smGet 0 (nx (.objMove (args [0, 0xBF00])) up).mbx.param 1) 8 8 = 255 ∧ fld (smGet 0 (nx (.fenMask (args [0])) up).mbx.param 0) 8 2 = 1 ∧
    smGet 0 (nx (.deltaSet (args [0])) up).mbx.param 0 = 1 ∧ fld (smGet 0 (nx (.bankWrite (args [3, 9]) []) up).mbx.param 0) 0 2 = 2 ∧
    smGet 0 (nx (.bankWrite (args [3, 9]) []) up).mbx.param 1 = 9 ∧ argOf up (args [3, 9]) 1 = 9 := by decide +kernel
theorem test_doorbell_while_busy : (nx (.objQuery noArgs) { up with mbx := { busy := true } }).mbx = { busy := true, ovr := true } ∧
    Answered (nx (.unknownCommand 0x7F noArgs) up) 0x51 stUnknownCommand ∧ knownCodes.contains 0x7F = false ∧
    Answered (nx (.objQuery noArgs) { up with boot := { up.boot with fenced := true } }) 0x51 stNotAvailable := by decide +kernel
theorem test_register_writes : (nx (.registerWrite 0x30 0xF) { tripped with gen := { intstat := 0xF } }).gen.intstat = 4 ∧
    smGet 0 (nx (.registerWrite 0x1040 7) up).mbx.param 15 = 7 ∧ (nx (.registerWrite 0x1048 6) { up with mbx := { done := true, ovr := true } }).mbx = {} ∧
    (nx (.registerWrite 0x34 0xB) up).gen.inten = 0xF ∧ (nx (.registerWrite 0x1094 9) up).mbx.hflag = 9 ∧ (nx (.registerWrite 0x40 9) up).gen = up.gen := by decide +kernel
theorem test_timer_read : (nx .genTimeloRead up).gen.timeHi = 465 ∧ (nx .genTimeloRead up).out = [.stile (BitVec.ofNat 32 2000000000000)] := by decide +kernel
theorem test_counter_read_clears : dataServed up = true ∧ isCounter 0x46000 = true ∧
    (nx (.telCounterRead 0x46000) { up with tel := [(0x46000, 9)] }).out = [.stile 9] ∧ smGet 0 (nx (.telCounterRead 0x46000) { up with tel := [(0x46000, 9)] }).tel 0x46000 = 0 ∧
    smGet 0 (telAdd { up with tel := [(0x46000, 0xFFFFFFFE)] } 0x46000 5).tel 0x46000 = 0xFFFFFFFF := by decide +kernel
theorem test_detail_window : (nx (.weirDselWrite 0) (weir 9 [waiterFor 1 (up.now + 1001)])).det.shown = [(1, 2, 1, 2)] ∧
    (nx (.weirDselWrite 0x10001) inSluice).det.nwait = 1 := by decide +kernel

/-! ## Terms that are not well formed -/

def okFrame : WireFrame := { bytes := zeros 64, inserted := false }
theorem test_wf_frame : (Instr.hello 0 okFrame).wf = true ∧ (Instr.ack 0 { okFrame with bytes := zeros 63 }).wf = false ∧
    (Instr.dataFrame 0 { okFrame with bytes := [] }).wf = false ∧ (Instr.nak 0 { okFrame with bytes := zeros 96 }).wf = false ∧
    (Instr.credit 0 { okFrame with bytes := [] }).wf = false := by decide +kernel
theorem test_wf_dispatch : (Instr.rillDispatch []).wf = false ∧ (Instr.rillDispatch [3, 3]).wf = false ∧ (Instr.rillDispatch [3, 4]).wf = true := by decide +kernel
/-- `passOut` with operations of Rill 3. -/
def opsOut (l : List RillOp) : Instr := .rillProgramComplete 0 { passOut with ops := l.map fun o => (3, o) }
theorem test_wf_program : (opsOut [.input 524287 [1, 2]]).wf = false ∧ (opsOut [.input 524286 [1, 2]]).wf = true ∧ (opsOut [.table 524033]).wf = false ∧
    (opsOut [.product 0 0 0 0 (.channel 524285) 0]).wf = false ∧ (opsOut [.product 0 0 0 0 (.point 127 1 0 0) 0]).wf = true ∧
    (opsOut [.product 0 0 0 0 (.point 128 1 0 0) 0]).wf = false ∧ (opsOut [.kvWrite 0 0]).wf = true ∧ (opsOut [.kvWrite 96 0]).wf = false ∧
    (opsOut ((List.range 96).map fun n => .kvWrite n 0)).wf = true ∧ (opsOut ((List.range 97).map fun n => .kvWrite n 0)).wf = false ∧
    (opsOut (.scores 0 0 0 (.channel 0) 0 :: (List.range 96).map fun n => .kvWrite n 0)).wf = false ∧
    (opsOut (((List.range 96).map fun n => .kvWrite n 0) ++ [.scores 0 0 0 (.channel 0) 0, .weigh 95 0 0 0, .values 3 0 0 48 (.channel 0) 0])).wf = false ∧
    (opsOut (((List.range 96).map fun n => .kvWrite n 0) ++ [.scores 0 0 0 (.element 0) 0, .weigh 95 0 0 0, .values 3 0 0 32 (.channel 0) 0])).wf = true := by
  decide +kernel
theorem test_wf_flits : (Instr.fabricTokens 0 0 0 0 []).wf = false ∧ (Instr.fabricTokens 0 0 0 0 (List.replicate 13 0)).wf = false ∧
    (Instr.fabricCreditReturn 0 3 1).wf = false ∧ (Instr.fabricCreditReturn 0 0 0).wf = false ∧
    (Instr.fabricReservedFlit 0 (.reservedKind 3)).wf = false ∧ (Instr.fabricReservedFlit 0 (.noSom 3)).wf = false := by decide +kernel
theorem test_wf_memory : (Instr.contentCompletion 0 true 5).wf = false ∧ (Instr.contentCompletion 0 true 4).wf = true ∧
    (Instr.objectReload 131072 noHeader []).wf = false ∧ (Instr.moveSourceFree 131072).wf = false ∧ (Instr.partitionReady [1]).wf = false ∧
    (Instr.requestFirmwareData 0 (zeros 4097)).wf = false := by decide +kernel
theorem test_wf_mailbox : (Instr.objQuery (args (List.replicate 17 0))).wf = false ∧ (Instr.baleLoad (args (List.replicate 17 0)) noHeader).wf = false ∧
    (Instr.bankWrite (args (List.replicate 17 0)) []).wf = false ∧ (Instr.lcRequest noArgs []).wf = false ∧ (Instr.keyProgram noArgs []).wf = false ∧
    (Instr.lcRequest (args (List.replicate 17 0)) (zeros 256)).wf = false ∧ (Instr.keyProgram noArgs (zeros 96)).wf = true := by decide +kernel
theorem test_wf_stile : (Instr.telCounterRead 0x47000).wf = false ∧ (Instr.telCounterRead 0x40001).wf = false ∧ (Instr.telCounterRead 0x3FFFC).wf = false ∧
    (Instr.registerWrite 2 0).wf = false ∧ (Instr.registerWrite 0x100000 0).wf = false ∧ (Instr.portResetRelease true 16).wf = false ∧
    (Instr.portResetRelease false 63).wf = true := by decide +kernel

/-! ## Objects of a Bale, and what a signature and a digest admit -/

set_option maxRecDepth 200000

/-- The bytes of a vocabulary object as one number: token b is the byte b, 256 is "ab", 257 is EOSTOK; one merge. -/
def vocabNum : Nat :=
  let at8 (o x : Nat) : Nat := x * 256 ^ o
  let table (w o : Nat) (f : Nat → Nat) : Nat := (List.range 256).foldl (fun a b => a + at8 (o + w * b) (f b)) 0
  at8 0 1 + at8 4 258 + at8 8 1 + at8 16 257 + at8 24 64 + at8 28 2128 + at8 32 258 + at8 36 2386 + at8 40 2394 + at8 44 2458 +
  at8 48 4506 + table 8 64 (fun b => b + 2 ^ 40) + at8 2112 (256 + 2 ^ 32 + 2 ^ 40) + table 1 2128 (fun b => b) +
  at8 2384 (0x61 + 256 * 0x62) + at8 2386 (0x61 + 0x62 * 2 ^ 19 + 256 * 2 ^ 38) +
  at8 2394 (0x61 + 0x62 * 2 ^ 19 + 256 * 2 ^ 38 + 2 ^ 77) + table 4 2458 (fun b => b) + table 4 3482 (fun b => b)
def vocabBytes : List Byte := leBytes 4538 vocabNum
theorem vToken_leBytes (n x : Nat) (h : VHdr) : vToken (leBytes n x) h = fun i =>
    let x' := x / 256 ^ (h.offtok + 8 * i) % 256 ^ min 8 (n - (h.offtok + 8 * i))
    if bitsOf x' 40 1 = 0 then some { bytes := [], emit := false }
    else if bitsOf x' 0 32 + (bitsOf x' 32 8 + 1) ≤ h.poollen then
      some { bytes := leBytes (min (bitsOf x' 32 8 + 1) (n - (h.offpool + bitsOf x' 0 32))) (x / 256 ^ (h.offpool + bitsOf x' 0 32)), emit := true }
    else none := by
  funext i
  simp only [vToken, leAt_leBytes, slice_leBytes]
theorem test_vocabulary_object_parses : (parseVocab vocabBytes).isSome = true := by
  simp only [vocabBytes, parseVocab, vHdr, vHdrGood, vToken_leBytes, byteTable, vMerges, vSlots, vRanges, leAt_leBytes, leBytes_take,
    leNat_leBytes, leBytes_length]
  decide +kernel

/-- A Bale header: FORMAT 1, K 2, shards of 4096 bytes, PAYLEN 8192, BALESEQ 2, BALEID 5, one object, manifest at 4096. -/
def hdrHead : List Byte :=
  leBytes 4 0x4C424156 ++ leBytes 2 1 ++ [2, 0] ++ leBytes 4 1 ++ leBytes 8 8192 ++ leBytes 4 2 ++ leBytes 8 5 ++ leBytes 2 0 ++ leBytes 2 1 ++
  leBytes 4 4096 ++ leBytes 4 48 ++ zeros 84
/-- Data shard 0: a seed of one point with one group. -/
def shardA : List Byte := leBytes 2 1 ++ [1, 0] ++ leBytes 4 0xFFFFFFFF ++ zeros 4088
/-- Data shard 1: a manifest that lists the seed in the far tier. -/
def shardB : List Byte := leBytes 2 1 ++ leBytes 2 1 ++ zeros 12 ++ leBytes 8 4 ++ leBytes 8 0 ++ leBytes 8 64 ++ zeros 8 ++ zeros 4048
/-- Data shard 1 of another image: its manifest lists a classifier whose home is Rill 0. -/
def shardC : List Byte := leBytes 2 1 ++ leBytes 2 1 ++ zeros 12 ++ leBytes 8 (3 + 2 ^ 24) ++ leBytes 8 0 ++ leBytes 8 64 ++ zeros 8 ++ zeros 4048
def hdrBody2 : List Byte := hdrHead ++ leBytes 8 0xdf8bd605ce7ba04a ++ leBytes 8 0x8888b795ea810c6e ++ zeros 3920
def goodHdr2 : List Byte := hdrBody2 ++ (leBytes 8 0x59d26c9950abb2ba ++ zeros 24)
def image2 : BaleImage := { hdrA := goodHdr2, hdrB := [], shards := [shardA, shardC], classes := [desc], fens := [] }
def hdrBody : List Byte := hdrHead ++ leBytes 8 0xdf8bd605ce7ba04a ++ leBytes 8 0x29d968180d4d3f1b ++ zeros 3920
def goodHdr : List Byte := hdrBody ++ (leBytes 8 0x20eb5b02bb2850e9 ++ zeros 24)
def image : BaleImage := { hdrA := goodHdr, hdrB := [], shards := [shardA, shardB], classes := [], fens := [] }
/-- `flashed` with key 0 written, in which that image loads: both data shards have been read. -/
def signed : State :=
  { flashed with fuses := { lcGroups := lcFuses 2, keyset := 3 }, boot := { flashed.boot with baleFmts := [1] }, cfg := { flashed.cfg with fargib := 16 },
                 load := { state := .loading, image := some image, present := 15, asked := [0, 1], staged := true } }
def signed2 : State := { signed with load := { signed.load with image := some image2 } }
/-- Signatures verify, digests are 0: one behaviour that the opaque functions may have. -/
def Accepting : Prop := (∀ k d r t, Config.ecdsaVerify k d r t = true) ∧ ∀ l, Config.sha384 l = 0

/-- A left fold that evaluates its value at every step. -/
def foldNow {α : Type} (f : W64 → α → W64) : W64 → List α → W64
  | a, [] => a
  | a, b :: r => if f a b = 0 then foldNow f 0 r else foldNow f (f a b) r
theorem foldl_eq_foldNow {α : Type} (f : W64 → α → W64) (a : W64) (l : List α) : l.foldl f a = foldNow f a l := by
  induction l generalizing a with
  | nil => rfl
  | cons b r ih =>
    rw [List.foldl_cons, foldNow]
    split
    · rename_i h; rw [h, ih]
    · exact ih _
theorem crc_of_shardA : crc64 shardA = 0xdf8bd605ce7ba04a#64 := by rw [crc64, foldl_eq_foldNow]; decide +kernel
theorem crc_of_shardB : crc64 shardB = 0x29d968180d4d3f1b#64 := by rw [crc64, foldl_eq_foldNow]; decide +kernel
theorem crc_of_header : crc64 hdrBody = 0x20eb5b02bb2850e9#64 := by rw [crc64, foldl_eq_foldNow]; decide +kernel
theorem crc_of_shardC : crc64 shardC = 0x8888b795ea810c6e#64 := by rw [crc64, foldl_eq_foldNow]; decide +kernel
theorem crc_of_header2 : crc64 hdrBody2 = 0x59d26c9950abb2ba#64 := by rw [crc64, foldl_eq_foldNow]; decide +kernel
theorem test_header_lengths : hdrBody.length = 4064 ∧ goodHdr.length = 4096 ∧ hdrBody2.length = 4064 ∧ shardA.length = 4096 ∧ shardB.length = 4096 := by
  decide +kernel
theorem header_is_used (h : Accepting) (s : State) (m : BaleImage) (body tail : List Byte) (l : m.hdrA = body ++ tail) (n : body.length = 4064)
    (a : (decide (m.hdrA.length = 4096) && decide (leAt m.hdrA 0 4 = 0x4C424156) && hdrRanges m.hdrA) = true)
    (b : BitVec.ofNat 64 (leAt m.hdrA 4064 8) = crc64 body)
    (c : (decide ((baleHdr m.hdrA).keyid < 8) && bitAt s.fuses.keyset (baleHdr m.hdrA).keyid && !bitAt s.fuses.keyrev (baleHdr m.hdrA).keyid) = true) :
    usedHdr s m = some m.hdrA := by
  have t : m.hdrA.take 4064 = body := by rw [l]; exact List.take_left' n
  have e : hdrGood s m.hdrA = true := by
    rw [hdrGood, a, t, b, sigGood, c, h.1]
    simp
  simp only [usedHdr, e, if_true]
theorem test_good_header (h : Accepting) : usedHdr signed image = some goodHdr :=
  header_is_used h signed image _ _ rfl (by decide +kernel) (by decide +kernel) (by rw [crc_of_header]; decide +kernel) (by decide +kernel)
theorem test_good_header2 (h : Accepting) : usedHdr signed2 image2 = some goodHdr2 :=
  header_is_used h signed2 image2 _ _ rfl (by decide +kernel) (by decide +kernel) (by rw [crc_of_header2]; decide +kernel) (by decide +kernel)
theorem test_load_goes_on : signed.boot.baleFmts.contains (baleHdr goodHdr).format = true ∧ notNewer signed (baleHdr goodHdr) = false ∧
    unaskedData signed (baleHdr goodHdr) = [] ∧ loadWaits signed = false := by decide +kernel
theorem test_load_of_no_newer_bale :
    notNewer { ready with tabA := { ready.tabA with bales := [{ baleid := 0, baleseq := 0, hdr := [] }] } } { baleHdr goodHdr with id := 0, seq := 0 } = true := by
  decide +kernel
theorem test_load_loses_its_shards : repair { signed with load := { signed.load with present := 0, asked := [] } } goodHdr image = .lost [0, 1, 2, 3] := by
  decide +kernel
theorem two_good_shards (h : Accepting) (s : State) (hb : List Byte) (m : BaleImage) (x y : List Byte) (c d : W64)
    (f : shardMissing s 0 = false ∧ shardMissing s 1 = false ∧ scrc hb 0 = c ∧ scrc hb 1 = d ∧ sdig hb 0 = 0 ∧ sdig hb 1 = 0 ∧ (baleHdr hb).k = 2)
    (a : shardOf m 0 = x) (b : shardOf m 1 = y) (p : crc64 x = c) (q : crc64 y = d) : repair s hb m = .good [x, y] [] := by
  obtain ⟨f0, f1, f2, f3, f4, f5, k⟩ := f
  have g0 : shardBad s hb m 0 = false := by rw [shardBad, f0, a, p, f2, digGood, h.2, f4]; simp
  have g1 : shardBad s hb m 1 = false := by rw [shardBad, f1, b, q, f3, digGood, h.2, f5]; simp
  have e : (List.range 2).filter (shardBad s hb m) = [] := by simp [List.range_succ, g0, g1]
  have z : (List.range 2).map (shardOf m) = [x, y] := by rw [show List.range 2 = [0, 1] from rfl]; simp [a, b]
  rw [repair]
  simp only [k, e, z]
theorem test_shards_are_good (h : Accepting) : repair signed goodHdr image = .good [shardA, shardB] [] :=
  two_good_shards h _ _ _ _ _ _ _ (by decide +kernel) rfl rfl crc_of_shardA crc_of_shardB
theorem test_shards_are_good2 (h : Accepting) : repair signed2 goodHdr2 image2 = .good [shardA, shardC] [] :=
  two_good_shards h _ _ _ _ _ _ _ (by decide +kernel) rfl rfl crc_of_shardA crc_of_shardC
/-- Shard 0 could not be read: the parity shard is asked for. -/
def oneMissing : State := { signed with load := { signed.load with missing := [0] } }
theorem test_parity_is_asked_for (h : Accepting) : repair oneMissing goodHdr image = .need 2 := by
  have f : shardMissing oneMissing 0 = true ∧ shardMissing oneMissing 1 = false ∧ shardMissing oneMissing 2 = false ∧ scrc goodHdr 1 = 0x29d968180d4d3f1b#64 ∧
      sdig goodHdr 1 = 0 ∧ (baleHdr goodHdr).k = 2 ∧ oneMissing.load.asked.contains 2 = false := by decide +kernel
  obtain ⟨f0, f1, f2, f3, f4, k, u⟩ := f
  have g0 : shardBad oneMissing goodHdr image 0 = true := by rw [shardBad, f0]; simp
  have g1 : shardBad oneMissing goodHdr image 1 = false := by
    rw [shardBad, f1, show shardOf image 1 = shardB from rfl, crc_of_shardB, f3, digGood, h.2, f4]; simp
  have e : (List.range 2).filter (shardBad oneMissing goodHdr image) = [0] := by simp [List.range_succ, g0, g1]
  rw [repair]
  simp only [k, e, f2, u, Bool.not_false, Bool.and_self, if_true]
theorem test_staging_is_read_first (h : Accepting) : usedHdr { signed with load := { signed.load with staged := false } } image = some goodHdr ∧
    unaskedData { signed with load := { signed.load with staged := false } } (baleHdr goodHdr) = [] ∧
    loadWaits { signed with memTags := [(1, .used .stage 9)] } = true :=
  ⟨header_is_used h _ image _ _ rfl (by decide +kernel) (by decide +kernel) (by rw [crc_of_header]; decide +kernel) (by decide +kernel),
   by decide +kernel, by decide +kernel⟩
theorem test_load_with_moves : (match buildSet signed2 image2 goodHdr2 [shardA, shardC] with | .ok u => u.load.moving | .error _ => []) = [65538] ∧
    (match buildSet signed image goodHdr [shardA, shardB] with | .ok u => u.load.moving | .error _ => [1]) = [] := by decide +kernel
theorem reread_good_shard (h : Accepting) (s : State) (o : Obj) (m : BaleImage) (hb : List Byte) (i : Nat) (c : W64) (u : usedHdr s m = some hb)
    (e : ((baleHdr hb).id, (baleHdr hb).seq) = o.bale) (k : shardsHolding (baleHdr hb) o = [i]) (p : crc64 (shardOf m i) = c)
    (f : bitsOf (2 ^ 66 - 1) i 1 = 1 ∧ scrc hb i = c ∧ sdig hb i = 0) :
    reread s o m [] = .ok (slice ((List.range (baleHdr hb).k).map (shardOf m)).flatten o.off o.size) := by
  have g : ∀ t : State, t.load.present = 2 ^ 66 - 1 → t.load.missing = [] → shardBad t hb m i = false := by
    intro t x z
    have w : shardMissing t i = false := by rw [shardMissing, x, f.1, z]; rfl
    rw [shardBad, w, p, f.2.1, digGood, h.2, f.2.2]; simp
  rw [reread, u]
  simp only [e, k, ne_eq, not_true_eq_false, if_false, List.any_cons, List.any_nil, Bool.or_false]
  rw [g _ rfl rfl]
  simp
/-- The seed of that image, lost, in a running engine. -/
def lostSeed : State := setObj signed 65541 { state := .lost, kind := .pinned, size := 64, pref := { tier := .far }, bale := (5, 2), off := 0 }
theorem test_object_reload (h : Accepting) :
    reread lostSeed (objOf lostSeed 65541) image [] = .ok (slice ((List.range (baleHdr goodHdr).k).map (shardOf image)).flatten 0 64) ∧
    reloadHome lostSeed 65541 = some { tier := .far } ∧ (placeIn lostSeed { tier := .far } 64).isSome = true :=
  ⟨reread_good_shard h lostSeed _ image goodHdr 0 _
    (header_is_used h _ image _ _ rfl (by decide +kernel) (by decide +kernel) (by rw [crc_of_header]; decide +kernel) (by decide +kernel))
    (by decide +kernel) (by decide +kernel) crc_of_shardA (by decide +kernel), by decide +kernel⟩
theorem test_build_of_no_manifest : (match buildSet signed image goodHdr [zeros 4096, zeros 4096] with | .ok _ => 0 | .error st => st) = stObjectInvalid := by
  decide +kernel

/-- A signed request to raise the floors. -/
def floorRequest : List Byte := leBytes 4 0x5145524C ++ leBytes 2 2 ++ [3, 0] ++ zeros 16 ++ leBytes 2 5 ++ leBytes 2 6 ++ zeros 228
theorem test_signed_request (h : Accepting) : requestAccepted signed floorRequest = some (.floors 5 6) := by
  have a : requestOp floorRequest = some (.floors 5 6) := by decide +kernel
  have b : requestForm signed floorRequest = true := by decide +kernel
  have c : (decide (leAt floorRequest 7 1 < 8) && bitAt signed.fuses.keyset (leAt floorRequest 7 1) && !bitAt signed.fuses.keyrev (leAt floorRequest 7 1)) = true := by
    decide +kernel
  have d : requestAllowed signed (.floors 5 6) = true := by decide +kernel
  simp [requestAccepted, a, b, d, requestSigned, sigGood, h.1, c]

/-- A trailer of an empty configuration body. -/
def trHead : List Byte := leBytes 4 0x4B4E4142 ++ leBytes 2 1 ++ leBytes 2 1 ++ zeros 220
def goodTrailer : List Byte := trHead ++ leBytes 4 (crc32c trHead).toNat ++ zeros 3864
theorem test_good_image (h : Accepting) : imageCheck signed false goodTrailer [] [] = 0 := by
  have a : trailerForm signed false goodTrailer = true := by decide +kernel
  have c : (decide (trKey goodTrailer < 8) && bitAt signed.fuses.keyset (trKey goodTrailer) && !bitAt signed.fuses.keyrev (trKey goodTrailer)) = true := by
    decide +kernel
  have l : goodTrailer.length = 4096 := by decide +kernel
  simp [imageCheck, a, l, trailerSig, sigGood, h.1, c]
theorem test_body_verifies (h : Accepting) : bodyVerifies signed { bankJob .verify 0 with trailer := goodTrailer } = true := by
  have a : trBodyLen goodTrailer = 0 := by decide +kernel
  have b : leAt goodTrailer 12 4 = 0 := by decide +kernel
  have c : leAt goodTrailer 16 48 = 0 := by decide +kernel
  have d : crc32c [] = 0 := by decide +kernel
  simp [bodyVerifies, trailerBody, bankJob, a, b, c, d, h.2]

/-! ## Further clauses: links, pool and fabric ports -/

/-- Data frames as one that reads the line may find them: with a bit of the header, or of the payload, wrong. -/
def badHcrc : WireFrame := { dataIn 0 1 false with bytes := 0x80 :: (dataIn 0 1 false).bytes.drop 1 }
def badFcrc (cls : BitVec 2) (seq : BitVec 12 := 0) : WireFrame :=
  let l := (dataIn seq cls false).bytes
  { dataIn seq cls false with bytes := l.take 20 ++ 0xFF :: l.drop 21 }
def episode : State := withPort 0 fun x => { x with rxEp := true }
theorem test_bad_hcrc : hcrcGood badHcrc.bytes = false ∧ linkClock up 0 = true ∧ (portOf up 0).rxEp = false ∧
    (portOf (nx (.dataFrame 0 badHcrc) up) 0).rxEp = true ∧ smGet 0 (nx (.dataFrame 0 badHcrc) up).tel (telLnk 0 3) = 1 ∧
    (nx (.dataFrame 0 badHcrc) episode).out = [] := by decide +kernel
theorem test_bad_fcrc : hcrcGood (badFcrc 1).bytes = true ∧ fcrcGood (badFcrc 1).bytes = false ∧ (parseHdr (badFcrc 1).bytes).kind = kData ∧
    lengthGood (badFcrc 1).bytes = true ∧ seqOf (badFcrc 1).bytes = 0 ∧ seqOf (badFcrc 1 1).bytes ≠ (portOf up 0).nextRx ∧
    (portOf (nx (.dataFrame 0 (badFcrc 1)) up) 0).rxEp = true ∧ (nx (.dataFrame 0 (badFcrc 1)) episode).out.length = 1 ∧
    (nx (.dataFrame 0 (badFcrc 1 1)) episode).out = [] ∧ fcrcGood (badFcrc 2).bytes = false ∧ (parseHdr (badFcrc 2).bytes).cls = 2 := by decide +kernel
/-- A flit left at fabric port `f`. -/
def leftAt (f : Nat) (s : State) : Bool := s.out.any fun o => match o with | .fabric g _ => decide (f = g) | _ => false
/-- Frames of member 6 for fabric port 2. -/
def toFabric : Frame := { cls := 0, csf := 0x200, src := 6, dst := 5, tenant := 3, epoch := 7, payload := [1] }
def toFabric2 : Frame := { toFabric with cls := 2, csf := 2 }
theorem test_class0_for_a_fabric_port : headerError up 0 (parseHdr (wire toFabric kData).bytes) = false ∧ stompOf (wire toFabric kData).bytes = false ∧
    linkCodes.contains ((parseHdr (wire toFabric kData).bytes).csf.setWidth 8) = false ∧ fld (parseHdr (wire toFabric kData).bytes).csf 8 4 = 2 ∧
    fbUsable up 2 = true ∧ fbLive (fbOf up 2) = true ∧ fbClass0Free up 2 = true ∧ c0LaneFree up 0 = true ∧
    leftAt 2 (nx (.dataFrame 0 (wire toFabric kData)) up) = true ∧
    fbClass0Free (fbWith fun x => { x with c0Out := 32 }) 2 = false ∧
    (nx (.dataFrame 0 (wire toFabric kData)) (fbWith fun x => { x with c0Out := 32 })).c0wait.map (·.egress) = [66] ∧
    fbUsable { up with cfg := { up.cfg with fben := 0 } } 2 = false ∧
    smGet 0 (nx (.dataFrame 0 (wire toFabric kData)) { up with cfg := { up.cfg with fben := 0 } }).tel (telLnk 0 13) = 1 := by decide +kernel
theorem test_class2_for_a_fabric_port : headerError up 0 (parseHdr (wire toFabric2 kData).bytes) = false ∧ laneFree (portOf up 0).rxq = true ∧
    fbPasses up 2 (dataFlits 0 1 false (frameOf (wire toFabric2 kData).bytes .none)).length = true ∧
    leftAt 2 (nx (.dataFrame 0 (wire toFabric2 kData)) up) = true ∧
    fbPasses (fbWith fun x => { x with txCred := {} }) 2 1 = false ∧
    ((portOf (nx (.dataFrame 0 (wire toFabric2 kData)) (fbWith fun x => { x with txCred := {} })) 0).rxq.map (·.pass)) = [true] ∧
    laneFree [({ frame := {}, flits := 1 } : RxItem)] = false := by decide +kernel
/-- Frames for member 9 behind port 1, and for a member without a route. -/
def onward (dst : BitVec 6) (cls : BitVec 2) : Frame := { cls := cls, src := 6, dst := dst, tenant := 3, epoch := 7, payload := [1], csf := 2 }
def routed9 (s : State := up) : State := { s with cfg := { s.cfg with role := [(0, .peer), (1, .peer)], route := [(9, { pri := some 1 })] } }
theorem test_transit : headerError routed9 0 (parseHdr (wire (onward 9 0) kData).bytes) = false ∧ routeTo routed9 9 = some 1 ∧ routeTo routed9 10 = none ∧
    linkClass0Free routed9 1 = true ∧ c0LaneFree routed9 0 = true ∧ linkPasses routed9 1 (onward 9 2) = true ∧
    ((portOf (nx (.dataFrame 0 (wire (onward 9 0) kData)) routed9) 1).txq.map (·.origin)) = [.transit] ∧
    ((portOf (nx (.dataFrame 0 (wire (onward 9 2) kData)) routed9) 1).txq.map (·.origin)) = [.transit] ∧
    ((portOf (nx (.dataFrame 0 (wire (onward 9 1) kData)) routed9) 0).rxq.map fun i => (i.pass, i.frame.origin)) = [(true, .transit)] ∧
    (nx (.dataFrame 0 (wire (onward 10 2) kData)) routed9).log.any = true := by decide +kernel
theorem test_transit_waits : linkClass0Free (routed9 (withPort 1 fun x => { x with c0Out := 16 })) 1 = false ∧
    (nx (.dataFrame 0 (wire (onward 9 0) kData)) (routed9 (withPort 1 fun x => { x with c0Out := 16 }))).c0wait.map (·.egress) = [1] ∧
    linkPasses (routed9 (withPort 1 fun x => { x with txCred := {} })) 1 (onward 9 2) = false ∧
    ((portOf (nx (.dataFrame 0 (wire (onward 9 2) kData)) (routed9 (withPort 1 fun x => { x with txCred := {} }))) 0).rxq.map (·.pass)) = [true] := by
  decide +kernel
/-- An SOS frame for a member without a route is refused on its own port. -/
def onwardSos : Frame := { onward 10 1 with sos := true, csf := 0x21, payload := zeros 16 }
theorem test_transit_of_an_sos_without_a_route : (parseHdr (wire onwardSos kData).bytes).sos = true ∧ keepsRoute routed9 0 = true ∧
    ((portOf (nx (.dataFrame 0 (wire onwardSos kData)) routed9) 0).txq.map (·.cls)) = [1] := by decide +kernel
theorem test_fenced_transit : (portOf (nx (.dataFrame 0 (wire { onward 9 0 with fence := true } kData)) routed9) 0).rxFenced.length = 1 := by decide +kernel

theorem test_resend_has_the_line :
    (resendNext (portOf (withPort 0 fun x => { x with replay := [{ sent1 with pend := true }] }) 0)).map (·.seq) = some 4 ∧
    (portOf (nx (.linkFrameSend 0 1) (withPort 0 (fun x => { x with replay := [{ sent1 with pend := true }] }) queued)) 0).nextTx = 0 ∧
    resendNext (portOf (withPort 0 fun x => { x with replay := [{ sent1 with pend := true, spent := false }], txCred := {} }) 0) = none ∧
    nx (.linkFrameSend 0 1) (withPort 0 (fun x => { x with replay := [{ sent1 with pend := true, spent := false }], txCred := {} }) queued) =
      withPort 0 (fun x => { x with replay := [{ sent1 with pend := true, spent := false }], txCred := {} }) queued := by decide +kernel

/-- A fenced frame for member 9 in port 0's buffer. -/
def fencedOnward (s : State := routed9) : State := withPort 0 (fun x => { x with rxFenced := [(2, 0, { onward 9 0 with fence := true })], accNo := 2 }) s
theorem test_fenced_transit_leaves : earlierHanded fencedOnward 0 2 = true ∧ fencePasses fencedOnward 9 { onward 9 0 with fence := true, origin := .transit } = true ∧
    (portOf (nx (.fencedHandover 0) fencedOnward) 1).txq.length = 1 ∧
    fencePasses (fencedOnward (withPort 1 (fun x => { x with txq := [{ dst := 9 }] }) routed9)) 9 { onward 9 0 with fence := true, origin := .transit } = false ∧
    (nx (.fencedHandover 0) (fencedOnward (withPort 1 (fun x => { x with txq := [{ dst := 9 }] }) routed9))).c0wait.map (·.egress) = [81] := by decide +kernel
theorem test_hub_lane_is_full : hubTakes (fencedIn) 0 = true ∧
    hubTakes (withPort 0 (fun x => { x with hubOps := List.replicate 4 (0, {}) }) fencedIn) 0 = false ∧
    (nx (.fencedHandover 0) (withPort 0 (fun x => { x with hubOps := List.replicate 4 (0, {}) }) fencedIn)).c0wait.length = 1 := by decide +kernel
theorem test_route_hold_waits : smGet [] (withPort 1 (fun x => { x with txq := [{ cls := 2, dst := 6 }] }) routeHeld).routeHold 6 ≠ [] ∧
    (nx (.fencedRouteRelease 6) (withPort 1 (fun x => { x with txq := [{ cls := 2, dst := 6 }] }) routeHeld)).routeHold.length = 1 := by decide +kernel
/-- A class-0 flit for fabric port 2 in a buffer of the shared region. -/
def sharedFor2 (s : State := up) : State :=
  { s with c0wait := [{ egress := 66, ingress := 0, frame := toFabric, flit := { fclass := 0, fkind := 1 }, buf := .shared }], poolUsed := 1 }
theorem test_release_toward_a_fabric_port : (sharedFor2.c0wait.findIdx? (fun w => decide (w.egress = 66) && w.buffered)) = some 0 ∧
    fabricClock sharedFor2 2 = true ∧ (nx (.class0ReserveRelease 66) sharedFor2).poolUsed = 0 ∧ (nx (.class0ReserveRelease 66) sharedFor2).out.length = 1 ∧
    nx (.class0ReserveRelease 66) (sharedFor2 (fbWith fun x => { x with c0Out := 32 })) = sharedFor2 (fbWith fun x => { x with c0Out := 32 }) ∧
    smGet 0 (nx (.class0ReserveRelease 66) (sharedFor2 { up with cfg := { up.cfg with fben := 0 } })).tel (telLnk 0 13) = 1 ∧
    linkC0Room (withPort 0 fun x => { x with c0Out := 16 }) 0 = false := by decide +kernel
theorem test_class0_takes_a_shared_buffer : c0Head { unreserved with poolRes := 256 } 1 = some 0 ∧
    rotPick unreserved.rotPtr ((requesters { unreserved with poolRes := 256 }).filter (96 ≤ ·)) = some (96 + 1) ∧
    (nx .poolAllocate { unreserved with poolRes := 256 }).poolUsed = 1 ∧ ((nx .poolAllocate { unreserved with poolRes := 256 }).c0wait.map (·.buf)) = [.shared] ∧
    smGet 0 (nx .poolAllocate { unreserved with poolRes := 256, poolUsed := 98048 }).tel (telEng 0) = 1 := by decide +kernel
/-- A fenced frame for member 9 at the head of port 0's class-0 lane. -/
def fencedHead : State := { routed9 with c0wait := [{ egress := 81, ingress := 0, frame := { onward 9 0 with fence := true }, flit := { fclass := 0, fkind := 1 }, inFord := true }] }
theorem test_fenced_transit_takes_a_buffer : rotPick fencedHead.rotPtr ((requesters fencedHead).filter (96 ≤ ·)) = some (96 + 0) ∧ c0Head fencedHead 0 = some 0 ∧
    routeTo fencedHead 9 = some 1 ∧ ((portOf (nx .poolAllocate fencedHead) 1).txq.map (·.c0)) = [.reserve] := by decide +kernel
/-- A frame that waits at fabric port 2, and an Eddy that wants a buffer. -/
def fabLaned : State := fbWith fun x => { x with rxw := [{ frame := onward 6 2, pass := true, flits := 5, ford := 5 }] }
theorem test_pool_serves_fabric_ports : (requesters fabLaned).filter (96 ≤ ·) = [] ∧ rotPick fabLaned.rotPtr ((requesters fabLaned).filter (· < 96)) = some (64 + 2) ∧
    ((laneHead (fbOf fabLaned 2).rxw).map fun i => (takeBuf i).stored) = some false ∧ (nx .poolAllocate fabLaned).poolUsed = 1 := by decide +kernel

/-! ## Further clauses: admission, searches, programs and operations -/

/-- Every Rill but those that run is gated, and none is left. -/
def lessRills (s : State) : State := { s with plots := [], mask := [] }
theorem test_check_2_runs_again : check2 (routed (lessRills ready)) sos = some stTooFewRills ∧
    (nx (.admission 0) (routed (lessRills ready))).adms = [] ∧
    (portOf (nx (.admission 0) (routed (lessRills ready))) 0).txq.length = 1 ∧
    fbUsable (routed (fbWith (fun x => { x with held := true }) ready)) 2 = false ∧ check2 (routed (fbWith (fun x => { x with held := true }) ready)) sos = none ∧
    (nx (.admission 0) (routed (fbWith (fun x => { x with held := true }) ready))).adms = [] := by decide +kernel
theorem test_admission_without_a_mask : bmEn (maskOfTenant (sosIn sos { ready with tabA := { ready.tabA with masks := [] } }) 3 ktHeader) = false ∧
    (nx (.admission 0) (sosIn sos { ready with tabA := { ready.tabA with masks := [] } })).adms = [] ∧
    (portOf (nx (.admission 0) (sosIn sos { ready with tabA := { ready.tabA with masks := [] } })) 0).txq =
      [recordFrame ready sos (refuseRec sos stSNoRoute 0 0)] := by decide +kernel
/-- Sixteen results of pipelines 0 to 3 wait in front of the Hub. -/
def fordFull (s : State) : State := { s with fenRes := List.replicate 16 (3, .first 9 .miss) }
theorem test_search_waits_for_room : resultRoom (fordFull (searching 0x2000)) 0 = false ∧
    nx (.fenSearch 0) (fordFull (searching 0x2000)) = fordFull (searching 0x2000) ∧ resultRoom (fordFull (searching 0x2000)) 4 = true := by decide +kernel
theorem test_results_leave_in_order : (takeResult { ready with fenRes := [(4, .count 0 0 [] false), (5, .first 0 .miss), (0, .first 1 .error)] } isFirst).map (·.1) =
      some (.first 1 .error) ∧
    (takeResult { ready with fenRes := [(4, .count 0 0 [] false), (5, .first 0 .miss)] } isFirst).isNone = true ∧
    (takeResult (unlocked 28 { ready with fenRes := [(0, .first 1 .error)] }) isFirst).isNone = true := by decide +kernel
/-- The summary classifier lies in the far tier. -/
def farSet (s : State := jobbed [.summary 0]) : State :=
  setObj s 65539 { nearObj .classifier (.classifier 1 desc) with home := { tier := .far, loc := 0x400000 } }
theorem test_dispatch_reads_far_weights : (memIssue farSet 0x400000 65536 false (.weights 0 65539)).isSome = true ∧
    smGet [] (nx (.rillDispatch [127]) farSet).progs 0 = [prog (.summary 0) [127]] ∧ weightsAsked (nx (.rillDispatch [127]) farSet) 0 = true ∧
    (nx (.rillProgramComplete 0 passOut) (nx (.rillDispatch [127]) farSet)).progs = (nx (.rillDispatch [127]) farSet).progs ∧
    memIssue (unlocked 32 farSet) 0x400000 65536 false (.weights 0 65539) = none ∧
    smGet [] (nx (.rillDispatch [127]) (unlocked 32 farSet)).disp 15 = [prog (.summary 0) [127]] := by decide +kernel
/-- Rill 127 has been long idle, at divider 4. -/
def idle127 : State := setPlot (jobbed [.summary 0]) 127 { st := .stretched, div := 4 }
theorem test_dispatch_ends_idleness : (plotOf (nx (.rillDispatch [127]) idle127) 127).div = 1 ∧ longIdle idle127 127 = true ∧
    longIdle (nx (.rillDispatch [127]) idle127) 127 = false := by decide +kernel
theorem test_slow_classifier_makes_its_stream_wait : (streamOf (nx (.rillDispatch [127]) slowSet) 0).waited = true := by decide +kernel
/-- The stream of `lastPart` has a grammar in the far tier. -/
def farPrompt : State := setObj (withStr { lastPart with gen := true, gramObj := some 65537 }) 65537
  { nearObj .grammar (.grammar gram) with home := { tier := .far, loc := 0x400000 } }
theorem test_far_prompt_waits_for_its_mask : farGrammar farPrompt (streamOf farPrompt 0) = some 65537 ∧
    makeMask (grammarOf farPrompt (streamOf farPrompt 0)) 3 {} ≠ [] ∧
    (streamOf (nx (.rillProgramComplete 8 passOut) (inFlight (.summary 0) farPrompt)) 0).maskDue = true ∧
    (streamOf (nx (.rillProgramComplete 8 passOut) (inFlight (.summary 0) farPrompt)) 0).fwdIds = 0 := by decide +kernel
theorem test_far_mask_is_read : Machine.gramAsked (nx (.hedgeStep 0) (setObj (withStr { answering with gen := true, gramObj := some 65537, maskDue := true }) 65537
    { nearObj .grammar (.grammar gram) with home := { tier := .far, loc := 0x400000 } })) 0 = true ∧
    nx (.hedgeStep 0) (withStr { answering with gen := true, gramObj := some 65537, verdictDone := false, ansIds := [1] }) =
      withStr { answering with gen := true, gramObj := some 65537, verdictDone := false, ansIds := [1] } := by decide +kernel
theorem test_hedge_passes_an_id_out_of_range : (streamOf (nx (.hedgeStep 0) (setObj (hedged 0 [] 4) 65537
    { nearObj .grammar (.grammar gram) with home := { tier := .far, loc := 0x400000 } })) 0).hedged = 1 := by decide +kernel
/-- The two reads of a step need both pieces of a port: Brook 32 has no lock. -/
theorem test_step_waits_for_its_reads : stepRequest waiting 0 = false ∧
    memIssue (unlocked 32 waiting) (objOf waiting 0).home.loc.toNat (objOf waiting 0).size false (.kv 0) = none ∧
    nx (.firstStageStep 0) (unlocked 32 waiting) = unlocked 32 waiting := by decide +kernel
/-- A program with a correctable and an uncorrectable error. -/
def bothErrors : ProgOut := { storing with ops := [(0, .input 64 [7]), (0, .table 64)], flips := [(0, 9)], sramErr := some { rill := 0, bank := 1, word := 2 } }
theorem test_both_sram_errors : smGet 0 (nx (.rillProgramComplete 8 bothErrors) (inFlight (.summary 0) inRill0)).tel (telEng 3) = 1 ∧
    smGet 0 (nx (.rillProgramComplete 8 bothErrors) (inFlight (.summary 0) inRill0)).tel (telEng 4) = 1 ∧
    (streamOf (nx (.rillProgramComplete 8 bothErrors) (inFlight (.summary 0) inRill0)) 0).inUse = false := by decide +kernel
/-- Stream 0 of fabric port 2 wants a buffer for its Eddy, or for its backlog. -/
theorem test_pool_serves_streams : (requesters (withStr { answering with wantBuf := 1 })).filter (96 ≤ ·) = [] ∧
    rotPick (withStr { answering with wantBuf := 1 }).rotPtr ((requesters (withStr { answering with wantBuf := 1 })).filter (· < 96)) = some (80 + 2) ∧
    ((withStr { answering with wantBuf := 1 }).streams.find? fun x => wantsAt x 2).map (·.1) = some 0 ∧
    (streamOf (nx .poolAllocate (withStr { answering with wantBuf := 1 })) 0).eddyBufs = 2 ∧
    (streamOf (nx .poolAllocate (withStr { answering with backWant := 1 })) 0).backBufs = 1 := by decide +kernel

/-- An operation that a restart left behind in bank 63. -/
def orphaned : State := { doneOp 0 with opOrphans := [(63, 1)] }
theorem test_orphan_completes_no_command : smGet 0 (nx (.fenOpComplete 63) orphaned).opOrphans 63 = 0 ∧ (nx (.fenOpComplete 63) orphaned).mbx = orphaned.mbx ∧
    smGet 0 (nx .haywardSramError { cutOff with mbx := { cutOff.mbx with running := some (.fenOp 63) } }).opOrphans 63 = 1 := by decide +kernel
theorem test_commands_of_a_loading_bank : bankLoading { banked with load := { banks := [63] } } 63 = true ∧ bankLoading banked 63 = false ∧
    MailboxFree { banked with load := { banks := [63] } } ∧ (nx (.fenWrite (args [0x3F0000])) { banked with load := { banks := [63] } }).mbx.err = stBankLoading ∧
    (nx (.fenInsert (args [0x3F0000])) { banked with load := { banks := [63] } }).mbx.err = stBankLoading := by decide +kernel
theorem test_bank_op_without_a_far_tier : ({ opAt (.invalidate 4) with boot := { banked.boot with farBad := true } } : State).boot.farBad = true ∧
    ((doneOf (nx (.fenBankOp 63) { opAt (.invalidate 4) with boot := { banked.boot with farBad := true } }) 63).map (·.waits)) = [0] ∧
    (nx .fenScrub { ready with boot := { ready.boot with farBad := true } }) = { ready with boot := { ready.boot with farBad := true } } := by decide +kernel

/-- A class-2 message toward member 6 waits at fabric port 2. -/
def waits6 (s : State := up) : State := fbWith (fun x => { x with rxw := [{ frame := { cls := 2, dst := 6 }, pass := true, flits := 1 }] }) s
theorem test_signals_stay_behind_their_data : (portOf (nx (.remoteSignal 2 3 (ob 9 4)) waits6) 0).txq = [] ∧
    ((fbOf (nx (.remoteSignal 2 3 (ob 9 4)) waits6) 2).rxw.map fun i => i.frame.cls) = [2, 0] ∧
    ((fbOf (nx (.sluiceArrive 2 3 (ob 1 0 0 0x60)) waits6) 2).rxw.map fun i => i.frame.cls) = [2, 0] ∧
    (portOf (nx (.remoteSignal 2 3 (ob 9 4)) (fbWith fun x => { x with rxw := [{ frame := { cls := 2, dst := 7 }, pass := true, flits := 1 }] })) 0).txq.length = 1 := by
  decide +kernel
/-- A class-0 frame waits for the Hub's part of port 0's lane. -/
theorem test_hub_takes_the_next : (portOf (hubTaken { hub (fromSix 0x21 {}) with c0wait := [{ egress := 80, ingress := 0, frame := fromSix 0x20 {}, flit := { fclass := 0, fkind := 1 } }] } 0) 0).hubOps.map (·.2) =
      [fromSix 0x20 {}] ∧ (hubTaken (hub (fromSix 0x21 {})) 0).c0wait = [] := by decide +kernel

/-! ## Further clauses: memory, Bales, fabric ports, boot and the Stile -/

theorem test_runs_of_a_transfer : (List.range 8).map (portRun 0 2048) = List.replicate 8 (0, 1) ∧ portRun 256 4096 0 = (1, 2) ∧ portRun 256 4096 1 = (0, 2) ∧
    (portRun 0 256 1).2 = 0 := by decide +kernel
theorem test_every_port_is_asked : ((memIssue ready 0 2048 false .nobody).map fun u => u.memTags.length) = some 8 ∧
    ((memIssue ready 0 65536 false .nobody).map fun u => u.out.all fun o => match o with | .memory _ _ _ _ n => decide (n = 8) | _ => false) = some true ∧
    ((memIssue ready 0 65536 false .nobody).map fun u => u.memRest.length) = some 8 := by decide +kernel
/-- Nine granules of a read are still to be asked for at port 0. -/
def goesOn (n : Nat := 9) : State := { asked 5 (.weights 0 65541) with memRest := [(5, (40, n))] }
theorem test_rest_of_a_transfer_follows : smGet (0, 0) goesOn.memRest 5 = (40, 9) ∧
    (nx (.memoryReadResponse 0 5 true false) goesOn).memRest = [(5, (48, 1))] ∧ (nx (.memoryReadResponse 0 5 true false) goesOn).out = [.memory 0 5 false 40 8] ∧
    (nx (.memoryReadResponse 0 5 true false) (goesOn 8)).memRest = [] ∧ memTag (nx (.memoryReadResponse 0 5 true false) (goesOn 8)) 0 5 ≠ .free := by decide +kernel
theorem test_block_is_acknowledged : memAsks (setMemTag (asked 1030 (.block 0) 0 (withStr { answering with blockAck := false })) 0 1030 .free) (.block 0) = false ∧
    (streamOf (nx (.memoryWriteResponse 0 1030 false) (asked 1030 (.block 0) 0 (withStr { answering with blockAck := false }))) 0).blockAck = true := by decide +kernel
/-- A content read of one shard goes on over a 4 KiB boundary, and a descriptor into the content window is answered. -/
def shardGoesOn : State := { conAsked with conRest := [(7, (4096, 8192))] }
theorem test_content_requests_stop_at_4k : (nx (.contentCompletion 7 true 0) shardGoesOn).out = [.content 7 false 64 64] ∧
    smGet (0, 0) (nx (.contentCompletion 7 true 0) shardGoesOn).conRest 7 = (8192, 4096) := by decide +kernel
def intoContent (f : Bool := false) : State :=
  movingBy { dmaOf false with dstsp := 1, dst := 0x1000, len := 4096, flushed := f } { ready with conTags := [(300, .used (.dma 15) up.now)] }
theorem test_flush_follows_the_writes : (smGet [] (nx (.contentWriteAck 300) intoContent).dmaQ 15).map (·.flushed) = [true] ∧
    conWrites (setConTag intoContent 300 .free) (.dma 15) = false ∧
    (conIssue (setConTag intoContent 300 .free) (0x1000 + 4096 - 64) 64 false (.dma 15)).isSome = true ∧
    (smGet [] (nx (.contentCompletion 7 true 1) { intoContent true with conTags := [(7, .used (.dma 15) up.now)] }).dmaQ 15).map (fun d => (d.status, d.badWrite)) =
      [(stContentError, true)] ∧
    (smGet [] (nx (.completionTimeout (.content 300)) intoContent).dmaQ 15).map (fun d => (d.status, d.badWrite)) = [(stMTimeout, true)] := by decide +kernel

/-- A move of which a further descriptor is still to come. -/
def further : Dma := { dmaOf false with more := 64 }
theorem test_further_descriptor : nextPiece further (.good [1]) = some { further with
      src := 65536, dst := 65536, len := 64, more := 0, copied := [1], started := false, flushed := false } ∧
    (objOf (nx (.dmaTransferComplete 15 (.good [1])) (movingBy further)) 65541).state = .moving ∧
    (smGet [] (nx (.dmaTransferComplete 15 (.good [1])) (movingBy further)).dmaQ 15).map (·.more) = [0] := by decide +kernel
theorem test_failed_write_is_logged : (nx (.dmaTransferComplete 15 (.good [])) (movingBy { dmaOf false with status := stMTimeout, badWrite := true })).log.any = true ∧
    (nx (.dmaTransferComplete 15 (.good [])) (movingBy { dmaOf false with status := stMTimeout })).log.any = false ∧
    mustFlush { dmaOf false with dstsp := 1 } = true ∧ mustFlush { dmaOf false with dstsp := 1, flushed := true } = false := by decide +kernel
/-- Object 65541 moves out of Rill 0, whose word 4 has a double-bit error. -/
def outOfRill : State :=
  setObj (movingBy { dmaOf false with srcsp := 3, srill := 0, len := 64 }) 65541 { objOf moving 65541 with home := { tier := .near, rill := 0 } }
theorem test_sram_of_a_source_fails : dmaPossible { dmaOf false with srcsp := 3, srill := 0, len := 64 } (.sramFailed 3 4) = true ∧
    dmaPossible { dmaOf false with srcsp := 3, srill := 0, len := 64 } (.sramFailed 3 8) = false ∧ objAt outOfRill 0 4 = some 65541 ∧
    (objOf (nx (.dmaTransferComplete 15 (.sramFailed 3 4)) outOfRill) 65541).state = .lost ∧
    (nx (.dmaTransferComplete 15 (.sramFailed 3 4)) outOfRill).mask.contains 0 = false := by decide +kernel
/-- The sources of earlier moves stay until they are freed. -/
theorem test_reload_keeps_its_sources : (objOf (reloadObj (setObj lostSeed 65541 { objOf lostSeed 65541 with oldHomes := [{ rill := 3 }] }) 65541 []) 65541).oldHomes = [{ rill := 3 }] ∧
    (objOf (reloadObj lostSeed 65541 []) 65541).state = .home ∧ objStands (objOf lostSeed 65541) noHeader [] = true ∧
    objStands { content := .seed {} } noHeader [] = false := by decide +kernel

theorem test_load_without_room : placeIn { ready with objs := [(70000, { state := .home, home := { tier := .far, loc := 0 }, size := 2 ^ 60 })] } { tier := .far } 64 = none := by
  decide +kernel
theorem test_abort_waits_for_a_move : (nx (.baleAbort (args [])) (landing .moving)).load.ending = some (stAborted, []) ∧
    nx .baleLoadEnd (nx (.baleAbort (args [])) (landing .moving)) = nx (.baleAbort (args [])) (landing .moving) ∧
    (nx .baleLoadEnd { landing .home with load := { (landing .home).load with ending := some (stAborted, [2]) } }).load = { state := .failed, status := stAborted, failed := [2] } := by
  decide +kernel
/-- The other table brought tenant 3 a set of entries for n-gram keys only, and a header mask was written meanwhile. -/
def remasked : State :=
  { loaded with load := { loaded.load with commit := true }, tabB := { fens := [(14, 65545)], masks := [(13, 0x1000), (14, 0x2020)] } }
theorem test_switch_keeps_the_other_masks : smGet 0 (actTab (nx .setEpochSwitch remasked)).masks 13 = 0x2000 ∧
    smGet 0 (actTab (nx .setEpochSwitch remasked)).masks 14 = 0x2020 := by decide +kernel

theorem test_fenced_pass_waits : fencePasses (withPort 0 fun x => { x with txq := [{ dst := 6 }] }) 6 { cls := 0, fence := true, dst := 6, payload := [1] } = false ∧
    (nx (.fabricPass 2 3 6 0x10 true [1]) (withPort 0 fun x => { x with txq := [{ dst := 6 }] })).c0wait.map (·.egress) = [81] := by decide +kernel
/-- One byte of the open message has cut through to port 0. -/
def cutThrough : State := fbWith fun x => { x with open2 := some { eng := 6, dfb := 1, body := [1], sent := 1 } }
theorem test_message_cut_off_is_stomped :
    (portOf (nx (.fabricData 2 { som := true, eom := false, poison := false, eng := 6, dfb := 1, body := [9] }) cutThrough) 0).txq.map (fun f => (f.stomp, f.payload)) = [(true, [1])] ∧
    smGet 0 (nx (.fabricData 2 { som := true, eom := false, poison := false, eng := 6, dfb := 1, body := [9] }) cutThrough).tel (telFab 2 6) = 1 ∧
    (portOf (nx (.fabricData 2 { som := false, eom := true, poison := true, eng := 6, dfb := 1, body := [9] }) cutThrough) 0).txq.map (fun f => (f.stomp, f.payload)) = [(true, [1])] ∧
    smGet 0 (nx (.fabricData 2 { som := false, eom := true, poison := true, eng := 6, dfb := 1, body := [9] }) cutThrough).tel (telFab 2 4) = 1 := by decide +kernel
theorem test_poisoned_flit_is_discarded : smGet 0 (nx (.fabricReservedFlit 2 (.poisoned 1)) up).tel (telFab 2 4) = 1 ∧
    (nx (.fabricReservedFlit 2 (.poisoned 1)) up).out = [.fabricCredit 2 1 1] ∧ (nx (.fabricReservedFlit 2 .reservedClass) up).out = [] ∧
    (Instr.fabricReservedFlit 2 (.poisoned 2)).wf = false := by decide +kernel
/-- A signal waits behind the data of a fabric port that is reset. -/
def resetSignal : State := fbWith (fun x => { x with rxw := [{ frame := { cls := 2, dst := 6 }, pass := true, flits := 1 }, { frame := { cls := 0, fence := true, dst := 6 } }] }) heldPort
theorem test_port_reset_lets_signals_go : (portOf (nx (.fabricPortResetTimer 2) resetSignal) 0).txq.map (·.cls) = [0] ∧ oldRouteClear resetSignal 6 = true := by
  decide +kernel

theorem test_window_of_a_selection : ((nx .logFetchComplete (nx (.logFselWrite 0x103) { flashed with flash := [(0x04000000, 9)] })).logWin.held.length) ≤ 2048 ∧
    flashMax flashed .window = none ∧ flashMax flashed (.slotLog 0 []) = some 3000000 ∧ flashMax flashed (.eraseLog 1) = some (32 * 2000000000) := by decide +kernel
theorem test_blank_boots_fenced : off.fuses.lc = 0 ∧ chosen.boot.fenced = true ∧ (nx (.porNRelease flashed.boot.sfdp) { off with fuses := { lcGroups := lcFuses 4 } }).fuses.lc = 4 := by
  decide +kernel
theorem test_majority_of_the_groups : ({ lcGroups := [[true, false, true], [true, false, false]] } : Fuses).lc = 1 := by decide +kernel
theorem test_start_under_a_low_grant : (heathAt (nx .haywardFirmwareStart { wiped with hay := { wiped.hay with grant := 29 } }) 7).step = 6 ∧
    (heathAt (nx .haywardFirmwareStart wiped) 7).step = 0 ∧ (nx .haywardFirmwareStart wiped).mask = [] := by decide +kernel
theorem test_delta_of_a_suspended_member : (nx (.deltaSet (args [8, 0x60, 0, 0, 0])) gone).view.susp = 0x40 ∧
    (nx (.deltaSet (args [8, 0x60, 0, 0x40, 0])) gone).view.susp = 0 := by decide +kernel
theorem test_request_names_the_next_state : requestAccepted blank (leBytes 4 0x5145524C ++ leBytes 2 1 ++ [2, 0] ++ zeros 248) = none ∧ leAt request 6 1 = 1 := by decide +kernel
theorem test_sag_holds_a_fuse_program : (nx .fuseProgramComplete { blank with fuseOp := some (.floors 5 6) }).fuses.floor1 = 5 ∧
    (nx .fuseProgramComplete { blank with fuseOp := some (.revoke 7) }).fuses.keyrev = 0x80 := by decide +kernel

/-- A doorbell written as a register: the command of MBX_CMD, with the parameters as they stand. -/
def commanded (opc : Byte) (s : State := ready) : State := { s with mbx := { opc := opc, ctag := 0x51, param := [(0, 65541)] } }
theorem test_doorbell_register : (nx (.registerWrite 0x1000 0x00510001) ready).mbx.opc = 1 ∧ (nx (.registerWrite 0x1000 0x00510001) ready).mbx.ctag = 0x51 ∧
    Answered (nx (.registerWrite 0x1044 1) (commanded 1)) 0x51 0 ∧
    resultReg (nx (.registerWrite 0x1044 1) (commanded 1)) 0 = BitVec.ofNat 32 (objRecord 65541 (objOf ready 65541) (setsOf ready 65541) (usersShown ready 65541)) ∧
    Answered (nx (.registerWrite 0x1044 1) (commanded 0x7F)) 0x51 stUnknownCommand ∧ (nx (.registerWrite 0x1044 0) (commanded 1)).mbx = (commanded 1).mbx ∧
    (nx (.registerWrite 0x1044 1) (commanded 0x08)).mbx = (commanded 0x08).mbx ∧ (nx (.registerWrite 0x1044 1) (commanded 1)).out.take 1 = [.stile 0] := by decide +kernel
theorem test_mailbox_registers_while_busy : (nx (.registerWrite 0x1004 7) { up with mbx := { busy := true } }).mbx = { busy := true, ovr := true } ∧
    (nx (.registerWrite 0x1044 1) { up with boot := { up.boot with hwrdy := false } }).mbx = { ovr := true } := by decide +kernel
theorem test_selection_registers : (nx (.registerWrite 0x3F000 0) (weir 9)).det.dval = 9 ∧ (nx (.registerWrite 0x80010 0x103) flashed).logWin.fetching = true ∧
    (nx (.registerWrite 0x80010 0x103) flashed).out = [.stile 0] := by decide +kernel

theorem test_rails_are_watched_by_a_restarting_core : (nx (.powerEstimate readings) restarting).hay.power = 0 ∧
    smGet 0 (nx (.powerEstimate readings) restarting).hay.lowAt 0 = up.now + 1 := by decide +kernel
theorem test_no_lock_comes_back_alone : nx (.brookLockRegained 35) { up with locks := [] } = { up with locks := [] } ∧
    nx (.memoryReadResponse 0 5 true false) (unlocked 34 (asked 5 (.weights 0 65541))) = unlocked 34 (asked 5 (.weights 0 65541)) ∧
    (portOf (nx (.dataFrame 0 (wire (onward 9 2) kData)) (unlocked 34 routed9)) 1).txq = [] := by decide +kernel
theorem test_timeouts_are_answered :
    (nx .waiterDeadline (weir 3 [waiterFor 9 up.now])).out.contains (.fabric 2 (waiterDone 0 (waiterFor 9 up.now) stWTimeout false 3 0)) = true ∧
    (nx .waiterDeadline (setSluice up 1 { waiters := [{ me with deadline := up.now }] })).out.contains
      (.fabric 2 (waiterDone 1 { me with deadline := up.now } stWTimeout false 0 0)) = true ∧
    (nx .waiterDeadline (tagged (.used 1 2 2 3 opcResignal 9 6 1 up.now))).out.contains
      (.fabric 2 (completeFlit 3 { obj := 9, tag := 2, agent := 1, status := stWTimeout, opc := opcResignal, sigseq := 1 })) = true := by decide +kernel
theorem test_programs_in_the_dispatch_queue_start : smGet [] (nx (.rillProgramComplete 8 passOut)
    { inFlight (.window 0 0 false) (withStr { str with outstanding := 2 }) with disp := [(0, [prog (.summary 0) [0]])] }).disp 0 = [] := by decide +kernel

end Sys2Proof.Tests
end

section
/-! SUPPORT. Serial-number comparison (R384): the two distances round the circle of 2^n values. -/

namespace Sys2Proof.Machine

/-- The distance (a − b) mod 2^n in the words of R384. -/
theorem toNat_sub_eq_mod {n : Nat} (a b : BitVec n) : (a - b).toNat = (a.toNat + (2 ^ n - b.toNat)) % 2 ^ n := by
  rw [BitVec.toNat_sub, Nat.add_comm]

theorem newer_iff {n : Nat} (a b : BitVec n) :
    newer a b = true ↔ 1 ≤ (a - b).toNat ∧ (a - b).toNat ≤ 2 ^ (n - 1) - 1 := by
  simp [newer]

theorem older_iff {n : Nat} (a b : BitVec n) :
    older a b = true ↔ 1 ≤ (b - a).toNat ∧ (b - a).toNat ≤ 2 ^ (n - 1) - 1 := newer_iff b a

/-- From one value to another and on to the first is once round the circle. -/
theorem toNat_sub_add_toNat_sub {n : Nat} {a b : BitVec n} (h : a ≠ b) : (a - b).toNat + (b - a).toNat = 2 ^ n := by
  rcases Nat.lt_or_gt_of_ne (mt BitVec.eq_of_toNat_eq h) with hlt | hlt
  · have := b.isLt
    rw [BitVec.toNat_sub_of_lt hlt, BitVec.toNat_sub_of_le (Nat.le_of_lt hlt)]
    omega
  · have := a.isLt
    rw [BitVec.toNat_sub_of_lt hlt, BitVec.toNat_sub_of_le (Nat.le_of_lt hlt)]
    omega

/-- Settles O6: equal values are at distance 0, and the two distances of different values add up to 2^n, so neither comparison
holds exactly at distance 0 and at half the circle. -/
theorem serialNumberOrder : Obligations.SerialNumberOrder := by
  unfold Obligations.SerialNumberOrder
  intro n a b hn
  simp only [← toNat_sub_eq_mod, ← Bool.not_eq_true, newer_iff, older_iff, BitVec.sub_self, BitVec.toNat_ofNat, Nat.zero_mod]
  have half : 2 ^ n = 2 * 2 ^ (n - 1) := by rw [← Nat.pow_succ', Nat.succ_eq_add_one, Nat.sub_add_cancel hn]
  by_cases hab : a = b
  · subst hab
    simp
  · have round := toNat_sub_add_toNat_sub hab
    have := (a - b).isLt
    have := (b - a).isLt
    refine ⟨trivial, trivial, ?_, ?_, ?_, ?_, ?_⟩ <;> omega

end Sys2Proof.Machine
end

section
/-! SUPPORT. What leaves the mailbox registers alone (R376): the event log, frames and flits, the end of streams, signals and Sluices,
the start of a move, and the flash.  One law per operation. -/

namespace Sys2Proof.Machine

theorem mbx_foldl {α : Type} (f : State → α → State) (h : ∀ s x, (f s x).mbx = s.mbx) (l : List α) (s : State) :
    (l.foldl f s).mbx = s.mbx := by
  induction l generalizing s with
  | nil => rfl
  | cons x r ih => rw [List.foldl_cons, ih, h]

theorem mbx_ite (c : Prop) [Decidable c] (s t : State) : (if c then s else t).mbx = if c then s.mbx else t.mbx :=
  apply_ite State.mbx c s t

/-! ## The event log, frames and flits -/

@[simp] theorem logRec_mbx (s : State) (code : W16) (fatal : Bool) (srck srcid : Nat) (args : List Nat) :
    (logRec s code fatal srck srcid args).mbx = s.mbx := by
  unfold logRec
  dsimp only
  (repeat' split) <;> rfl

@[simp] theorem note_mbx (s : State) (code : W16) (srck srcid : Nat) (args : List Nat) :
    (note s code srck srcid args).mbx = s.mbx := logRec_mbx s code false srck srcid args

@[simp] theorem freeBufs_mbx (s : State) (n : Nat) : (freeBufs s n).mbx = s.mbx := rfl

@[simp] theorem freeC0_mbx (s : State) (b : C0Buf) : (freeC0 s b).mbx = s.mbx := by
  cases b <;> rfl

@[simp] theorem lostFrame_mbx (s : State) (p seq : Nat) (f : Frame) : (lostFrame s p seq f).mbx = s.mbx := by
  unfold lostFrame
  split <;> simp

@[simp] theorem offer_mbx (s : State) (p : Nat) (f : Frame) : (offer s p f).mbx = s.mbx := by
  unfold offer
  split <;> simp

@[simp] theorem mgmtSend_mbx (s : State) (via : Option MgmtIn) (m : MgmtOut) : (mgmtSend s via m).mbx = s.mbx := by
  cases via with
  | none => rfl
  | some v => exact mbx_foldl _ (fun s _ => offer_mbx s _ _) _ s

@[simp] theorem fbDrain_mbx (s : State) (f : Nat) : (fbDrain s f).mbx = s.mbx := by
  simp [fbDrain, mbx_ite]

@[simp] theorem fbSend_mbx (s : State) (f : Nat) (l : List FbFlit) : (fbSend s f l).mbx = s.mbx := by
  simp [fbSend, mbx_ite]

@[simp] theorem fbCredit_mbx (s : State) (f : Nat) (cls : BitVec 2) (n : Nat) : (fbCredit s f cls n).mbx = s.mbx := rfl

@[simp] theorem sendComplete_mbx (s : State) (f : Nat) (tenant : BitVec 6) (holds : List (Nat × Nat)) (b : BodyF) :
    (sendComplete s f tenant holds b).mbx = s.mbx := by
  simp [sendComplete, mbx_ite]

/-! ## Signals and Sluices -/

@[simp] theorem answerWaiter_mbx (s : State) (obj : Nat) (holds : List (Nat × Nat)) (w : Waiter) (status : W16) (rip : Bool)
    (n : W32) (mask : W64) : (answerWaiter s obj holds w status rip n mask).mbx = s.mbx := sendComplete_mbx ..

@[simp] theorem reinitWeir_mbx (s : State) (w : Nat) : (reinitWeir s w).mbx = s.mbx := by
  simp [reinitWeir, mbx_foldl]

@[simp] theorem sluiceFinish_mbx (s : State) (i : Nat) (status : W16) (rip : Bool) (mask : W64) :
    (sluiceFinish s i status rip mask).mbx = s.mbx := by
  simp [sluiceFinish, mbx_foldl]

@[simp] theorem sluiceGone_mbx (gone : W64) (s : State) (i : Nat) : (sluiceGone gone s i).mbx = s.mbx := by
  simp [sluiceGone, mbx_ite]

@[simp] theorem sluicesGone_mbx (s : State) (gone : W64) : (sluicesGone s gone).mbx = s.mbx :=
  mbx_foldl _ (fun _ _ => sluiceGone_mbx ..) _ s

@[simp] theorem finishTag_mbx (s : State) (t : Nat) (status : W16) (rip : Bool) (after : LinkTag) :
    (finishTag s t status rip after).mbx = s.mbx := by
  unfold finishTag
  split <;> simp

@[simp] theorem dropSignal_mbx (m : Nat) (s : State) (k : Nat) : (dropSignal m s k).mbx = s.mbx := by
  unfold dropSignal
  split
  · simp [mbx_ite]
  · rfl

@[simp] theorem dropSignals_mbx (s : State) (m : Nat) : (dropSignals s m).mbx = s.mbx :=
  mbx_foldl _ (fun _ _ => dropSignal_mbx ..) _ s

/-! ## The end of a stream -/

@[simp] theorem sendRecsTo_mbx (s : State) (c port : Nat) (dst : BitVec 6) (stag : W16) (tenant : Nat) (recs : List VRecord)
    (eos : Bool) : (sendRecsTo s c port dst stag tenant recs eos).mbx = s.mbx := by
  simp [sendRecsTo, mbx_foldl]

@[simp] theorem sendRecs_mbx (s : State) (c : Nat) (recs : List VRecord) (eos : Bool) : (sendRecs s c recs eos).mbx = s.mbx := by
  simp [sendRecs, mbx_foldl]

@[simp] theorem freeOrphans_mbx (s : State) : (freeOrphans s).mbx = s.mbx := rfl

@[simp] theorem releaseOwed_mbx (s : State) (f : Nat) : (releaseOwed s f).mbx = s.mbx := by
  simp [releaseOwed, mbx_ite]

@[simp] theorem pushSearch_mbx (s : State) (m : W16) (q : Search) : (pushSearch s m q).mbx = s.mbx := rfl

@[simp] theorem issueOne_mbx (s : State) (c : Nat) (hashed : Bool) : (issueOne s c hashed).mbx = s.mbx := by
  simp [issueOne, mbx_ite]

@[simp] theorem issueFuel_mbx (n : Nat) (s : State) (c : Nat) : (issueFuel n s c).mbx = s.mbx := by
  induction n generalizing s with
  | zero => rfl
  | succ n ih => simp [issueFuel, mbx_ite, ih]

@[simp] theorem issueAll_mbx (s : State) : (issueAll s).mbx = s.mbx :=
  mbx_foldl _ (fun _ _ => issueFuel_mbx ..) _ s

@[simp] theorem freeStream_mbx (s : State) (c : Nat) : (freeStream s c).mbx = s.mbx := by
  simp [freeStream, mbx_foldl]

@[simp] theorem endEntry_mbx (s : State) (c : Nat) (v : Option CachedVerdict) : (endEntry s c v).mbx = s.mbx := rfl

@[simp] theorem endSpans_mbx (s : State) (c : Nat) (status : W16) (stage : BitVec 4) (policy : W16) (spans : List Span) :
    (endSpans s c status stage policy spans).mbx = s.mbx := by
  simp [endSpans, mbx_ite]

@[simp] theorem endControl_mbx (s : State) (c : Nat) (status : W16) : (endControl s c status).mbx = s.mbx := endSpans_mbx ..

@[simp] theorem endWhere_mbx (s : State) (p : Stream → Bool) (status : W16) : (endWhere s p status).mbx = s.mbx :=
  mbx_foldl _ (fun _ _ => endControl_mbx ..) _ s

/-! ## The Delta -/

@[simp] theorem memberGone_mbx (s : State) (m : Nat) : (memberGone s m).mbx = s.mbx := by
  simp [memberGone]

@[simp] theorem setDelta_mbx (s : State) (epoch : W16) (members rejoin : W64) : (setDelta s epoch members rejoin).mbx = s.mbx := by
  simp [setDelta, mbx_foldl]

/-! ## The start of a move -/

theorem portIssue_mbx {s t : State} {off len : Nat} {wr : Bool} {who : Issuer} {mp : Nat}
    (h : portIssue s off len wr who mp = some t) : t.mbx = s.mbx := by
  unfold portIssue at h
  dsimp only at h
  split at h
  · cases h; rfl
  · split at h
    · cases h
    · obtain ⟨_, _, rfl⟩ := Option.map_eq_some_iff.mp h
      rfl

theorem memIssue_mbx {s t : State} {off len : Nat} {wr : Bool} {who : Issuer} (h : memIssue s off len wr who = some t) :
    t.mbx = s.mbx := by
  refine List.foldlRecOn (motive := fun o => ∀ u, o = some u → u.mbx = s.mbx) (List.range 8) _ ?_ ?_ t h
  · rintro u ⟨⟩
    rfl
  · intro o ho mp _ u hu
    obtain ⟨v, hv, hu⟩ := Option.bind_eq_some_iff.mp hu
    rw [portIssue_mbx hu, ho v hv]

theorem conIssue_mbx {s t : State} {addr len : Nat} {wr : Bool} {who : Issuer} (h : conIssue s addr len wr who = some t) :
    t.mbx = s.mbx := by
  unfold conIssue at h
  split at h
  · cases h
  · obtain ⟨_, _, rfl⟩ := Option.map_eq_some_iff.mp h
    rfl

/-- The reads of a transfer, or its writes: an access to the space `sp`. -/
theorem accessIssue_mbx {s t : State} {sp a len : Nat} {wr : Bool} {who : Issuer}
    (h : (if sp = 0 then memIssue s a len wr who else if sp = 1 then conIssue s a len wr who else some s) = some t) :
    t.mbx = s.mbx := by
  split at h
  · exact memIssue_mbx h
  · split at h
    · exact conIssue_mbx h
    · cases h; rfl

theorem dmaIssue_mbx {s t : State} {ch : Nat} {d : Dma} (h : dmaIssue s ch d = some t) : t.mbx = s.mbx := by
  obtain ⟨u, hread, hwrite⟩ := Option.bind_eq_some_iff.mp h
  exact (accessIssue_mbx hwrite).trans (accessIssue_mbx hread)

@[simp] theorem startDma_mbx (s : State) (ch : Nat) : (startDma s ch).mbx = s.mbx := by
  unfold startDma
  split
  · rfl
  · split
    · rfl
    · split
      · rfl
      · split
        · next h => exact (dmaIssue_mbx h :)
        · rfl

@[simp] theorem queueDma_mbx (s : State) (d : Dma) : (queueDma s d).mbx = s.mbx := by
  simp [queueDma, mbx_ite]

@[simp] theorem startMove_mbx (s : State) (id : Nat) (dest : Home) (fromHost demand : Bool) (sig : Option (Nat × Nat × W32)) :
    (startMove s id dest fromHost demand sig).1.mbx = s.mbx := by
  unfold startMove
  dsimp only
  (repeat' split) <;> simp

/-! ## The flash -/

@[simp] theorem spoil_mbx (s : State) (c : FlashCmd) : (spoil s c).mbx = s.mbx := by
  unfold spoil
  split
  · simp [mbx_ite]
  · rfl

@[simp] theorem flashNext_mbx (s : State) : (flashNext s).mbx = s.mbx := by
  unfold flashNext
  split
  · rfl
  · split
    · rfl
    · simp [startFlash]

@[simp] theorem endBank_mbx (s : State) (st : W16) : (endBank s st).mbx = s.mbx := by
  unfold endBank
  split
  · rfl
  · simp [mbx_ite]

@[simp] theorem startBank_mbx (s : State) (pair pldm : Bool) (body t h m : List Byte) (len : Nat) :
    (startBank s pair pldm body t h m len).mbx = s.mbx := by
  simp [startBank, mbx_ite]

end Sys2Proof.Machine
end

section
/-! SUPPORT. Fields of a word, and the parameters that a mailbox command captures (R12, R376 to R378). -/

namespace Sys2Proof.Machine

/-! ## Fields of a word -/

theorem fld_lt {w : Nat} (x : BitVec w) (lo n : Nat) : fld x lo n < 2 ^ n := Nat.mod_lt _ (Nat.two_pow_pos n)

theorem testBit_fld {w : Nat} (x : BitVec w) (lo n i : Nat) :
    (fld x lo n).testBit i = (decide (i < n) && x.getLsbD (lo + i)) := by
  simp [fld, bitsOf, Nat.testBit_mod_two_pow, Nat.testBit_div_two_pow, BitVec.getLsbD, Nat.add_comm]

/-- The bits of a number made of the part below a field, the field, and the part above it. -/
theorem testBit_join {lo n below field : Nat} (above : Nat) (hb : below < 2 ^ lo) (hf : field < 2 ^ n) (j : Nat) :
    (2 ^ lo * (2 ^ n * above + field) + below).testBit j =
      if j < lo then below.testBit j else if j - lo < n then field.testBit (j - lo) else above.testBit (j - lo - n) := by
  rw [Nat.testBit_two_pow_mul_add _ hb, Nat.testBit_two_pow_mul_add _ hf]

/-- Replacing a field keeps the part above it and the part below it. -/
theorem setFld_eq_join (w : W32) (lo n v : Nat) :
    setFld w lo n v = BitVec.ofNat 32 (2 ^ lo * (2 ^ n * (w.toNat / 2 ^ lo / 2 ^ n) + v) + w.toNat % 2 ^ lo) := by
  have hw : w.toNat = 2 ^ lo * (2 ^ n * (w.toNat / 2 ^ lo / 2 ^ n) + fld w lo n) + w.toNat % 2 ^ lo := by
    rw [fld, bitsOf, Nat.div_add_mod, Nat.div_add_mod]
  rw [setFld, at', at']
  congr 1
  rw [Nat.mul_add, Nat.mul_comm v] at *
  rw [Nat.mul_comm (fld w lo n)]
  omega

theorem getLsbD_setFld (w : W32) {lo n v j : Nat} (hv : v < 2 ^ n) (hj : j < 32) :
    (setFld w lo n v).getLsbD j = if lo ≤ j ∧ j < lo + n then v.testBit (j - lo) else w.getLsbD j := by
  have below : w.toNat % 2 ^ lo < 2 ^ lo := Nat.mod_lt _ (Nat.two_pow_pos lo)
  rw [setFld_eq_join, BitVec.getLsbD_ofNat, decide_eq_true hj, Bool.true_and, testBit_join _ below hv]
  by_cases hlo : j < lo
  · have : ¬ lo ≤ j := by omega
    simp [hlo, this, Nat.testBit_mod_two_pow, BitVec.getLsbD]
  · by_cases hn : j - lo < n
    · have : lo ≤ j ∧ j < lo + n := by omega
      simp [hlo, hn, this]
    · have hout : ¬ (lo ≤ j ∧ j < lo + n) := by omega
      have hsum : j - lo - n + n + lo = j := by omega
      simp [hlo, hn, hout, Nat.testBit_div_two_pow, BitVec.getLsbD, hsum]

theorem fld_setFld_self (w : W32) {lo n v : Nat} (hv : v < 2 ^ n) (hn : lo + n ≤ 32) : fld (setFld w lo n v) lo n = v := by
  apply Nat.eq_of_testBit_eq
  intro i
  rw [testBit_fld]
  by_cases hi : i < n
  · rw [getLsbD_setFld w hv (by omega)]
    simp [hi]
  · have : v < 2 ^ i := Nat.lt_of_lt_of_le hv (Nat.pow_le_pow_right (by omega) (by omega))
    simp [hi, Nat.testBit_lt_two_pow this]

theorem getLsbD_setFld_outside (w : W32) {lo n v j : Nat} (hv : v < 2 ^ n) (hj : j < 32) (h : j < lo ∨ lo + n ≤ j) :
    (setFld w lo n v).getLsbD j = w.getLsbD j := by
  rw [getLsbD_setFld w hv hj, if_neg (by omega)]

/-! ## The parameters of a command -/

/-- The parameter registers once the words of a command have been written (R376), before they are clamped. -/
def written (s : State) (a : MbxArgs) : SMap W32 := (a.par.take 16).zipIdx.foldl (fun m x => smSet 0 m x.2 x.1) s.mbx.param

theorem smGet_foldl_smSet_zipIdx (l : List W32) (m : SMap W32) (k i : Nat) :
    smGet 0 ((l.zipIdx k).foldl (fun m x => smSet 0 m x.2 x.1) m) i =
      if k ≤ i then l.getD (i - k) (smGet 0 m i) else smGet 0 m i := by
  induction l generalizing m k with
  | nil => simp
  | cons x r ih =>
    rw [List.zipIdx_cons, List.foldl_cons, ih, smGet_smSet]
    rcases Nat.lt_trichotomy i k with h | rfl | h
    · have : ¬ k + 1 ≤ i := by omega
      have : ¬ k ≤ i := by omega
      have : i ≠ k := by omega
      simp [*]
    · rw [if_neg (Nat.not_succ_le_self i), if_pos rfl, if_pos (Nat.le_refl i), Nat.sub_self, List.getD_cons_zero]
    · have : i - k = (i - (k + 1)) + 1 := by omega
      have : k ≤ i := by omega
      have : k + 1 ≤ i := by omega
      have : i ≠ k := by omega
      simp [*]

@[simp] theorem smGet_written (s : State) (a : MbxArgs) (i : Nat) : smGet 0 (written s a) i = argOf s a i := by
  rw [written, smGet_foldl_smSet_zipIdx, if_pos (Nat.zero_le i), Nat.sub_zero, List.getD_eq_getElem?_getD, List.getElem?_take, argOf,
    List.getD_eq_getElem?_getD]
  split <;> rfl

/-- The codes of the commands that have a parameter with values out of range (R378). -/
def clampCodes : List Byte := [0x02, 0x03, 0x14, 0x21, 0x29]

/-- Every value of the parameters of the other commands is legal. -/
theorem clampPar_of_not_mem {opc : Byte} (h : opc ∉ clampCodes) (ps : SMap W32) : clampPar opc ps = ps := by
  simp only [clampCodes, List.mem_cons, List.not_mem_nil, or_false, not_or] at h
  obtain ⟨hmove, hgrant, hmask, hdelta, hbank⟩ := h
  exact (if_neg hmove).trans <| (if_neg hgrant).trans <| (if_neg hmask).trans <| (if_neg hdelta).trans <| if_neg hbank

/-- The code `opc` clamps the field of `n` bits from bit `lo` of parameter `r` to `v` of it, and nothing else (R12). -/
def ClampsField (opc : Byte) (r lo n : Nat) (v : Nat → Nat) : Prop :=
  ∀ ps, clampPar opc ps = smSet 0 ps r (setFld (smGet 0 ps r) lo n (v (fld (smGet 0 ps r) lo n)))

theorem clampsField_objMove :
    ClampsField 0x02 1 8 8 fun x : Nat => if x < 128 then x else if x < 191 then 127 else 255 := fun _ => rfl

theorem rillPar_lt {x : Nat} (h : x < 2 ^ 8) : (if x < 128 then x else if x < 191 then 127 else 255) < 2 ^ 8 := by
  split
  · exact h
  · split <;> decide

theorem clampsField_fenMask : ClampsField 0x14 0 8 2 fun x : Nat => max 1 x := by
  intro ps
  have := fld_lt (smGet 0 ps 0) 8 2
  have : clamp 1 3 (fld (smGet 0 ps 0) 8 2) = max 1 (fld (smGet 0 ps 0) 8 2) := by simp only [clamp]; omega
  exact congrArg (fun v => smSet 0 ps 0 (setFld (smGet 0 ps 0) 8 2 v)) this

theorem clampsField_deltaSet : ClampsField 0x21 0 0 16 fun x : Nat => max 1 x := fun _ => rfl

theorem clampsField_bankWrite : ClampsField 0x29 0 0 2 fun x : Nat => min 2 (max 1 x) := by
  intro ps
  have : clamp 1 2 (fld (smGet 0 ps 0) 0 2) = min 2 (max 1 (fld (smGet 0 ps 0) 0 2)) := by simp only [clamp]; omega
  exact congrArg (fun v => smSet 0 ps 0 (setFld (smGet 0 ps 0) 0 2 v)) this

end Sys2Proof.Machine
end

section
/-! SUPPORT. The doorbell of the mailbox (R377, R378): what every command does while another one runs, in fenced boot, and with
the parameters it captures. -/

namespace Sys2Proof.Machine

/-! ## The start and the completion of a command -/

theorem runningHw_of_alive {s : State} (h : Alive s) (k : State → State) : runningHw s k = .next (k s) := by
  obtain ⟨hheld, -, hlock⟩ := h
  rw [runningHw_next, if_neg hheld, if_pos hlock]

theorem running_of_alive {s : State} (h : Alive s) (k : State → State) : running s k = .next (k s) := by
  obtain ⟨hheld, hhub, -⟩ := h
  rw [running_next, if_neg hheld, if_pos hhub]

theorem whenUp_of_up {s : State} (h : Up s) (k : State → State) : whenUp s k = .next (k s) := by
  obtain ⟨hrun, -, hlock⟩ := h
  rw [whenUp_next, if_pos hrun, if_pos hlock]

theorem alive_of_up {s : State} (h : Up s) : Alive s := by
  obtain ⟨hrun, hlocks⟩ := h
  exact ⟨by rw [hrun]; decide, hlocks⟩

/-- The state in which a command runs: the mailbox is busy with it, and has captured its parameters (R377). -/
def captured (s : State) (opc : Byte) (a : MbxArgs) : State :=
  { s with mbx := { s.mbx with
      opc := opc, ctag := a.ctag, param := clampPar opc (written s a), busy := true, running := some .plain } }

theorem mbxStart_of_busy {s : State} (hlc : s.fuses.lc ≠ 4) (h : s.mbx.busy = true ∨ s.boot.hwrdy = false) (opc : Byte)
    (a : MbxArgs) (k : State → State) : mbxStart s opc a k = { s with mbx := { s.mbx with ovr := true } } := by
  have : (s.mbx.busy || !s.boot.hwrdy) = true := by simpa using h
  rw [mbxStart, if_neg hlc, if_pos this]

theorem mbxStart_of_free {s : State} (hlc : s.fuses.lc ≠ 4) (hb : s.mbx.busy = false) (hr : s.boot.hwrdy = true) (opc : Byte)
    (a : MbxArgs) (k : State → State) : mbxStart s opc a k =
      if s.boot.fenced && !fencedCodes.contains opc then mbxComplete (captured s opc a) stNotAvailable []
      else k (captured s opc a) := by
  have : ¬ (s.mbx.busy || !s.boot.hwrdy) = true := by simp [hb, hr]
  rw [mbxStart, if_neg hlc, if_neg this]
  rfl

theorem mbxComplete_answered (s : State) (err : W16) (res : List W32) : Answered (mbxComplete s err res) s.mbx.ctag err :=
  ⟨rfl, rfl, rfl, rfl, by simp [mbxComplete, intMbx]⟩

@[simp] theorem mbxComplete_param (s : State) (err : W16) (res : List W32) : (mbxComplete s err res).mbx.param = s.mbx.param := rfl

@[simp] theorem mbxWait_param (s : State) (r : Running) : (mbxWait s r).mbx.param = s.mbx.param := rfl

/-! ## The rows of the mailbox commands -/

/-- The row `c` is the mailbox command of code `opc` with the words `a`, whose own effect is `k`. -/
def Doorbell (c : Instr) (opc : Byte) (a : MbxArgs) (k : State → State) : Prop :=
  ∀ s, exec c s = runningHw s fun s => mbxStart s opc a k

/-- The commands of R378 by code. -/
def mailboxRows (a : MbxArgs) (img : BaleImage) (bytes : List Byte) : List (Byte × Instr) :=
  [(0x01, .objQuery a), (0x02, .objMove a), (0x03, .slowGrant a), (0x04, .slowRelease a), (0x08, .baleLoad a img),
   (0x09, .baleCommit a), (0x0A, .baleAbort a), (0x0B, .baleStatus a), (0x10, .fenRead a), (0x11, .fenInvalidate a),
   (0x12, .fenWrite a), (0x13, .fenInsert a), (0x14, .fenMask a), (0x18, .calibRead a), (0x19, .calibClear a),
   (0x20, .tenantReset a), (0x21, .deltaSet a), (0x22, .portReset a), (0x28, .cfgRead a), (0x29, .bankWrite a bytes),
   (0x2A, .bankStatus a), (0x30, .lcRequest a bytes), (0x31, .keyProgram a bytes)]

theorem doorbell_of_mem_mailboxRows {a : MbxArgs} {img : BaleImage} {bytes : List Byte} {r : Byte × Instr}
    (h : r ∈ mailboxRows a img bytes) : ∃ k, Doorbell r.2 r.1 a k := by
  simp only [mailboxRows, List.mem_cons, List.not_mem_nil, or_false] at h
  rcases h with rfl | rfl | rfl | rfl | rfl | rfl | rfl | rfl | rfl | rfl | rfl | rfl | rfl | rfl | rfl | rfl | rfl | rfl | rfl | rfl |
    rfl | rfl | rfl <;> exact ⟨_, fun _ => rfl⟩

section
variable {s : State} {c : Instr} {opc : Byte} {a : MbxArgs} {k : State → State}

/-- While a command runs, or HWRDY is 0, a doorbell sets OVR and does nothing else. -/
theorem Doorbell.exec_of_busy (hc : Doorbell c opc a k) (hs : Alive s) (hlc : s.fuses.lc ≠ 4)
    (h : s.mbx.busy = true ∨ s.boot.hwrdy = false) : exec c s = .next { s with mbx := { s.mbx with ovr := true } } := by
  rw [hc, runningHw_of_alive hs, mbxStart_of_busy hlc h]

theorem Doorbell.exec_of_free (hc : Doorbell c opc a k) (hs : Alive s) (hlc : s.fuses.lc ≠ 4) (hb : s.mbx.busy = false)
    (hr : s.boot.hwrdy = true) : exec c s = .next
      (if s.boot.fenced && !fencedCodes.contains opc then mbxComplete (captured s opc a) stNotAvailable []
       else k (captured s opc a)) := by
  rw [hc, runningHw_of_alive hs, mbxStart_of_free hlc hb hr]

/-- In fenced boot a command that is not served completes with Not available. -/
theorem Doorbell.exec_of_fenced (hc : Doorbell c opc a k) (hs : Alive s) (hlc : s.fuses.lc ≠ 4) (hb : s.mbx.busy = false)
    (hr : s.boot.hwrdy = true) (hf : s.boot.fenced = true) (hopc : fencedCodes.contains opc = false) :
    exec c s = .next (mbxComplete (captured s opc a) stNotAvailable []) := by
  rw [hc.exec_of_free hs hlc hb hr, if_pos (by rw [hf, hopc]; rfl)]

/-- A command whose own effect keeps the parameters leaves them as it captured them, whether it is served or not. -/
theorem Doorbell.exec_param (hc : Doorbell c opc a k) (hk : ∀ s, (k s).mbx.param = s.mbx.param) (hs : Alive s)
    (hlc : s.fuses.lc ≠ 4) (hb : s.mbx.busy = false) (hr : s.boot.hwrdy = true) :
    ∃ t, exec c s = .next t ∧ t.mbx.param = clampPar opc (written s a) := by
  refine ⟨_, hc.exec_of_free hs hlc hb hr, ?_⟩
  split
  · rfl
  · rw [hk]; rfl

/-- A field out of range reads back as clamped, and every other bit of the parameters as written (R12). -/
theorem Doorbell.exec_clamped {r lo n : Nat} {v : Nat → Nat} (hc : Doorbell c opc a k) (hk : ∀ s, (k s).mbx.param = s.mbx.param)
    (hclamp : ClampsField opc r lo n v) (hv : ∀ x, x < 2 ^ n → v x < 2 ^ n) (hn : lo + n ≤ 32) (hs : Alive s)
    (hlc : s.fuses.lc ≠ 4) (hb : s.mbx.busy = false) (hr : s.boot.hwrdy = true) :
    ∃ t, exec c s = .next t ∧ fld (smGet 0 t.mbx.param r) lo n = v (fld (argOf s a r) lo n) ∧
      (∀ j, j < 32 → (j < lo ∨ lo + n ≤ j) → (smGet 0 t.mbx.param r).getLsbD j = (argOf s a r).getLsbD j) ∧
      ∀ i, i ≠ r → smGet 0 t.mbx.param i = argOf s a i := by
  obtain ⟨t, hexec, hparam⟩ := hc.exec_param hk hs hlc hb hr
  have hlt := hv _ (fld_lt (argOf s a r) lo n)
  rw [hclamp, smGet_written] at hparam
  refine ⟨t, hexec, ?_, fun j hj hout => ?_, fun i hi => ?_⟩
  · rw [hparam, smGet_smSet_self, fld_setFld_self _ hlt hn]
  · rw [hparam, smGet_smSet_self, getLsbD_setFld_outside _ hlt hj hout]
  · rw [hparam, smGet_smSet_other _ _ _ hi, smGet_written]

end

/-! ## The commands with parameters out of range keep what they captured -/

theorem objMove_keeps_param (a : MbxArgs) : ∃ k, Doorbell (.objMove a) 0x02 a k ∧ ∀ s, (k s).mbx.param = s.mbx.param := by
  refine ⟨_, fun _ => rfl, fun s => ?_⟩
  dsimp only
  split
  · rfl
  · (repeat' split) <;> simp

theorem fenMask_keeps_param (a : MbxArgs) : ∃ k, Doorbell (.fenMask a) 0x14 a k ∧ ∀ s, (k s).mbx.param = s.mbx.param := by
  refine ⟨_, fun _ => rfl, fun s => ?_⟩
  dsimp only
  split
  · rfl
  · simp [setActTab, mbx_ite]

theorem deltaSet_keeps_param (a : MbxArgs) : ∃ k, Doorbell (.deltaSet a) 0x21 a k ∧ ∀ s, (k s).mbx.param = s.mbx.param := by
  refine ⟨_, fun _ => rfl, fun s => ?_⟩
  dsimp only
  split
  · rfl
  · simp

theorem bankWrite_keeps_param (a : MbxArgs) (bytes : List Byte) :
    ∃ k, Doorbell (.bankWrite a bytes) 0x29 a k ∧ ∀ s, (k s).mbx.param = s.mbx.param := by
  refine ⟨_, fun _ => rfl, fun s => ?_⟩
  dsimp only
  (repeat' split) <;> simp

/-- The commands with parameters out of range that fenced boot does not serve. -/
theorem mem_of_mem_clampCodes (a : MbxArgs) (img : BaleImage) (bytes : List Byte) : ∀ r ∈ mailboxRows a img bytes,
    r.1 ∉ fencedCodes → r.1 ∈ clampCodes → r.2 ∈ [Instr.objMove a, .fenMask a, .deltaSet a] := by
  simp [mailboxRows, fencedCodes, clampCodes]

/-- The rows that fenced boot does not serve complete with Not available, and their parameters read back. -/
theorem exec_mailboxRow_of_fenced {s : State} {a : MbxArgs} {img : BaleImage} {bytes : List Byte} {r : Byte × Instr} (hs : Alive s)
    (hlc : s.fuses.lc ≠ 4) (hb : s.mbx.busy = false) (hr : s.boot.hwrdy = true) (hf : s.boot.fenced = true)
    (hmem : r ∈ (mailboxRows a img bytes).filter fun r => !fencedCodes.contains r.1) :
    ∃ t, exec r.2 s = .next t ∧ Answered t a.ctag stNotAvailable ∧
      (r.2 ∉ [Instr.objMove a, .fenMask a, .deltaSet a] → ∀ i, smGet 0 t.mbx.param i = argOf s a i) ∧
      t = { s with mbx := t.mbx, gen := { s.gen with intstat := t.gen.intstat } } := by
  obtain ⟨hrow, hserved⟩ := List.mem_filter.mp hmem
  obtain ⟨k, hc⟩ := doorbell_of_mem_mailboxRows hrow
  refine ⟨_, hc.exec_of_fenced hs hlc hb hr hf (by simpa using hserved), mbxComplete_answered .., fun hclamp i => ?_, rfl⟩
  have hcode : r.1 ∉ clampCodes := fun hin => hclamp (mem_of_mem_clampCodes a img bytes r hrow (by simpa using hserved) hin)
  rw [mbxComplete_param, captured, clampPar_of_not_mem hcode, smGet_written]

/-- An unknown code completes with Unknown command (R377). -/
theorem exec_unknownCommand_of_free {s : State} {opc : Byte} (a : MbxArgs) (hs : Alive s) (hlc : s.fuses.lc ≠ 4)
    (hb : s.mbx.busy = false) (hr : s.boot.hwrdy = true) (hf : s.boot.fenced = false) (hopc : knownCodes.contains opc = false) :
    exec (.unknownCommand opc a) s = .next (mbxComplete (captured s opc a) stUnknownCommand []) := by
  have hrow : ¬ (knownCodes.contains opc && !(s.boot.fenced && !fencedCodes.contains opc)) = true := by
    rw [hopc]; exact Bool.false_ne_true
  calc exec (.unknownCommand opc a) s
      = .next (mbxStart s opc a fun s => mbxComplete s stUnknownCommand []) := by
        rw [show exec (.unknownCommand opc a) s = execUnknownCommand opc a s from rfl, execUnknownCommand, runningHw_of_alive hs,
          if_neg hrow]
    _ = .next (mbxComplete (captured s opc a) stUnknownCommand []) := by
        rw [mbxStart_of_free hlc hb hr, hf]; rfl

/-- Settles O58: every row of R378 is the doorbell of its code, so each clause is one lemma about doorbells. -/
theorem mailboxDoorbell : Obligations.MailboxDoorbell := by
  unfold Obligations.MailboxDoorbell
  intro s a img bytes opc hs hlc
  refine ⟨fun h c hc => ?_, fun hb hr => ⟨fun hf c hc => ?_, ?_, fun hf hopc => ?_⟩⟩
  · obtain ⟨r, hrow, rfl⟩ := List.mem_map.mp (show c ∈ (mailboxRows a img bytes).map Prod.snd from hc)
    obtain ⟨k, hdoor⟩ := doorbell_of_mem_mailboxRows hrow
    exact hdoor.exec_of_busy hs hlc h
  · obtain ⟨r, hrow, rfl⟩ := List.mem_map.mp
      (show c ∈ ((mailboxRows a img bytes).filter fun r => !fencedCodes.contains r.1).map Prod.snd from hc)
    exact exec_mailboxRow_of_fenced hs hlc hb hr hf hrow
  · rintro c r lo n v (⟨rfl, rfl, rfl, rfl, rfl⟩ | ⟨rfl, rfl, rfl, rfl, rfl⟩ | ⟨rfl, rfl, rfl, rfl, rfl⟩ |
      ⟨rfl, rfl, rfl, rfl, rfl⟩)
    · obtain ⟨k, hc, hk⟩ := objMove_keeps_param a
      exact hc.exec_clamped hk clampsField_objMove (fun _ => rillPar_lt) (by decide) hs hlc hb hr
    · obtain ⟨k, hc, hk⟩ := fenMask_keeps_param a
      exact hc.exec_clamped hk clampsField_fenMask (fun x _ => by omega) (by decide) hs hlc hb hr
    · obtain ⟨k, hc, hk⟩ := deltaSet_keeps_param a
      exact hc.exec_clamped hk clampsField_deltaSet (fun x _ => by omega) (by decide) hs hlc hb hr
    · obtain ⟨k, hc, hk⟩ := bankWrite_keeps_param a bytes
      exact hc.exec_clamped hk clampsField_bankWrite (fun x _ => by omega) (by decide) hs hlc hb hr
  · exact ⟨_, exec_unknownCommand_of_free a hs hlc hb hr hf hopc, mbxComplete_answered .., rfl, rfl⟩

end Sys2Proof.Machine
end

section
/-! SUPPORT. Register writes of the Stile (R10, R254, R366, R372 to R380): each register by its access code, and the doorbell. -/

namespace Sys2Proof.Machine

/-! ## GO -/

theorem exec_registerWrite (s : State) (off : Nat) (d : W32) : exec (.registerWrite off d) s =
    if rings (stileAnswer s 0) off d then execDoorbell (stileAnswer s 0) else .next (stileWrite (stileAnswer s 0) off d) := rfl

theorem exec_registerWrite_of_not_rings {s : State} {off : Nat} {d : W32} (h : rings (stileAnswer s 0) off d = false) :
    exec (.registerWrite off d) s = .next (stileWrite (stileAnswer s 0) off d) := by
  rw [exec_registerWrite, h]; rfl

theorem rings_of_ne {off : Nat} (s : State) (h : off ≠ 0x1044) (d : W32) : rings s off d = false := by
  simp [rings, h]

theorem rings_of_go_zero {d : W32} (s : State) (off : Nat) (h : d.getLsbD 0 = false) : rings s off d = false := by
  simp [rings, show bitAt d 0 = false from h]

theorem rings_of_busy {s : State} (h : s.mbx.busy = true ∨ s.boot.hwrdy = false) (off : Nat) (d : W32) : rings s off d = false := by
  rcases h with h | h <;> simp [rings, h]

theorem rings_of_go {s : State} {d : W32} (hheld : s.boot.phase ≠ .held) (hlc : s.fuses.lc ≠ 4) (hb : s.mbx.busy = false)
    (hr : s.boot.hwrdy = true) (hgo : d.getLsbD 0 = true) : rings s 0x1044 d = true := by
  simp [rings, show bitAt d 0 = true from hgo, genServed, hheld, hlc, hb, hr]

/-! ## The command that GO starts -/

/-- The commands that GO starts, by code: all of R378 but the four that read host memory (log entry 72). -/
def goRows (a : MbxArgs) : List (Byte × Instr) :=
  [(0x01, Instr.objQuery a), (0x02, .objMove a), (0x03, .slowGrant a), (0x04, .slowRelease a), (0x09, .baleCommit a),
   (0x0A, .baleAbort a), (0x0B, .baleStatus a), (0x10, .fenRead a), (0x11, .fenInvalidate a), (0x12, .fenWrite a),
   (0x13, .fenInsert a), (0x14, .fenMask a), (0x18, .calibRead a), (0x19, .calibClear a), (0x20, .tenantReset a),
   (0x21, .deltaSet a), (0x22, .portReset a), (0x28, .cfgRead a), (0x2A, .bankStatus a)]

theorem execDoorbell_of_mem_goRows {s : State} {r : Byte × Instr} (h : r ∈ goRows { ctag := s.mbx.ctag, par := [] })
    (hopc : s.mbx.opc = r.1) : execDoorbell s = exec r.2 s := by
  simp only [goRows, List.mem_cons, List.not_mem_nil, or_false] at h
  unfold execDoorbell
  rcases h with rfl | rfl | rfl | rfl | rfl | rfl | rfl | rfl | rfl | rfl | rfl | rfl | rfl | rfl | rfl | rfl | rfl | rfl | rfl <;>
    rw [hopc] <;> rfl

/-- GO alone starts none of the commands that read host memory. -/
theorem execDoorbell_of_host_memory {s : State} (h : s.mbx.opc ∈ [(0x08 : Byte), 0x29, 0x30, 0x31]) : execDoorbell s = .next s := by
  simp only [List.mem_cons, List.not_mem_nil, or_false] at h
  unfold execDoorbell
  rcases h with h | h | h | h <;> rw [h] <;> rfl

theorem execDoorbell_of_unknown {s : State} (h : knownCodes.contains s.mbx.opc = false) :
    execDoorbell s = exec (.unknownCommand s.mbx.opc { ctag := s.mbx.ctag, par := [] }) s := by
  have hnot : s.mbx.opc.toNat ∉ knownCodes.map BitVec.toNat := by simpa [BitVec.toNat_inj] using h
  unfold execDoorbell
  split
  case h_24 => rfl
  all_goals
    next hcode =>
      rw [hcode] at hnot
      exact absurd (by decide) hnot

/-! ## What the registers take -/

theorem stileWrite_unaligned {off : Nat} (s : State) (h : off % 4 ≠ 0) (d : W32) : stileWrite s off d = s := by
  simp [stileWrite, h]

/-- A register that no write reaches. -/
theorem stileWrite_other {off : Nat} (s : State) (h : off ≠ 0x30 ∧ off ≠ 0x34 ∧ off ≠ 0x1048 ∧ off ≠ 0x1094 ∧
    off ≠ 0x3F000 ∧ off ≠ 0x80010 ∧ (off < 0x1000 ∨ 0x1044 < off)) (d : W32) : stileWrite s off d = s := by
  obtain ⟨h30, h34, hstatus, hflag, hdsel, hfsel, hrange⟩ := h
  have : ¬ (0x1000 ≤ off ∧ off ≤ 0x1044 ∧ s.fuses.lc ≠ 4) := by omega
  simp only [stileWrite, h30, h34, hstatus, hflag, hdsel, hfsel, this, false_and, if_false, ite_self]

section
variable (s : State)

theorem stileWrite_intstat (hheld : s.boot.phase ≠ .held) (d : W32) : stileWrite s 0x30 d = clearInt s d := by
  simp [stileWrite, genServed, hheld]

theorem stileWrite_inten (hheld : s.boot.phase ≠ .held) (d : W32) : stileWrite s 0x34 d = setInten s d := by
  simp [stileWrite, genServed, hheld]

/-- The registers from MBX_CMD to the doorbell. -/
theorem stileWrite_mbx (hheld : s.boot.phase ≠ .held) (hlc : s.fuses.lc ≠ 4) {i : Nat} (hi : i < 18) (d : W32) :
    stileWrite s (0x1000 + 4 * i) d = mbxWrite s (4 * i) d := by
  have hserved : ¬ (!genServed s || decide ((0x1000 + 4 * i) % 4 ≠ 0)) = true := by
    have : (0x1000 + 4 * i) % 4 = 0 := by omega
    simp [genServed, hheld, this]
  have hrange : 0x1000 ≤ 0x1000 + 4 * i ∧ 0x1000 + 4 * i ≤ 0x1044 ∧ s.fuses.lc ≠ 4 := ⟨by omega, by omega, hlc⟩
  rw [stileWrite, if_neg hserved, if_neg (by omega), if_neg (by omega), if_pos hrange, Nat.add_sub_cancel_left]

theorem stileWrite_status (hrun : s.boot.phase = .running) (hlc : s.fuses.lc ≠ 4) (d : W32) :
    stileWrite s 0x1048 d = clearMbx s d := by
  simp [stileWrite, genServed, mbxServed, hrun, hlc]

theorem stileWrite_hflag (hrun : s.boot.phase = .running) (hlc : s.fuses.lc ≠ 4) (d : W32) :
    stileWrite s 0x1094 d = { s with mbx := { s.mbx with hflag := d } } := by
  simp [stileWrite, genServed, mbxServed, hrun, hlc]

theorem stileWrite_dsel (hrun : s.boot.phase = .running) (d : W32) :
    stileWrite s 0x3F000 d = if dataServed s then selectDetail s d else s := by
  simp [stileWrite, genServed, hrun]

theorem stileWrite_fsel (hrun : s.boot.phase = .running) (d : W32) : stileWrite s 0x80010 d = selectLog s d := by
  simp [stileWrite, genServed, logServed, hrun]

theorem mbxWrite_of_busy (h : s.mbx.busy = true ∨ s.boot.hwrdy = false) (off : Nat) (d : W32) :
    mbxWrite s off d = { s with mbx := { s.mbx with ovr := true } } := by
  have : (s.mbx.busy || !s.boot.hwrdy) = true := by simpa using h
  rw [mbxWrite, if_pos this]

theorem mbxWrite_of_free (hb : s.mbx.busy = false) (hr : s.boot.hwrdy = true) (off : Nat) (d : W32) : mbxWrite s off d =
    if off = 0 then { s with mbx := { s.mbx with opc := d.extractLsb' 0 8, ctag := d.extractLsb' 16 16 } }
    else if off < 0x44 then { s with mbx := { s.mbx with param := smSet 0 s.mbx.param ((off - 4) / 4) d } }
    else s := by
  rw [mbxWrite, if_neg (by simp [hb, hr])]

end

/-! ## The interrupt bits -/

theorem intTrip_getElem {i : Nat} (hi : i < 4) : intTrip[i] = decide (i = 2) := by
  revert i
  decide

/-- A bit of GEN_INTSTAT goes where it is written as 1, but TRIP stays while a site is hot (R375). -/
theorem clearInt_getLsbD (s : State) (d : W32) {i : Nat} (hi : i < 4) : (clearInt s d).gen.intstat.getLsbD i =
    (s.gen.intstat.getLsbD i && (!d.getLsbD i || (decide (i = 2) && tripAct s))) := by
  by_cases h : tripAct s = true <;> simp [clearInt, h, hi, intTrip_getElem]

theorem setInten_getLsbD (s : State) (d : W32) {i : Nat} (hi : i < 4) :
    (setInten s d).gen.inten.getLsbD i = (d.getLsbD i || decide (i = 2)) := by
  simp [setInten, hi, intTrip_getElem]

theorem irqLines_getLsbD (s : State) {i : Nat} (hi : i < 4) :
    (irqLines s).getLsbD i = (s.gen.intstat.getLsbD i && (s.gen.inten.getLsbD i || decide (i = 2))) := by
  simp [irqLines, hi, intTrip_getElem]

/-! ## A write as the host sees it: the answer, and the register's effect -/

section
variable {s : State} (hheld : s.boot.phase ≠ .held) (hrun : s.boot.phase = .running) (hlc : s.fuses.lc ≠ 4)

include hheld in
theorem exec_write_intstat (d : W32) : exec (.registerWrite 0x30 d) s = .next (clearInt (stileAnswer s 0) d) := by
  rw [exec_registerWrite_of_not_rings (rings_of_ne _ (by decide) d), stileWrite_intstat (stileAnswer s 0) hheld]

include hheld in
theorem exec_write_inten (d : W32) : exec (.registerWrite 0x34 d) s = .next (setInten (stileAnswer s 0) d) := by
  rw [exec_registerWrite_of_not_rings (rings_of_ne _ (by decide) d), stileWrite_inten (stileAnswer s 0) hheld]

include hheld hlc in
/-- While a command runs, or HWRDY is 0, a write from MBX_CMD to the doorbell sets OVR alone. -/
theorem exec_write_mbx_of_busy (h : s.mbx.busy = true ∨ s.boot.hwrdy = false) {i : Nat} (hi : i < 18) (d : W32) :
    exec (.registerWrite (0x1000 + 4 * i) d) s = .next { stileAnswer s 0 with mbx := { s.mbx with ovr := true } } := by
  rw [exec_registerWrite_of_not_rings (rings_of_busy (s := stileAnswer s 0) h _ d), stileWrite_mbx (stileAnswer s 0) hheld hlc hi,
    mbxWrite_of_busy (stileAnswer s 0) h]
  rfl

section
variable (hb : s.mbx.busy = false) (hr : s.boot.hwrdy = true)
include hheld hlc hb hr

theorem exec_write_cmd (d : W32) : exec (.registerWrite 0x1000 d) s = .next { stileAnswer s 0 with
    mbx := { s.mbx with opc := d.extractLsb' 0 8, ctag := d.extractLsb' 16 16 } } := by
  rw [exec_registerWrite_of_not_rings (rings_of_ne _ (by decide) d), stileWrite_mbx (stileAnswer s 0) (i := 0) hheld hlc (by decide),
    mbxWrite_of_free (stileAnswer s 0) hb hr, if_pos rfl]
  rfl

theorem exec_write_param {i : Nat} (hi : i < 16) (d : W32) : exec (.registerWrite (0x1004 + 4 * i) d) s =
    .next { stileAnswer s 0 with mbx := { s.mbx with param := smSet 0 s.mbx.param i d } } := by
  have hoff : 0x1004 + 4 * i = 0x1000 + 4 * (i + 1) := by omega
  have hword : (4 * (i + 1) - 4) / 4 = i := by omega
  rw [exec_registerWrite_of_not_rings (rings_of_ne _ (by omega) d), hoff, stileWrite_mbx (stileAnswer s 0) hheld hlc (by omega),
    mbxWrite_of_free (stileAnswer s 0) hb hr, if_neg (by omega), if_pos (by omega), hword]
  rfl

theorem exec_write_doorbell_of_go_zero {d : W32} (hgo : d.getLsbD 0 = false) :
    exec (.registerWrite 0x1044 d) s = .next (stileAnswer s 0) := by
  rw [exec_registerWrite_of_not_rings (rings_of_go_zero _ _ hgo), stileWrite_mbx (stileAnswer s 0) (i := 17) hheld hlc (by decide),
    mbxWrite_of_free (stileAnswer s 0) hb hr, if_neg (by decide), if_neg (by decide)]

theorem exec_write_doorbell_of_go {d : W32} (hgo : d.getLsbD 0 = true) :
    exec (.registerWrite 0x1044 d) s = execDoorbell (stileAnswer s 0) := by
  rw [exec_registerWrite, if_pos (rings_of_go (s := stileAnswer s 0) hheld hlc hb hr hgo)]

end

include hrun hlc in
theorem exec_write_status (d : W32) : exec (.registerWrite 0x1048 d) s = .next (clearMbx (stileAnswer s 0) d) := by
  rw [exec_registerWrite_of_not_rings (rings_of_ne _ (by decide) d), stileWrite_status (stileAnswer s 0) hrun hlc]

include hrun hlc in
theorem exec_write_hflag (d : W32) : exec (.registerWrite 0x1094 d) s =
    .next { stileAnswer s 0 with mbx := { s.mbx with hflag := d } } := by
  rw [exec_registerWrite_of_not_rings (rings_of_ne _ (by decide) d), stileWrite_hflag (stileAnswer s 0) hrun hlc]
  rfl

theorem exec_write_dsel (hup : Up s) (d : W32) :
    exec (.registerWrite 0x3F000 d) s = exec (.weirDselWrite d) (stileAnswer s 0) := by
  rw [exec_registerWrite_of_not_rings (rings_of_ne _ (by decide) d), stileWrite_dsel (stileAnswer s 0) hup.1]
  exact (running_of_alive (s := stileAnswer s 0) (alive_of_up hup) _).symm

theorem exec_write_fsel (hup : Up s) (d : W32) :
    exec (.registerWrite 0x80010 d) s = exec (.logFselWrite d) (stileAnswer s 0) := by
  rw [exec_registerWrite_of_not_rings (rings_of_ne _ (by decide) d), stileWrite_fsel (stileAnswer s 0) hup.1]
  exact (whenUp_of_up (s := stileAnswer s 0) hup fun s => selectLog s d).symm

theorem exec_write_other {off : Nat} (h : off % 4 ≠ 0 ∨ (off ≠ 0x30 ∧ off ≠ 0x34 ∧ off ≠ 0x1048 ∧ off ≠ 0x1094 ∧
    off ≠ 0x3F000 ∧ off ≠ 0x80010 ∧ (off < 0x1000 ∨ 0x1044 < off))) (d : W32) :
    exec (.registerWrite off d) s = .next (stileAnswer s 0) := by
  rw [exec_registerWrite_of_not_rings (rings_of_ne _ (by omega) d)]
  rcases h with h | h
  · rw [stileWrite_unaligned _ h]
  · rw [stileWrite_other _ h]

end

/-- Settles O59: each register by the lemma that says what a write to it does, and GO by the rows of its commands. -/
theorem registerWrites : Obligations.RegisterWrites := by
  unfold Obligations.RegisterWrites
  refine ⟨fun s u d hup hlc hu => ?_, fun s d ⟨hheld, _, _⟩ => ?_⟩
  · obtain ⟨hheld, -⟩ := alive_of_up hup
    obtain rfl : u = stileAnswer s 0 := hu
    refine ⟨?_, fun hb hr =>
        ⟨exec_write_cmd hheld hlc hb hr d, fun i hi => ?_, exec_write_doorbell_of_go_zero hheld hlc hb hr, ?_⟩,
      fun h i hi => exec_write_mbx_of_busy hheld hlc h hi d, exec_write_status hup.1 hlc d, exec_write_hflag hup.1 hlc d,
      exec_write_dsel hup d, exec_write_fsel hup d, fun off h => exec_write_other h d⟩
    · exact ⟨_, exec_write_intstat hheld d, fun i hi => clearInt_getLsbD _ d hi, rfl⟩
    · exact ⟨_, exec_write_param hheld hlc hb hr hi d, smGet_smSet_self .., fun j hj => smGet_smSet_other _ _ _ hj, rfl⟩
    · rintro hgo a rfl
      rw [exec_write_doorbell_of_go hheld hlc hb hr hgo]
      exact ⟨fun k c hrow hopc => execDoorbell_of_mem_goRows (r := (k, c)) hrow hopc,
        execDoorbell_of_host_memory (s := stileAnswer s 0), execDoorbell_of_unknown (s := stileAnswer s 0)⟩
  · have hinten (i : Nat) (hi : i < 4) := setInten_getLsbD (stileAnswer s 0) d hi
    refine ⟨_, exec_write_inten hheld d, by rw [hinten 2 (by decide)]; simp, fun i hi hne => ?_, fun i hi => ?_, rfl⟩
    · rw [hinten i hi, decide_eq_false hne, Bool.or_false]
    · rw [irqLines_getLsbD _ hi, hinten i hi, Bool.or_assoc, Bool.or_self]

end Sys2Proof.Machine
end
